-- ==== Sys2Proof/Word.lean ====
section
/-!
DEFINITION. The word types of the Q7 and the sparse tables the state is made of.
Bits are numbered from 0 at the least significant bit (R3); multi-byte values are little-endian (R4).
-/
namespace Sys2Proof

abbrev Byte := BitVec 8
abbrev W16 := BitVec 16
abbrev W32 := BitVec 32
abbrev W64 := BitVec 64
/-- The 64 bytes of a data token, a scratchpad line or an element register (R42, R116, R118). -/
abbrev Line := BitVec 512
/-- A side vector register, 32 lanes of 32 bits (R216). -/
abbrev VReg := BitVec 1024
/-- The 80 bits of a bundle (R217). -/
abbrev BundleBits := BitVec 80

/-- A sparse table: pairs of key and value with strictly rising keys. An absent key reads as the
default its reader names, so a large bank of like things is written down by what differs. -/
abbrev Tbl (α : Type) := List (Nat × α)

end Sys2Proof
end

