-- ==== Sys2Proof/Config.lean ====
section
/-!
DEFINITION. What an implementation fixes and the free values.
A free value is an opaque constant without a body: no proof can see what it is, so a statement
about it holds for every value (R9, R333; notes/assumptions/2.md).
-/
namespace Sys2Proof.Config

/-- The pool of free values: the n-th value the manual leaves open (R9). State holds the counter
that each step advances. DESIGN CHOICE: notes/assumptions/2.md. -/
opaque freeNat : Nat → Nat

/-- Module serial number, from fuses (R423). DESIGN CHOICE: notes/assumptions/14.md. -/
opaque fuseModId : Nat
/-- Silicon stepping, from fuses (R423). DESIGN CHOICE: notes/assumptions/14.md. -/
opaque fuseStep : Nat

/-- Verification of an RFC 8554 LMS signature by a public key over a list of bytes (R420). The
manual names the standard and does not restate it. DESIGN CHOICE: notes/assumptions/68.md. -/
opaque lmsVerify : (key : Nat) → (signed : List Byte) → (sig : List Byte) → Bool
/-- The signature a private key gives for a leaf index over a report (R421, R422). -/
opaque lmsSign : (key leaf : Nat) → (msg : List Byte) → List Byte
/-- SHA-256 (R404, R420, R422), named by the manual and not restated. DESIGN CHOICE: notes/assumptions/68.md. -/
opaque sha256 : List Byte → BitVec 256

/-- The quantum that firmware gives a priority, in cycles (R372). DESIGN CHOICE: notes/assumptions/100.md. -/
opaque quantum : (prio : Nat) → Nat

/-- The images by which the boot ROM configures a strip: 0 its corner, 1 the command front end of die 0 (R25,
R433). DESIGN CHOICE: notes/assumptions/82.md. -/
opaque bootImage : (strip image : Nat) → List Byte

end Sys2Proof.Config
end

