-- ==== Sys2Proof/Machine/Float.lean ====
section
/-!
DEFINITION. Number formats, exact values and ROUND (R34-R51).
-/
namespace Sys2Proof

/-! ### Format codes (R34) -/

/-- Width in bits of a format code; raw and the reserved code have none of their own (R34). -/
def fmtWidth (f : Nat) : Nat :=
  if f = 1 ∨ f = 10 ∨ f = 14 then 32
  else if f = 2 ∨ f = 3 ∨ f = 9 ∨ f = 12 then 16
  else if f = 4 ∨ f = 5 ∨ f = 7 ∨ f = 8 ∨ f = 11 then 8
  else if f = 6 then 4
  else if f = 13 then 2
  else 0

/-- Formats with sign, exponent and mantissa (R37). -/
def fmtFloat (f : Nat) : Bool := decide (1 ≤ f ∧ f ≤ 6)
/-- Two's-complement integer formats (R40). -/
def fmtSigned (f : Nat) : Bool := decide (8 ≤ f ∧ f ≤ 10)
/-- Unsigned integer formats (R40). -/
def fmtUnsigned (f : Nat) : Bool := decide (f = 11 ∨ f = 12 ∨ f = 14)
def fmtInt (f : Nat) : Bool := fmtSigned f || fmtUnsigned f

/-- Mantissa bits of a floating-point format (R37). -/
def fmtMant (f : Nat) : Nat :=
  if f = 1 then 23 else if f = 2 then 7 else if f = 3 then 10
  else if f = 4 then 3 else if f = 5 then 2 else 1
/-- Exponent bias of a floating-point format (R37). -/
def fmtBias (f : Nat) : Nat :=
  if f = 1 ∨ f = 2 then 127 else if f = 3 ∨ f = 5 then 15 else if f = 4 then 7 else 1
/-- The code of the largest finite value (R37). -/
def fmtMaxCode (f : Nat) : Nat :=
  if f = 1 then 0x7F7FFFFF else if f = 2 then 0x7F7F else if f = 3 then 0x7BFF
  else if f = 4 then 0x7E else if f = 5 then 0x7B else 7
/-- Formats with an infinity (R37). -/
def fmtHasInf (f : Nat) : Bool := decide (f = 1 ∨ f = 2 ∨ f = 3 ∨ f = 5)
/-- The canonical NaN (R39); 0 for a format without NaN. -/
def fmtNaN (f : Nat) : Nat :=
  if f = 1 then 0x7FC00000 else if f = 2 then 0x7FC0 else if f = 3 then 0x7E00
  else if f = 4 then 0x7F else if f = 5 then 0x7E else if f = 7 then 0xFF else 0

/-! ### Exact values -/

/-- An exact value: `(-1)^neg × m × 2^e`, where `sticky` adds an unknown part strictly between 0
and 1 to `m` (a result whose digits go on). A zero keeps its sign. -/
inductive Val where
  | nan
  | inf (neg : Bool)
  | num (neg : Bool) (m : Nat) (e : Int) (sticky : Bool)
deriving DecidableEq, Repr

/-- Flags and counts a conversion sets (R44-R50); `inv` is the FP_INVALID condition of R49, which
is `iv` except where an operation says otherwise. -/
structure Fl where
  iv : Bool := false
  dz : Bool := false
  ovf : Bool := false
  uf : Bool := false
  sclamp : Bool := false
  sat : Nat := 0
  ufl : Nat := 0
  inv : Bool := false
deriving DecidableEq, Repr

def Fl.or (a b : Fl) : Fl :=
  { iv := a.iv || b.iv, dz := a.dz || b.dz, ovf := a.ovf || b.ovf, uf := a.uf || b.uf,
    sclamp := a.sclamp || b.sclamp, sat := a.sat + b.sat, ufl := a.ufl + b.ufl,
    inv := a.inv || b.inv }

/-- The flags without the counts. -/
def Fl.uncounted (f : Fl) : Fl := { f with sat := 0, ufl := 0 }

def Fl.invalid : Fl := { iv := true, inv := true }

/-- The cause of the first condition of R49's table that is met, if any. -/
def Fl.cause (f : Fl) : Option Nat :=
  if f.inv then some 0x30 else if f.dz then some 0x31 else if f.ovf then some 0x32 else none

/-- A code and the flags of making it. -/
structure Rnd where
  code : Nat
  fl : Fl := {}
deriving DecidableEq, Repr

/-- A result whose NaN met its condition in an earlier firing, or in an earlier step of this one (R49, R381). -/
def Rnd.met (r : Rnd) : Rnd := { r with fl := { r.fl with inv := false } }

def Val.zero (neg : Bool) : Val := .num neg 0 0 false

/-- The value of a code of a format (R37, R38, R40, R41). -/
def decodeVal (f code : Nat) : Val :=
  if fmtFloat f then
    let w := fmtWidth f
    let p := fmtMant f
    let c := code % 2 ^ w
    let neg := bit c (w - 1)
    let mag := c % 2 ^ (w - 1)
    if mag ≤ fmtMaxCode f then
      let ef := mag >>> p
      let mf := mag % 2 ^ p
      if ef = 0 then .num neg mf (1 - (fmtBias f : Int) - p) false
      else .num neg (2 ^ p + mf) ((ef : Int) - fmtBias f - p) false
    else if fmtHasInf f && mag % 2 ^ p == 0 then .inf neg
    else .nan
  else if f = 7 then
    let c := code % 256
    if c = 255 then .nan else .num false 1 ((c : Int) - 127) false
  else if f = 13 then
    let c := code % 4
    if c = 1 then .num false 1 0 false
    else if c = 3 then .num true 1 0 false
    else .zero false
  else
    let v : Int := if fmtSigned f then sextInt (fmtWidth f) code else (code % 2 ^ fmtWidth f : Nat)
    .num (decide (v < 0)) v.natAbs 0 false

/-- A non-zero value of a floating-point format below its smallest normal (R49). -/
def isSubnormal (f code : Nat) : Bool :=
  fmtFloat f &&
    (let mag := code % 2 ^ (fmtWidth f - 1)
     decide (0 < mag ∧ mag < 2 ^ fmtMant f))

/-- Decoding under the special-value policy: flush reads a subnormal as zero of its sign (R49). -/
def decodeSv (f : Nat) (flush : Bool) (code : Nat) : Val :=
  if flush && isSubnormal f code then .zero (bit code (fmtWidth f - 1)) else decodeVal f code

def Val.isNaN : Val → Bool
  | .nan => true
  | _ => false
def Val.isInf : Val → Bool
  | .inf _ => true
  | _ => false
def Val.isZero : Val → Bool
  | .num _ m _ st => m == 0 && !st
  | _ => false
def Val.sign : Val → Bool
  | .nan => false
  | .inf n => n
  | .num n _ _ _ => n
def Val.negate : Val → Val
  | .nan => .nan
  | .inf n => .inf !n
  | .num n m e st => .num (!n) m e st
def Val.abs : Val → Val
  | .nan => .nan
  | .inf _ => .inf false
  | .num _ m e st => .num false m e st

/-- Mantissas of two numbers over one exponent, as signed integers. -/
def alignNum (n1 : Bool) (m1 : Nat) (e1 : Int) (n2 : Bool) (m2 : Nat) (e2 : Int) :
    Int × Int × Int :=
  let e := if e1 ≤ e2 then e1 else e2
  let a : Int := (m1 <<< (e1 - e).toNat : Nat)
  let b : Int := (m2 <<< (e2 - e).toNat : Nat)
  (if n1 then -a else a, if n2 then -b else b, e)

/-- The exact sum; `down` is rounding toward −∞, which alone gives −0 for a sum of opposite signs
that is zero (R44). -/
def Val.add (down : Bool) : Val → Val → Val
  | .nan, _ => .nan
  | _, .nan => .nan
  | .inf a, .inf b => if a = b then .inf a else .nan
  | .inf a, _ => .inf a
  | _, .inf b => .inf b
  | .num n1 m1 e1 _, .num n2 m2 e2 _ =>
    let (a, b, e) := alignNum n1 m1 e1 n2 m2 e2
    let s := a + b
    if s = 0 then .zero (if n1 = n2 then n1 else down)
    else .num (decide (s < 0)) s.natAbs e false

/-- The exact product (R49: zero times infinity is NaN). -/
def Val.mul : Val → Val → Val
  | .nan, _ => .nan
  | _, .nan => .nan
  | .inf a, .inf b => .inf (a != b)
  | .inf a, .num n m _ _ => if m = 0 then .nan else .inf (a != n)
  | .num n m _ _, .inf b => if m = 0 then .nan else .inf (n != b)
  | .num n1 m1 e1 _, .num n2 m2 e2 _ => .num (n1 != n2) (m1 * m2) (e1 + e2) false

/-- The quotient, to 160 bits and a sticky rest (R49, R153). -/
def Val.div : Val → Val → Val
  | .nan, _ => .nan
  | _, .nan => .nan
  | .inf _, .inf _ => .nan
  | .inf a, .num n _ _ _ => .inf (a != n)
  | .num n _ _ _, .inf b => .zero (n != b)
  | .num n1 m1 e1 _, .num n2 m2 e2 _ =>
    if m2 = 0 then (if m1 = 0 then .nan else .inf (n1 != n2))
    else
      let k := 160 + Nat.log2 m2
      let q := (m1 <<< k) / m2
      .num (n1 != n2) q (e1 - e2 - k) (decide (q * m2 ≠ m1 <<< k))

/-- Whether a quotient divides a finite non-zero value by zero (R49). -/
def Val.div0 : Val → Val → Bool
  | .num _ m1 _ _, .num _ m2 _ _ => decide (m1 ≠ 0 ∧ m2 = 0)
  | _, _ => false

/-- Integer square root, one bit at a time from bit `i` down. -/
def isqrtGo (n : Nat) : Nat → Nat → Nat
  | 0, r => if (r + 1) * (r + 1) ≤ n then r + 1 else r
  | i + 1, r =>
    let c := r + 2 ^ (i + 1)
    isqrtGo n i (if c * c ≤ n then c else r)
def isqrt (n : Nat) : Nat := isqrtGo n (Nat.log2 n / 2 + 1) 0

/-- 1/√a for a positive number (R153, R263). -/
def Val.rsqrt : Val → Val
  | .nan => .nan
  | .inf n => if n then .nan else .zero false
  | .num n m e _ =>
    if m = 0 then .inf n
    else if n then .nan
    else
      let (m', e') := if e % 2 = 0 then (m, e) else (2 * m, e - 1)
      let k := 160 + Nat.log2 m'
      let q := (2 ^ (2 * k)) / m'
      let r := isqrt q
      .num false r (-(e' / 2) - k) (decide (r * r * m' ≠ 2 ^ (2 * k)))

/-- Compare two values that are not NaN; −0 equals +0. -/
def Val.cmp : Val → Val → Ordering
  | .inf a, .inf b => if a = b then .eq else if a then .lt else .gt
  | .inf a, _ => if a then .lt else .gt
  | _, .inf b => if b then .gt else .lt
  | .num n1 m1 e1 _, .num n2 m2 e2 _ =>
    let (a, b, _) := alignNum n1 m1 e1 n2 m2 e2
    if a < b then .lt else if a = b then .eq else .gt
  | _, _ => .eq

/-! ### ROUND (R44-R47) -/

/-- How to round: the mode of R44, or the draw of R47. -/
structure RMode where
  rnd : Nat
  draw : Option Nat := none
deriving DecidableEq, Repr

/-- Toward −∞, for the sign of an exact zero sum (R44). -/
def RMode.down (r : RMode) : Bool := r.draw.isNone && r.rnd == 2

/-- Whether the larger magnitude is taken, between a magnitude's two neighbours: `odd` is the last
bit of the smaller, `rem / 2^d` (and `st`) the part above it. -/
def roundUp (r : RMode) (neg odd : Bool) (rem d : Nat) (st : Bool) : Bool :=
  if rem = 0 ∧ st = false then false
  else match r.draw with
    | some u => decide ((rem <<< 32) >>> d > u)
    | none =>
      if r.rnd = 0 then
        (decide (2 * rem > 2 ^ d) || (decide (2 * rem = 2 ^ d) && (st || odd)))
      else if r.rnd = 1 then false
      else if r.rnd = 2 then neg
      else !neg

/-- The overflow table of R44. -/
def overflowTo (f : Nat) (sat : Bool) (mode : Nat) (neg : Bool) : Rnd :=
  let s := if neg then 2 ^ (fmtWidth f - 1) else 0
  let toMax := sat || f == 6 || mode == 1 || (mode == 2 && !neg) || (mode == 3 && neg)
  if toMax then { code := s + fmtMaxCode f, fl := { ovf := true, sat := 1 } }
  else if fmtHasInf f then { code := s + fmtMaxCode f + 1, fl := { ovf := true } }
  else { code := fmtNaN f, fl := { ovf := true } }

/-- ROUND to a floating-point format (R44, R47), with saturation and the flush of results (R49). -/
def roundFloat (f : Nat) (r : RMode) (sat flush : Bool) (v : Val) : Rnd :=
  let top := 2 ^ (fmtWidth f - 1)
  match v with
  | .nan => { code := fmtNaN f, fl := Fl.invalid }
  | .inf neg =>
    let s := if neg then top else 0
    if sat || f == 6 then { code := s + fmtMaxCode f, fl := { sat := 1 } }
    else if fmtHasInf f then { code := s + fmtMaxCode f + 1 }
    else { code := fmtNaN f, fl := Fl.invalid }
  | .num neg m e st =>
    let s := if neg then top else 0
    if m = 0 then { code := s }
    else
      let p := fmtMant f
      let emin : Int := 1 - (fmtBias f : Int)
      let ex : Int := (Nat.log2 m : Int) + e
      let q : Int := (if ex < emin then emin else ex) - p
      let (a, up) :=
        if q ≤ e then (m <<< (e - q).toNat, false)
        else
          let d := (q - e).toNat
          let a := m >>> d
          (a, roundUp r neg (a % 2 == 1) (m % 2 ^ d) d st)
      let rm := if up then a + 1 else a
      let code := (q - (emin - p)).toNat * 2 ^ p + rm
      if code > fmtMaxCode f then
        overflowTo f sat (match r.draw with
          | some _ => if up then 0 else 1
          | none => r.rnd) neg
      else if flush && decide (0 < code ∧ code < 2 ^ p) then { code := s, fl := { uf := true } }
      else { code := s + code }

/-- Smallest and largest value of an integer format (R40). -/
def intMin (f : Nat) : Int := if fmtSigned f then -(2 ^ (fmtWidth f - 1) : Nat) else 0
def intMax (f : Nat) : Int :=
  if fmtSigned f then (2 ^ (fmtWidth f - 1) : Nat) - 1 else (2 ^ fmtWidth f : Nat) - 1

/-- The nearer end of the range, and whether that changed the value (R40, R45). -/
def clampInt (f : Nat) (v : Int) : Int × Bool :=
  if v < intMin f then (intMin f, true) else if v > intMax f then (intMax f, true) else (v, false)

/-- The integer nearest to a value under a mode (R45, ties of R44). -/
def toInteger (r : RMode) (neg : Bool) (m : Nat) (e : Int) (st : Bool) : Int :=
  let a := if 0 ≤ e then m <<< e.toNat else m >>> (-e).toNat
  let d := (-e).toNat
  let up := if 0 ≤ e then false else roundUp r neg (a % 2 == 1) (m % 2 ^ d) d st
  let k : Int := (if up then a + 1 else a : Nat)
  if neg then -k else k

/-- ROUND to an integer format (R45). -/
def roundInt (f : Nat) (r : RMode) (v : Val) : Rnd :=
  let w := fmtWidth f
  match v with
  | .nan => { code := 0, fl := Fl.invalid }
  | .inf neg => { code := wrapInt w (if neg then intMin f else intMax f), fl := { sat := 1 } }
  | .num neg m e st =>
    let (c, cl) := clampInt f (toInteger r neg m e st)
    { code := wrapInt w c, fl := { sat := if cl then 1 else 0 } }

/-- ROUND to e8m0 (R46, R47); the sign is ignored. -/
def roundE8m0 (r : RMode) (v : Val) : Rnd :=
  match v with
  | .nan => { code := 0xFF, fl := Fl.invalid }
  | .inf _ => { code := 0xFF, fl := Fl.invalid }
  | .num _ m e st =>
    if m = 0 then { code := 0, fl := { sclamp := true } }
    else
      let k := Nat.log2 m
      let rem := m % 2 ^ k
      let up :=
        if rem = 0 ∧ st = false then false
        else match r.draw with
          | some u => decide ((rem <<< 32) >>> k > u)
          | none =>
            if r.rnd = 0 then decide (2 * rem ≥ 2 ^ k)
            else if r.rnd = 3 then true
            else false
      let x : Int := (k : Int) + e + (if up then 1 else 0) + 127
      if x < 0 then { code := 0, fl := { sclamp := true } }
      else if x > 254 then { code := 0xFE, fl := { sat := 1 } }
      else { code := x.toNat }

/-- The sign select into t2 (R51, R163). -/
def toT2 (v : Val) : Rnd :=
  match v with
  | .nan => { code := 0, fl := Fl.invalid }
  | v => if v.isZero then { code := 0 } else if v.sign then { code := 3 } else { code := 1 }

/-- ROUND into any numeric format (R44-R47, R51). -/
def roundTo (f : Nat) (r : RMode) (sat flush : Bool) (v : Val) : Rnd :=
  if fmtFloat f then roundFloat f r sat flush v
  else if f = 7 then roundE8m0 r v
  else if f = 13 then toT2 v
  else roundInt f r v

/-! ### Generators (R48) -/

def lfsrStep (s : Nat) : Nat := if s % 2 = 1 then (s >>> 1) ^^^ 0x80200003 else s >>> 1
/-- Generator `l` seeded from a word (R48, R236 VSEED). DESIGN CHOICE: notes/assumptions/7.md. -/
def lfsrSeed (k l : Nat) : Nat :=
  let x := (k % 2 ^ 32) ^^^ ((l * 0x9E3779B9) % 2 ^ 32)
  if x = 0 then 1 else x

/-! ### vexp2 and vlog2 (R263): fixed-point series with a bounded error -/

/-- Sum over k of t_k, with t_{k+1} = t_k y / (k+1), in units of 2^-p. -/
def expGo (p y : Nat) : Nat → Nat → Nat → Nat → Nat
  | 0, _, _, acc => acc
  | n + 1, k, t, acc => let t' := ((t * y) >>> p) / k; expGo p y n (k + 1) t' (acc + t')

/-- Sum of z^(2k+1)/(2k+1), in units of 2^-p. -/
def atanhGo (p z2 : Nat) : Nat → Nat → Nat → Nat → Nat
  | 0, _, _, acc => acc
  | n + 1, k, t, acc => atanhGo p z2 n (k + 2) ((t * z2) >>> p) (acc + t / k)

/-- ln(a/b) for 1 ≤ a/b ≤ 2, below the true value by less than 1000 units of 2^-p. -/
def lnRatio (p a b : Nat) : Nat :=
  let z := ((a - b) <<< p) / (a + b)
  2 * atanhGo p ((z * z) >>> p) (p / 3 + 2) 1 z 0

def log2P : Nat := 384
/-- ln 2 in units of 2^-384, truncated. -/
def ln2Fix : Nat := lnRatio log2P 2 1

/-- A fixed-point result known to lie within 2^20 units: its upper digits and a sticky rest. -/
def fixVal (neg : Bool) (x : Nat) (e : Int) : Val :=
  .num neg (x >>> 64) (e - log2P + 64) true

/-- 2^x of a number (R263). -/
def Val.exp2 : Val → Val
  | .nan => .nan
  | .inf n => if n then .zero false else .inf false
  | .num n m e _ =>
    if m = 0 then .num false 1 0 false
    else
      -- beyond these the result is below every format, or an exact power of two above every format
      if n ∧ (Nat.log2 m : Int) + e ≥ 12 then .num false 1 (-4096) false
      else if (Nat.log2 m : Int) + e ≥ 24 then .num false 1 (2 ^ 24) false
      else
        -- x = i + f with 0 ≤ f < 1, f in units of 2^-384
        let fx : Int :=
          (if 0 ≤ e + log2P then (m <<< (e + log2P).toNat : Nat) else (m >>> (-(e + log2P)).toNat : Nat))
        let x := if n then -fx else fx
        let i := x / (2 ^ log2P : Nat)
        let f := (x % (2 ^ log2P : Nat)).toNat
        if f = 0 then .num false 1 i false
        else
          let y := (f * ln2Fix) >>> log2P
          fixVal false (2 ^ log2P + expGo log2P y 90 1 (2 ^ log2P) 0) i

/-- log2 of a number (R263). -/
def Val.log2 : Val → Val
  | .nan => .nan
  | .inf n => if n then .nan else .inf false
  | .num n m e _ =>
    if m = 0 then .inf true
    else if n then .nan
    else
      let k := Nat.log2 m
      let ex : Int := (k : Int) + e
      if m = 2 ^ k then
        (if ex = 0 then .zero false else .num (decide (ex < 0)) ex.natAbs 0 false)
      else
        let l := ((lnRatio log2P m (2 ^ k) <<< log2P) / ln2Fix)
        let x : Int := ex * (2 ^ log2P : Nat) + l
        fixVal (decide (x < 0)) x.natAbs 0

end Sys2Proof
end

