-- ==== Sys2Proof/Syntax.lean ====
section
/-!
DEFINITION. The steps of the Q7: one constructor of `Instr` per row of spec/opcode_table.json.
Rows are of four kinds. Slot A and slot B instructions of a bundle (R237, R238), element operation
words (R139, R148) and weight blocks (R310, R311) carry the fields of their encodings. Commands,
packets, register writes, repair tokens and RDMA requests carry what they name. The remaining rows
are events of one unit, and carry the unit's name; where the manual leaves a choice to firmware or
to the outside world, the choice is an operand (R26).
-/
namespace Sys2Proof

/-- A 5-bit register field (R219). -/
abbrev Reg := BitVec 5
/-- A mask register field (R219). -/
abbrev MReg := BitVec 3
/-- A format code (R34). -/
abbrev Fmt := BitVec 4

/-- The test of br (R244). -/
inductive Cond where
  | eq | ne | lt | ge | gt | le
deriving DecidableEq, Repr

/-- How a side vector lane is read (R257). -/
inductive VTy where
  | f32 | i32 | n32
deriving DecidableEq, Repr

/-- The test of vcmp (R266). -/
inductive VCond where
  | eq | ne | lt | le | gt | ge | uo
deriving DecidableEq, Repr

/-- The operation of vred (R260). -/
inductive RedOp where
  | sum | max | min
deriving DecidableEq, Repr

/-- The forms of vmov by KIND (R270). -/
inductive VMov where
  | vv (d a : Reg) (mk : MReg)
  | sv (d a : Reg) (lane : BitVec 5)
  | vs (d a : Reg) (lane : BitVec 5)
deriving DecidableEq, Repr

/-- The forms of vbcst (R269). -/
inductive VBcst where
  | lane (d a : Reg) (lane : BitVec 5) (mk : MReg)
  | scalar (d a : Reg) (mk : MReg)
deriving DecidableEq, Repr

/-- The type of ld (R276). -/
inductive LdTy where
  | n8 | n16 | n32 | x64 | i8 | i16 | i32
deriving DecidableEq, Repr

/-- The operation of amo (R279) and the RMWOP of agrmw (R170). -/
inductive AmoOp where
  | add | min | max | and | or | xor | xchg
deriving DecidableEq, Repr

/-- The element width of xtrn (R297). -/
inductive XtrnW where
  | w8 | w16 | w32
deriving DecidableEq, Repr

/-- The fields of an element operation word below its opcode (R139). -/
structure EOp where
  fmt : Fmt
  ovc : BitVec 5
  sa : BitVec 3
  sb : BitVec 3
  sc : BitVec 3
  reg : BitVec 3
  pg : Bool
  pp : Bool
  sv : BitVec 2
deriving DecidableEq, Repr

/-- An engine (R81). -/
inductive Eng where
  | tile (t : Nat)
  | link (die k : Nat)
  | eth
deriving DecidableEq, Repr

/-- Where a token or pennant stands before its next hop: an element's output, a box output buffer,
or an element's mesh arrival (R123). -/
inductive HopSrc where
  | elem (e : Nat)
  | box (b port : Nat)
  | mesh (b : Nat)
  /-- A fault token at its element (R375). -/
  | flt (e : Nat)
  /-- A fault token that crosses the mesh to a strip's corner (R375). -/
  | corner
deriving DecidableEq, Repr

/-- The fields a repair token matches and carries (R376). -/
structure Repair where
  tile : Nat
  unit : Nat
  ctx : BitVec 6
  fseq : Byte
  value : W32
  /-- Its bits that R376 says are zero: ACTION [7:3], CTX [7:6], and bytes 6 and 7. -/
  rsvAct : BitVec 5 := 0
  rsvCtx : BitVec 2 := 0
  rsv : BitVec 16 := 0
deriving DecidableEq, Repr

/-- What firmware chooses when it loads an object (R402): addresses of the copied sections, pages
that back them, fresh page tables, image numbers, placement sets, and the object handle. -/
structure LoadFw where
  alloc : List (Nat × Nat)
  pages : List (Nat × Nat)
  tables : List Nat
  images : List (Nat × Nat)
  placement : List (Nat × List Nat)
  handle : Nat
  mustSign : Bool
  versions : List Nat
  noRoom : Bool
deriving DecidableEq, Repr

/-- What bring-up finds (R427, R433). -/
structure Bringup where
  cpOk : Bool
  tamper : Bool
  fwOk : Bool
  romOk : Bool
  policy : Bool
  badStacks : Nat
  badTiles : List Nat
  usedSpares : Bool
  lanes : List (BitVec 16)
  ethOk : Bool
  logState : Nat
  /-- The root key slot that signs the firmware, the SHA-256 of the public key that comes with it, and the SHA-256 of the
  firmware; `fwOk` says that its signature verifies under that key (R420, R433). -/
  fwSlot : Nat := 0
  fwKey : Nat := 0
  fwHash : Nat := 0
  /-- Repair fuses: ARRMAP and ACCSPARE of a tile (R202, R433). -/
  fuses : List (Nat × W64 × W64) := []
deriving DecidableEq, Repr

/-- A control processor access of package memory (R66, R337). -/
inductive CpOp where
  | load (pa n : Nat)
  | store (pa n v : Nat)
  | fence (pred succ : Bool)
deriving DecidableEq, Repr

/-- What a soft error hits (R62, R102, R373, R393). -/
inductive SoftErr where
  | hbmCorrected (stack : Nat)
  | hbmHalf (pa : Nat)
  | spmCorrected (tile : Nat)
  | spmWord (pa : Nat)
  /-- Entry `i` of queue `q` of a plane; queue 3 holds pennants. -/
  | queueEntry (u e p q i : Nat)
  /-- Entry `i` of a box buffer toward a port: data, or pennants. -/
  | boxEntry (u b : Nat) (pen : Bool) (port i : Nat)
  | planeWords (u e : Nat)
  | meshToken (u e : Nat)
  | accWord (t row col : Nat)
  | regWord (t : Nat) (vector : Bool) (r : Nat)
  | weightSlot (t slot : Nat)
  | contextStore (u image : Nat)
deriving DecidableEq, Repr

/-- One constructor per row of the opcode table. -/
inductive Instr where
  -- Slot A: control (R243)
  | br (a : Reg) (c : Cond) (off : BitVec 17)
  | jmp (off : BitVec 17)
  | jal (a : Reg) (off : BitVec 17)
  | ret (a : Reg)
  | loop (d a : Reg) (len : BitVec 15)
  | trap (code : BitVec 20)
  -- Slot A: scalar (R251)
  | add (d a b : Reg)
  | sub (d a b : Reg)
  | mul (d a b : Reg)
  | mulh (u : Bool) (d a b : Reg)
  | div (u : Bool) (d a b : Reg)
  | rem (u : Bool) (d a b : Reg)
  | and (d a b : Reg)
  | or (d a b : Reg)
  | xor (d a b : Reg)
  | shl (d a b : Reg)
  | shr (d a b : Reg)
  | sra (d a b : Reg)
  | min (u : Bool) (d a b : Reg)
  | max (u : Bool) (d a b : Reg)
  | slt (u : Bool) (d a b : Reg)
  | sel (d a b c : Reg)
  | sadd (d a b : Reg) (sh : BitVec 2)
  | clz (w : Bool) (d a : Reg)
  | popc (w : Bool) (d a : Reg)
  | bext (sx : Bool) (d a b : Reg)
  | bins (d a b : Reg)
  | addi (d a : Reg) (imm : BitVec 15)
  | muli (d a : Reg) (imm : BitVec 15)
  | andi (d a : Reg) (imm : BitVec 15)
  | ori (d a : Reg) (imm : BitVec 15)
  | xori (d a : Reg) (imm : BitVec 15)
  | shli (d a : Reg) (amt : BitVec 6)
  | shri (d a : Reg) (amt : BitVec 6)
  | srai (d a : Reg) (amt : BitVec 6)
  | slti (d a : Reg) (imm : BitVec 15)
  | mini (d a : Reg) (imm : BitVec 15)
  | maxi (d a : Reg) (imm : BitVec 15)
  | li20 (d : Reg) (imm : BitVec 20)
  | lih (d : Reg) (imm : BitVec 20)
  | mfs (d : Reg) (n : BitVec 12)
  | mts (a : Reg) (n : BitVec 12)
  -- Slot A: side vector (R260)
  | vadd (d a b : Reg) (mk : MReg)
  | vsub (d a b : Reg) (mk : MReg)
  | vmul (d a b : Reg) (mk : MReg)
  | vfma (d a b : Reg) (mk : MReg)
  | vmin (ty : VTy) (d a b : Reg) (mk : MReg)
  | vmax (ty : VTy) (d a b : Reg) (mk : MReg)
  | vabs (ty : VTy) (d a : Reg) (mk : MReg)
  | vneg (ty : VTy) (d a : Reg) (mk : MReg)
  | vcvt (dst src : Fmt) (d a : Reg) (mk : MReg)
  | vcmp (ty : VTy) (c : VCond) (d : MReg) (a b : Reg) (mk : MReg)
  | vsel (d a b : Reg) (m : MReg)
  | vred (ty : VTy) (op : RedOp) (d a : Reg) (mk : MReg)
  | vbcst (f : VBcst)
  | vshuf (d a b : Reg) (mk : MReg)
  | vmov (f : VMov)
  | vand (d a b : Reg) (mk : MReg)
  | vor (d a b : Reg) (mk : MReg)
  | vxor (d a b : Reg) (mk : MReg)
  | viadd (u : Bool) (d a b : Reg) (mk : MReg)
  | vimul (u : Bool) (d a b : Reg) (mk : MReg)
  | vrcp (d a : Reg) (mk : MReg)
  | vrsq (d a : Reg) (mk : MReg)
  | vexp2 (d a : Reg) (mk : MReg)
  | vlog2 (d a : Reg) (mk : MReg)
  | mand (d a b : MReg)
  | mor (d a b : MReg)
  | mnot (d a : MReg)
  | mpop (d : Reg) (a : MReg)
  | fixedLatencyWriteback (t : Nat)
  | sideVectorTrap (t : Nat)
  -- Slot B (R238)
  | ld (ty : LdTy) (d a : Reg) (off : BitVec 11)
  | st (sz : BitVec 2) (d a : Reg) (off : BitVec 11)
  | ldv (d a : Reg) (off : BitVec 11) (mk : MReg)
  | stv (d a : Reg) (off : BitVec 11) (mk : MReg)
  | loadDataReturn (t id : Nat)
  | storePerformed (t id : Nat)
  | amo (op : AmoOp) (u w : Bool) (ord : BitVec 2) (scope : BitVec 3) (d a b : Reg)
  | cas (w : Bool) (ord : BitVec 2) (scope : BitVec 3) (d a b : Reg)
  | fence (kinds : BitVec 4) (scope : BitVec 3)
  | fenceComplete (t id : Nat)
  | ldacc (d a : Reg) (g : BitVec 2) (off : BitVec 7)
  | stacc (d a : Reg) (g : BitVec 2) (off : BitVec 7)
  | accz (a b : Reg) (mask : BitVec 4)
  | accWritePerformed (t id : Nat)
  | wtl (slot : BitVec 2)
  | mma (a b : Reg) (pair : BitVec 4) (pass : BitVec 2) (slot : BitVec 2) (acc ds : Bool)
  | fire (rgn cslot : BitVec 2) (arr src drn dom : Bool) (b : Reg)
  | cfgs (rgn cslot plane : BitVec 2) (img : BitVec 5)
  | cfgw (rgn cslot : BitVec 2)
  | cfgp (rgn cslot : BitVec 2)
  | copy (a : Reg) (tk : BitVec 6) (off : BitVec 9)
  | netr (a : Reg) (tk : BitVec 6) (off : BitVec 9)
  | netw (a : Reg) (tk : BitVec 6) (off : BitVec 9)
  | stgr (a : Reg) (tk : BitVec 6) (off : BitVec 9)
  | stgw (a : Reg) (tk : BitVec 6) (off : BitVec 9)
  | tkw (d : Reg) (tk : BitVec 6) (clr : Bool)
  | tkq (d : Reg) (tk : BitVec 6) (clr : Bool)
  | rot (d a b : Reg)
  | xexp (f : Fmt) (d a : Reg) (p : BitVec 4)
  | xtrn (w : XtrnW) (r : BitVec 3) (d a : Reg)
  | xcvt (f : Fmt) (d a : Reg) (p : BitVec 4)
  | dcfg (a b : Reg) (rmax : BitVec 6)
  | decoderFill (t : Nat)
  | dpop (d : Reg)
  | bjoin (home : BitVec 6) (id : Byte) (step : Bool)
  | bleave (home : BitVec 6) (id : Byte)
  | barv (home : BitVec 6) (id : Byte)
  | bwait (home : BitVec 6) (id : Byte)
  | barrierPhaseComplete (b : Nat)
  | stepComplete (b : Nat)
  | yield (a : Reg) (any : Bool)
  | wdrive (a : Reg)
  | sys (d : Reg) (svc : BitVec 20)
  | instructionFetch (t : Nat)
  -- Weight blocks (R310, R311)
  | wNop (link0 : W64)
  | wMma (ctx : BitVec 2) (acc src : Bool) (fmt : Fmt) (sparse : BitVec 2) (mx : Bool) (kc : BitVec 2) (pair : BitVec 4) (plen : W32) (link0 : W64) (otoff : BitVec 24) (nout : BitVec 7)
  | wMmaz (ctx : BitVec 2) (acc src : Bool) (link0 : W64)
  | wExit (ctx : BitVec 2) (src : Bool) (link0 : W64)
  | wBr (ctx psrc : BitVec 2) (pnot : Bool) (link0 link1 : W64)
  | wCall (link0 link1 : W64)
  | wSync (tk : BitVec 6) (clr : Bool) (link0 : W64)
  | wScale (link0 : W64)
  | wblockRead (t : Nat)
  | payloadLoad (t : Nat)
  -- Element operations (R148)
  | pass (o : EOp)
  | const (o : EOp)
  | bnr (o : EOp)
  | eos (o : EOp)
  | cnt (o : EOp)
  | dup (o : EOp)
  | iadd (o : EOp)
  | isub (o : EOp)
  | imul (o : EOp)
  | imulh (o : EOp)
  | iand (o : EOp)
  | ior (o : EOp)
  | ixor (o : EOp)
  | ishl (o : EOp)
  | ishr (o : EOp)
  | isra (o : EOp)
  | imin (o : EOp)
  | imax (o : EOp)
  | iabs (o : EOp)
  | icmp (o : EOp)
  | isat (o : EOp)
  | imac (o : EOp)
  | fadd (o : EOp)
  | fsub (o : EOp)
  | fmul (o : EOp)
  | ffma (o : EOp)
  | fmin (o : EOp)
  | fmax (o : EOp)
  | fneg (o : EOp)
  | fdiv (o : EOp)
  | frsq (o : EOp)
  | fcmp (o : EOp)
  | cvt (o : EOp)
  | deq (o : EOp)
  | qnt (o : EOp)
  | amax (o : EOp)
  | lut (o : EOp)
  | lutTableRead (u e p : Nat)
  | rred (o : EOp)
  | rsum (o : EOp)
  | rmax (o : EOp)
  | rmin (o : EOp)
  | shuf (o : EOp)
  | bcst (o : EOp)
  | algn (o : EOp)
  | pack (o : EOp)
  | unpk (o : EOp)
  | steer (o : EOp)
  | merge (o : EOp)
  | gate (o : EOp)
  | pgen (o : EOp)
  | elemSel (o : EOp)
  | hfwd (o : EOp)
  | hinv (o : EOp)
  | hthr (o : EOp)
  | agld (o : EOp)
  | agst (o : EOp)
  | agreq (o : EOp)
  | agrmw (o : EOp)
  | feed (o : EOp)
  | wld (o : EOp)
  | drn (o : EOp)
  | emit (o : EOp)
  | recv (o : EOp)
  -- Collar events
  | tokenHop (u : Nat) (h : HopSrc)
  | pennantHop (u : Nat) (h : HopSrc)
  | bannerCut (u e p : Nat)
  | cutComplete (u r slot : Nat)
  | sourceStartArrival (u e : Nat)
  | agDescriptorRead (u e p : Nat)
  | switchRequestArrival (u r : Nat)
  | elementPlaneSwitch (u e slot : Nat)
  | configLoad (u : Nat)
  -- Array events
  | decompressorPreload (t : Nat)
  | passStart (t : Nat)
  | aRowAccept (t : Nat)
  | tileHoldAssert (t : Nat)
  | tileHoldRelease (t : Nat)
  | mmaComplete (t id : Nat)
  | weightImageComplete (t slot : Nat)
  -- Translation and memory
  | walkRequest (u : Nat)
  | pageWalkComplete (die asid vpn : Nat)
  | invalidationComplete (t : Nat)
  -- Engine commands
  | cmdCopy (e : Eng) (id : Nat)
  | cmdLpush (e : Eng) (id : Nat)
  | cmdLpull (e : Eng) (id : Nat)
  | cmdNetr (e : Eng) (id : Nat)
  | cmdNetw (e : Eng) (id : Nat)
  | cmdStgr (e : Eng) (id : Nat)
  | cmdStgw (e : Eng) (id : Nat)
  | engineCmdComplete (e : Eng) (id : Nat)
  | linkCopyServe (die port : Nat)
  | linkReplay (die port seq : Nat)
  -- Host and front end
  | hostRdmaWrite (qp : Nat) (key : W32) (addr : W64) (data : List Byte)
  | hostRdmaRead (qp : Nat) (key : W32) (addr : W64) (len : Nat)
  | cpLoadStore (op : CpOp)
  | completionRecordWrite (q : Nat)
  | eventFrameSend (q : Nat)
  | packetFetch (slot : Nat)
  | pktBind (q n : Nat)
  | pktUnmap (q n : Nat)
  | pktSignal (q n : Nat)
  | pktWait (q n : Nat)
  | pktFence (q n : Nat)
  | pktCtxCreate (q n : Nat)
  | pktCtxDestroy (q n : Nat)
  | pktCtxSetRoot (q n : Nat)
  | feslotUnmapEnd (n : Nat)
  -- Tile queue and tasks
  | preemptionLand (t : Nat)
  | taskDispatch (t : Nat)
  | taskRetire (t : Nat)
  -- Repair (R377)
  | repairRetry (r : Repair)
  | repairReplace (r : Repair)
  | repairDefault (r : Repair)
  | repairZero (r : Repair)
  | repairDiscard (r : Repair)
  | repairRollback (r : Repair)
  | repairEscalate (r : Repair)
  -- Steps that come from outside the machine or from firmware only
  | xlinvPage (t asid vpn : Nat) (bc : Bool)
  | xlinvAsid (t asid : Nat) (bc : Bool)
  | xlinvNonglobal (t : Nat) (bc : Bool)
  | xlinvAll (t : Nat) (bc : Bool)
  | patrolScrub (pa : Nat)
  | linkFrameReceive (die port : Nat) (frame : List Byte)
  | linkRetrain (die port : Nat) (lanes : BitVec 16)
  | arrayCheck (t row : Nat)
  | doorbellWrite (qp : Nat) (key : W32) (q : Nat) (val : W32)
  | cqConsumedWrite (qp : Nat) (key : W32) (q : Nat) (val : W32)
  | flushRead (qp : Nat) (key : W32)
  | pktLaunch (q n : Nat) (place : List (Nat × Nat))
  | pktLoadobj (q n : Nat) (fw : LoadFw)
  | pktMap (q n : Nat) (tables : List Nat)
  | pktCopy (q n tile : Nat)
  | feslotMap (n q : Nat)
  | feslotUnmap (n : Nat)
  | festatClr
  | queueDescWrite (q off : Nat) (v : W64)
  | queueFstallClear (q : Nat)
  | rdmaWindowWrite (w off : Nat) (v : W64)
  | tqPushTail (t : Nat)
  | tqPushHead (t : Nat)
  | tqRemove (t idx : Nat)
  | tqPreempt (t : Nat)
  | tqAbortRunning (t : Nat) (retry : Bool)
  | tqAbortParked (t idx : Nat) (retry : Bool)
  | rptokSend (strip : Nat) (v : W64)
  | cornstatClr (strip : Nat)
  | fltctlGoResume (t : Nat)
  | fltctlGoSkip (t : Nat)
  | fltctlGoRerun (t : Nat)
  | fltrvalWrite (t : Nat) (v : W64)
  | arrmapWrite (t : Nat) (v : W64)
  | accspareWrite (t : Nat) (v : W64)
  | dcclr (t : Nat)
  | eclr (u e p : Nat) (v : W32)
  | lnkstatClr (die port : Nat)
  | mbxPop
  | mbxSend (strip elem : Nat)
  | secalmPolicyWrite (policy : Bool)
  | healthWrite (v : W64)
  | registerWrite (page off : Nat) (v : W64)
  | securityAlarm (src : Nat)
  | thermalTrip (b : Bringup)
  | coldReset (b : Bringup)
  | warmReset (b : Bringup)
  | softError (e : SoftErr)
  | commandResume (e : Eng) (id : Nat) (endFailed : Bool)
  | tileRetirement (t : Nat) (moves : List Nat)
  | firmwareRetraining (die port : Nat) (lanes : BitVec 16)
  | clockThrottling (mhz : Nat)
  | powerLoss
  | pauseFrame (prio : BitVec 3) (pause : Bool)
  | invalidRequest (qp : Nat)
  | completionWriteFailure (q : Nat)
  -- Steps without operands, of slots A and B, of weight blocks and of the mailbox
  | nopA
  | lbrk
  | nopB
  | step
  | done
  | hret
  | wRet
  | wEnd
  | mailboxDeliver
deriving DecidableEq, Repr

end Sys2Proof
end

