-- ==== Sys2Proof/WellFormed.lean ====
section
/-!
DEFINITION. Which terms of `Instr` are instructions an encoding can hold: the field values the
manual's encodings reserve are refused (R220, R237, R238, R242, R274, R310-R312, R148).
-/
namespace Sys2Proof

/-- Values per narrow vector of a transform format, in vectors of 32 lanes (R296); 0 for a format
the transform units do not take. -/
def xParts (f : Nat) : Nat :=
  if f = 2 ∨ f = 3 ∨ f = 9 ∨ f = 12 then 2
  else if f = 4 ∨ f = 5 ∨ f = 7 ∨ f = 8 ∨ f = 11 then 4
  else if f = 6 then 8
  else if f = 13 then 16
  else 0

/-- Width in bits of an xtrn element (R297). -/
def xtrnBits : XtrnW → Nat
  | .w8 => 8
  | .w16 => 16
  | .w32 => 32

/-- Element operations with no data result: fmt and ovc are 0 (R139, R164, R170, R172, R173). -/
def EOp.bare (o : EOp) : Bool := o.fmt == 0 && o.ovc == 0

/-- Reserved field values that the types of the constructors do not already shut out. -/
def Instr.wf : Instr → Bool
  | .loop _ _ len => len != 0
  | .vabs ty _ _ _ => ty != .n32
  | .vneg ty _ _ _ => ty != .n32
  | .vcvt dst src _ _ _ => dst != 0 && dst != 13 && dst != 15 && src != 0 && src != 15
  | .vcmp ty c _ _ _ _ => c != .uo || ty == .f32
  | .amo op u _ ord scope _ _ _ => (!u || op == .min || op == .max) && (ord == 0 || scope != 0)
  | .cas _ ord scope _ _ _ => ord == 0 || scope != 0
  | .fence kinds _ => kinds != 0
  | .accz _ _ mask => mask != 0
  | .mma _ _ pair _ _ _ ds => decide (pair.toNat < 12) && (!ds || decide (pair.toNat < 8))
  | .fire _ _ arr src dr _ b => (arr || src || dr) && (dr || b == 0)
  | .xexp f _ _ p => decide (p.toNat < xParts f.toNat)
  | .xcvt f _ _ p => decide (p.toNat < xParts f.toNat)
  | .xtrn w r _ _ => decide (2 ^ r.toNat * xtrnBits w ≤ 1024)
  | .dcfg _ _ rm => rm != 0
  | .wMma _ _ _ fmt _ _ kc _ _ _ _ nout => fmt != 15 && kc != 3 && decide (nout.toNat ≤ 64)
  | .pgen o => o.fmt == 0
  | .agst o => o.bare
  | .wld o => o.bare
  | .emit o => o.bare
  | .feed o => o.bare && o.sa == 0 && o.sb == 6 && o.sc == 6
  | _ => true

end Sys2Proof
end

