-- ==== Sys2Proof/Decode.lean ====
section
/-!
DEFINITION. From bits to instructions, and back.
A slot word, an element operation word and a weight-block header are each read as one number, bit 0
its least significant bit (R3). A word that no instruction's encoding admits is refused by the name
of the check it fails: ILLEGAL_OP or RSVD_FIELD (R142, R220), or the detail of R313.
-/
namespace Sys2Proof

/-- What a decoder answers. -/
inductive Dec where
  | ok (i : Instr)
  | illegalOp
  | rsvdField
deriving DecidableEq, Repr

/-- The field of `n` bits whose lowest bit is bit `lo`. -/
def fld (n w lo : Nat) : BitVec n := BitVec.ofNat n (w / 2 ^ lo)
/-- The same field as a number. -/
def fnat (n w lo : Nat) : Nat := w / 2 ^ lo % 2 ^ n

/-- Accept an instruction when its reserved bits are zero and its field values are allowed. -/
def chk (zero : Bool) (i : Instr) : Dec := if zero && i.wf then .ok i else .rsvdField

def vtyOf (c : Nat) : Option VTy :=
  if c = 1 then some .f32 else if c = 10 then some .i32 else if c = 14 then some .n32 else none
def condOf (c : Nat) : Option Cond :=
  match c with
  | 0 => some .eq | 1 => some .ne | 2 => some .lt | 3 => some .ge | 4 => some .gt | 5 => some .le
  | _ => none
def vcondOf (c : Nat) : Option VCond :=
  match c with
  | 0 => some .eq | 1 => some .ne | 2 => some .lt | 3 => some .le | 4 => some .gt | 5 => some .ge
  | 6 => some .uo
  | _ => none
def redOpOf (c : Nat) : Option RedOp :=
  match c with
  | 0 => some .sum | 1 => some .max | 2 => some .min
  | _ => none
def ldTyOf (c : Nat) : Option LdTy :=
  match c with
  | 0 => some .n8 | 1 => some .n16 | 2 => some .n32 | 3 => some .x64
  | 4 => some .i8 | 5 => some .i16 | 6 => some .i32
  | _ => none
def amoOpOf (c : Nat) : Option AmoOp :=
  match c with
  | 0 => some .add | 1 => some .min | 2 => some .max | 3 => some .and | 4 => some .or
  | 5 => some .xor | 6 => some .xchg
  | _ => none
def xtrnWOf (c : Nat) : Option XtrnW :=
  match c with
  | 0 => some .w8 | 1 => some .w16 | 2 => some .w32
  | _ => none

/-- Use a field value that names something, or refuse the word. -/
def named {α : Type} (o : Option α) (f : α → Dec) : Dec :=
  match o with
  | some x => f x
  | none => .rsvdField

/-- Slot A words (R219, R237, R243, R251, R260). -/
def decodeA (w : Nat) : Dec :=
  let d := fld 5 w 20
  let a := fld 5 w 15
  let b := fld 5 w 10
  let mk := fld 3 w 7
  let md := fnat 3 w 7
  let fn := fnat 7 w 0
  let i15 := fld 15 w 0
  let i20 := fld 20 w 0
  let zd := fnat 5 w 20 == 0
  let za := fnat 5 w 15 == 0
  let zb := fnat 5 w 10 == 0
  let zm := md == 0
  let zf := fn == 0
  let u := fnat 1 w 0 == 1
  let z1 := fnat 6 w 1 == 0
  let z4 := fnat 3 w 4 == 0
  let fp := fn == 1
  match w / 2 ^ 25 % 2 ^ 7 with
  | 0x00 => chk (w % 2 ^ 25 == 0) .nopA
  | 0x01 => named (condOf (fnat 3 w 17)) fun c => chk true (.br d c (fld 17 w 0))
  | 0x02 => chk (zd && fnat 3 w 17 == 0) (.jmp (fld 17 w 0))
  | 0x03 => chk (fnat 3 w 17 == 0) (.jal d (fld 17 w 0))
  | 0x04 => chk (zd && zb && zm && zf) (.ret a)
  | 0x05 => chk true (.loop d a i15)
  | 0x06 => chk (zd && za && zb && zm && zf) .lbrk
  | 0x07 => chk zd (.trap i20)
  | 0x08 => chk (zm && zf) (.add d a b)
  | 0x09 => chk (zm && zf) (.sub d a b)
  | 0x0A => chk (zm && zf) (.mul d a b)
  | 0x0B => chk (zm && z1) (.mulh u d a b)
  | 0x0C => chk (zm && z1) (.div u d a b)
  | 0x0D => chk (zm && z1) (.rem u d a b)
  | 0x0E => chk (zm && zf) (.and d a b)
  | 0x0F => chk (zm && zf) (.or d a b)
  | 0x10 => chk (zm && zf) (.xor d a b)
  | 0x11 => chk (zm && zf) (.shl d a b)
  | 0x12 => chk (zm && zf) (.shr d a b)
  | 0x13 => chk (zm && zf) (.sra d a b)
  | 0x14 => chk (zm && z1) (.min u d a b)
  | 0x15 => chk (zm && z1) (.max u d a b)
  | 0x16 => chk (zm && z1) (.slt u d a b)
  | 0x17 => chk (zm && fnat 2 w 5 == 0) (.sel d a b (fld 5 w 0))
  | 0x18 => chk (zf && fnat 1 w 9 == 0) (.sadd d a b (fld 2 w 7))
  | 0x19 => chk (zm && zb && z1) (.clz u d a)
  | 0x1A => chk (zm && zb && z1) (.popc u d a)
  | 0x1B => chk (zm && z1) (.bext u d a b)
  | 0x1C => chk (zm && zf) (.bins d a b)
  | 0x20 => chk true (.addi d a i15)
  | 0x21 => chk true (.muli d a i15)
  | 0x22 => chk true (.andi d a i15)
  | 0x23 => chk true (.ori d a i15)
  | 0x24 => chk true (.xori d a i15)
  | 0x25 => chk (fnat 9 w 6 == 0) (.shli d a (fld 6 w 0))
  | 0x26 => chk (fnat 9 w 6 == 0) (.shri d a (fld 6 w 0))
  | 0x27 => chk (fnat 9 w 6 == 0) (.srai d a (fld 6 w 0))
  | 0x28 => chk true (.slti d a i15)
  | 0x29 => chk true (.mini d a i15)
  | 0x2A => chk true (.maxi d a i15)
  | 0x2C => chk true (.li20 d i20)
  | 0x2D => chk true (.lih d i20)
  | 0x2E => chk (za && fnat 3 w 12 == 0) (.mfs d (fld 12 w 0))
  | 0x2F => chk (zd && fnat 3 w 12 == 0) (.mts a (fld 12 w 0))
  | 0x40 => chk fp (.vadd d a b mk)
  | 0x41 => chk fp (.vsub d a b mk)
  | 0x42 => chk fp (.vmul d a b mk)
  | 0x43 => chk fp (.vfma d a b mk)
  | 0x44 => named (vtyOf (fnat 4 w 0)) fun ty => chk z4 (.vmin ty d a b mk)
  | 0x45 => named (vtyOf (fnat 4 w 0)) fun ty => chk z4 (.vmax ty d a b mk)
  | 0x46 => named (vtyOf (fnat 4 w 0)) fun ty => chk (z4 && zb) (.vabs ty d a mk)
  | 0x47 => named (vtyOf (fnat 4 w 0)) fun ty => chk (z4 && zb) (.vneg ty d a mk)
  | 0x48 => chk (z4 && fnat 1 w 14 == 0) (.vcvt (fld 4 w 0) (fld 4 w 10) d a mk)
  | 0x49 => named (vtyOf (fnat 4 w 0)) fun ty => named (vcondOf (fnat 3 w 4)) fun c =>
      chk (fnat 2 w 23 == 0) (.vcmp ty c (fld 3 w 20) a b mk)
  | 0x4A => chk zf (.vsel d a b mk)
  | 0x4B => named (vtyOf (fnat 4 w 0)) fun ty => named (redOpOf (fnat 3 w 4)) fun op =>
      chk zb (.vred ty op d a mk)
  | 0x4C =>
      if fnat 1 w 5 == 0 then chk (zb && fnat 1 w 6 == 0) (.vbcst (.lane d a (fld 5 w 0) mk))
      else chk (zb && fnat 1 w 6 == 0 && fnat 5 w 0 == 0) (.vbcst (.scalar d a mk))
  | 0x4D => chk zf (.vshuf d a b mk)
  | 0x4E =>
      match fnat 2 w 5 with
      | 0 => chk (zb && fnat 5 w 0 == 0) (.vmov (.vv d a mk))
      | 1 => chk (zb && zm) (.vmov (.sv d a (fld 5 w 0)))
      | 2 => chk (zb && zm) (.vmov (.vs d a (fld 5 w 0)))
      | _ => .rsvdField
  | 0x4F => chk zf (.vand d a b mk)
  | 0x50 => chk zf (.vor d a b mk)
  | 0x51 => chk zf (.vxor d a b mk)
  | 0x52 => if fn = 10 then chk true (.viadd false d a b mk)
            else if fn = 14 then chk true (.viadd true d a b mk) else .rsvdField
  | 0x53 => if fn = 10 then chk true (.vimul false d a b mk)
            else if fn = 14 then chk true (.vimul true d a b mk) else .rsvdField
  | 0x54 => chk (fp && zb) (.vrcp d a mk)
  | 0x55 => chk (fp && zb) (.vrsq d a mk)
  | 0x56 => chk (fp && zb) (.vexp2 d a mk)
  | 0x57 => chk (fp && zb) (.vlog2 d a mk)
  | 0x58 => chk (zf && zm && fnat 2 w 23 == 0 && fnat 2 w 18 == 0 && fnat 2 w 13 == 0)
      (.mand (fld 3 w 20) (fld 3 w 15) (fld 3 w 10))
  | 0x59 => chk (zf && zm && fnat 2 w 23 == 0 && fnat 2 w 18 == 0 && fnat 2 w 13 == 0)
      (.mor (fld 3 w 20) (fld 3 w 15) (fld 3 w 10))
  | 0x5A => chk (zf && zm && zb && fnat 2 w 23 == 0 && fnat 2 w 18 == 0)
      (.mnot (fld 3 w 20) (fld 3 w 15))
  | 0x5B => chk (zf && zm && zb && fnat 2 w 18 == 0) (.mpop d (fld 3 w 15))
  | _ => .illegalOp

/-- Slot B words (R219, R238 and the encodings of R276-R306). -/
def decodeB (w : Nat) : Dec :=
  let d := fld 5 w 20
  let a := fld 5 w 15
  let b := fld 5 w 10
  let md := fnat 3 w 7
  let fn := fnat 7 w 0
  let zd := fnat 5 w 20 == 0
  let za := fnat 5 w 15 == 0
  let zb := fnat 5 w 10 == 0
  let zm := md == 0
  let zf := fn == 0
  let off11 := fld 11 w 0
  let rgn := fld 2 w 13
  let csl := fld 2 w 11
  let tk := fld 6 w 9
  let off9 := fld 9 w 0
  let home := fld 6 w 8
  let id := fld 8 w 0
  let zcf := zd && za && fnat 2 w 9 == 0 && fnat 9 w 0 == 0
  let zen := za && fnat 8 w 1 == 0
  let zbar := zd && za && fnat 1 w 14 == 0
  match w / 2 ^ 25 % 2 ^ 7 with
  | 0x00 => chk (w % 2 ^ 25 == 0) .nopB
  | 0x01 => named (ldTyOf (fnat 4 w 11)) fun ty => chk true (.ld ty d a off11)
  | 0x02 => chk (fnat 2 w 13 == 0) (.st (fld 2 w 11) d a off11)
  | 0x03 => chk (fnat 1 w 14 == 0) (.ldv d a off11 (fld 3 w 11))
  | 0x04 => chk (fnat 1 w 14 == 0) (.stv d a off11 (fld 3 w 11))
  | 0x05 => chk (zb && fnat 1 w 9 == 0) (.ldacc d a (fld 2 w 7) (fld 7 w 0))
  | 0x06 => chk (zb && fnat 1 w 9 == 0) (.stacc d a (fld 2 w 7) (fld 7 w 0))
  | 0x07 => named (amoOpOf (fnat 3 w 0)) fun op =>
      chk true (.amo op (fnat 1 w 3 == 1) (fnat 1 w 4 == 1) (fld 2 w 5) (fld 3 w 7) d a b)
  | 0x08 => chk (fnat 4 w 0 == 0) (.cas (fnat 1 w 4 == 1) (fld 2 w 5) (fld 3 w 7) d a b)
  | 0x09 => chk (zd && za && zb && fnat 3 w 4 == 0) (.fence (fld 4 w 0) (fld 3 w 7))
  | 0x10 => chk (fnat 5 w 0 == 0)
      (.mma d a (fld 4 w 11) (fld 2 w 9) (fld 2 w 7) (fnat 1 w 6 == 1) (fnat 1 w 5 == 1))
  | 0x11 => chk (zd && za && zb && zf && fnat 1 w 9 == 0) (.wtl (fld 2 w 7))
  | 0x12 => chk (zd && zm && fnat 3 w 4 == 0) (.accz a b (fld 4 w 0))
  | 0x18 => chk (zd && fnat 2 w 9 == 0 && fnat 2 w 4 == 0 && fnat 3 w 0 == 0)
      (.fire rgn csl (fnat 1 w 8 == 1) (fnat 1 w 7 == 1) (fnat 1 w 6 == 1) (fnat 1 w 3 == 1) a)
  | 0x19 => chk (zd && za && fnat 4 w 0 == 0) (.cfgs rgn csl (fld 2 w 9) (fld 5 w 4))
  | 0x1A => chk zcf (.cfgw rgn csl)
  | 0x1B => chk zcf (.cfgp rgn csl)
  | 0x20 => chk zd (.copy a tk off9)
  | 0x21 => chk zd (.netr a tk off9)
  | 0x22 => chk zd (.netw a tk off9)
  | 0x23 => chk zd (.stgr a tk off9)
  | 0x24 => chk zd (.stgw a tk off9)
  | 0x25 => chk (zm && zf) (.rot d a b)
  | 0x26 => chk zen (.tkw d tk (fnat 1 w 0 == 1))
  | 0x27 => chk zen (.tkq d tk (fnat 1 w 0 == 1))
  | 0x28 => chk (zm && fnat 3 w 4 == 0 && fnat 1 w 14 == 0) (.xexp (fld 4 w 0) d a (fld 4 w 10))
  | 0x29 => named (xtrnWOf (fnat 2 w 0)) fun x => chk (zb && fnat 5 w 2 == 0) (.xtrn x (fld 3 w 7) d a)
  | 0x2A => chk (zm && fnat 3 w 4 == 0 && fnat 1 w 14 == 0) (.xcvt (fld 4 w 0) d a (fld 4 w 10))
  | 0x2C => chk (zd && zm && fnat 1 w 6 == 0) (.dcfg a b (fld 6 w 0))
  | 0x2D => chk (za && zb && zm && zf) (.dpop d)
  | 0x30 => chk (zd && za) (.bjoin home id (fnat 1 w 14 == 1))
  | 0x31 => chk zbar (.bleave home id)
  | 0x32 => chk zbar (.barv home id)
  | 0x33 => chk zbar (.bwait home id)
  | 0x34 => chk (w % 2 ^ 25 == 0) .step
  | 0x38 => chk (zd && zb && zm && fnat 6 w 1 == 0) (.yield a (fnat 1 w 0 == 1))
  | 0x39 => chk (w % 2 ^ 25 == 0) .done
  | 0x3A => chk (zd && zb && zm && zf) (.wdrive a)
  | 0x3B => chk true (.sys d (fld 20 w 0))
  | 0x3C => chk (w % 2 ^ 25 == 0) .hret
  | _ => .illegalOp

/-! ### Bundles (R217, R218, R220, R225) -/

/-- A register an instruction names as a destination (R220). -/
inductive Dest where
  | s (r : Nat)
  | v (r : Nat)
  | m (r : Nat)
deriving DecidableEq, Repr

/-- The register a slot instruction names as a destination (R220, R274). -/
def Instr.dest : Instr → Option Dest
  | .jal a _ => some (.s a.toNat)
  | .add d _ _ | .sub d _ _ | .mul d _ _ | .mulh _ d _ _ | .div _ d _ _ | .rem _ d _ _
  | .and d _ _ | .or d _ _ | .xor d _ _ | .shl d _ _ | .shr d _ _ | .sra d _ _
  | .min _ d _ _ | .max _ d _ _ | .slt _ d _ _ | .sel d _ _ _ | .sadd d _ _ _
  | .clz _ d _ | .popc _ d _ | .bext _ d _ _ | .bins d _ _
  | .addi d _ _ | .muli d _ _ | .andi d _ _ | .ori d _ _ | .xori d _ _
  | .shli d _ _ | .shri d _ _ | .srai d _ _ | .slti d _ _ | .mini d _ _ | .maxi d _ _
  | .li20 d _ | .lih d _ | .mfs d _ | .mpop d _ => some (.s d.toNat)
  | .vadd d _ _ _ | .vsub d _ _ _ | .vmul d _ _ _ | .vfma d _ _ _
  | .vmin _ d _ _ _ | .vmax _ d _ _ _ | .vabs _ d _ _ | .vneg _ d _ _ | .vcvt _ _ d _ _
  | .vsel d _ _ _ | .vred _ _ d _ _ | .vshuf d _ _ _ | .vand d _ _ _ | .vor d _ _ _
  | .vxor d _ _ _ | .viadd _ d _ _ _ | .vimul _ d _ _ _ | .vrcp d _ _ | .vrsq d _ _
  | .vexp2 d _ _ | .vlog2 d _ _ => some (.v d.toNat)
  | .vbcst (.lane d _ _ _) | .vbcst (.scalar d _ _) => some (.v d.toNat)
  | .vmov (.vv d _ _) | .vmov (.vs d _ _) => some (.v d.toNat)
  | .vmov (.sv d _ _) => some (.s d.toNat)
  | .vcmp _ _ d _ _ _ | .mand d _ _ | .mor d _ _ | .mnot d _ => some (.m d.toNat)
  | .ld _ d _ _ | .amo _ _ _ _ _ d _ _ | .cas _ _ _ d _ _ | .tkw d _ _ | .tkq d _ _ =>
    some (.s d.toNat)
  | .ldv d _ _ _ | .ldacc d _ _ _ | .xexp _ d _ _ | .xtrn _ _ d _ | .xcvt _ d _ _ | .dpop d =>
    some (.v d.toNat)
  | _ => none

/-- Two slots may both name s0, or m0, since writes to them are discarded (R220). -/
def Dest.discarded : Dest → Bool
  | .s r => r == 0
  | .m r => r == 0
  | .v _ => false

/-- Operations that need a tag (R225). -/
def Instr.needsTag : Instr → Bool
  | .ld .. | .ldv .. | .ldacc .. | .amo .. | .cas .. | .tkw .. => true
  | _ => false
/-- Operations that may take a tag (R225). -/
def Instr.takesTag : Instr → Bool
  | .st .. | .stv .. | .stacc .. | .accz .. | .mma .. | .wtl .. | .fence .. | .cfgs .. | .cfgw ..
  | .cfgp .. => true
  | i => i.needsTag
/-- Slot A instructions a bundle with le may not hold (R220). -/
def Instr.noLe : Instr → Bool
  | .br .. | .jmp .. | .jal .. | .ret .. | .loop .. | .lbrk | .trap .. => true
  | _ => false

/-- A decoded bundle (R218). -/
structure Bundle where
  ta : Nat
  tc : Nat
  pd : Nat
  le : Bool
  ps : Bool
  a : Instr
  b : Instr
deriving DecidableEq, Repr

/-- A bundle, or the cause of R220 with which it fails. -/
inductive BDec where
  | ok (b : Bundle)
  | illegalOp
  | rsvdField
deriving DecidableEq, Repr

/-- The checks of R220 over the two slots and the header. -/
def Bundle.headerOk (b : Bundle) : Bool :=
  (match b.a.dest, b.b.dest with
   | some x, some y => !(x == y) || x.discarded
   | _, _ => true)
  && (b.ta == 0 || b.b.takesTag)
  && (b.ta != 0 || !b.b.needsTag)
  && (!b.le || !b.a.noLe)

/-- A bundle's 80 bits (R218, R220). An unused opcode of either slot comes before the reserved
fields, in the order of R220's list. -/
def decodeBundle (w : Nat) : BDec :=
  match decodeA (w / 2 ^ 32 % 2 ^ 32), decodeB (w % 2 ^ 32) with
  | .illegalOp, _ => .illegalOp
  | _, .illegalOp => .illegalOp
  | .ok a, .ok b =>
    let bu : Bundle :=
      { ta := fnat 3 w 77, tc := fnat 7 w 70, pd := fnat 3 w 67, le := fnat 1 w 66 == 1,
        ps := fnat 1 w 65 == 1, a := a, b := b }
    if fnat 1 w 64 = 0 ∧ bu.headerOk = true then .ok bu else .rsvdField
  | _, _ => .rsvdField

/-! ### Element operation words (R139, R148) -/

/-- The fields below the opcode of an element operation word. -/
def eopOf (w : Nat) : EOp :=
  { fmt := fld 4 w 21, ovc := fld 5 w 16, sa := fld 3 w 13, sb := fld 3 w 10, sc := fld 3 w 7,
    reg := fld 3 w 4, pg := fnat 1 w 3 == 1, pp := fnat 1 w 2 == 1, sv := fld 2 w 0 }

/-- An element operation word (R148). Opcode 0 is the element nop, which never fires and is no row
of the table. What a word means is fixed by the word alone; the checks that need the element's
type, mode word, constant word and edges are those of the configuration load (R142). -/
def decodeElem (w : Nat) : Dec :=
  let o := eopOf w
  match w / 2 ^ 25 % 2 ^ 7 with
  | 0x01 => chk true (.pass o) | 0x02 => chk true (.const o) | 0x03 => chk true (.bnr o)
  | 0x04 => chk true (.eos o) | 0x05 => chk true (.cnt o) | 0x06 => chk true (.dup o)
  | 0x08 => chk true (.iadd o) | 0x09 => chk true (.isub o) | 0x0A => chk true (.imul o)
  | 0x0B => chk true (.imulh o) | 0x0C => chk true (.iand o) | 0x0D => chk true (.ior o)
  | 0x0E => chk true (.ixor o) | 0x0F => chk true (.ishl o) | 0x10 => chk true (.ishr o)
  | 0x11 => chk true (.isra o) | 0x12 => chk true (.imin o) | 0x13 => chk true (.imax o)
  | 0x14 => chk true (.iabs o) | 0x15 => chk true (.icmp o) | 0x16 => chk true (.isat o)
  | 0x17 => chk true (.imac o) | 0x18 => chk true (.fadd o) | 0x19 => chk true (.fsub o)
  | 0x1A => chk true (.fmul o) | 0x1B => chk true (.ffma o) | 0x1C => chk true (.fmin o)
  | 0x1D => chk true (.fmax o) | 0x1E => chk true (.fneg o) | 0x1F => chk true (.fdiv o)
  | 0x20 => chk true (.frsq o) | 0x21 => chk true (.fcmp o) | 0x28 => chk true (.cvt o)
  | 0x29 => chk true (.deq o) | 0x2A => chk true (.qnt o) | 0x2B => chk true (.amax o)
  | 0x2C => chk true (.lut o) | 0x2D => chk true (.rred o) | 0x2E => chk true (.rsum o)
  | 0x2F => chk true (.rmax o) | 0x30 => chk true (.rmin o) | 0x31 => chk true (.shuf o)
  | 0x32 => chk true (.algn o) | 0x33 => chk true (.bcst o) | 0x34 => chk true (.pack o)
  | 0x35 => chk true (.unpk o) | 0x36 => chk true (.steer o) | 0x37 => chk true (.merge o)
  | 0x38 => chk true (.gate o) | 0x39 => chk true (.pgen o) | 0x3A => chk true (.elemSel o)
  | 0x3B => chk true (.hfwd o) | 0x3C => chk true (.hinv o) | 0x3D => chk true (.hthr o)
  | 0x3E => chk true (.agld o) | 0x3F => chk true (.agst o) | 0x40 => chk true (.agreq o)
  | 0x41 => chk true (.agrmw o) | 0x42 => chk true (.feed o) | 0x43 => chk true (.wld o)
  | 0x44 => chk true (.drn o) | 0x45 => chk true (.emit o) | 0x46 => chk true (.recv o)
  | _ => .illegalOp

/-- What the decoder reads from a row's bits as the opcode table numbers them: the rows with bits
are the element operation words, of 32 bits. The table's word of BCST is that of ALGN; R148's opcodes are
followed. DEDUCED: notes/assumptions/60.md. -/
def decodeTableWord (nbits w : Nat) : Option Instr :=
  if nbits = 32 then
    match decodeElem (w % 2 ^ 32) with
    | .ok i => some i
    | _ => none
  else none

/-! ### Weight-block headers (R309-R313) -/

/-- CSUM32 (R91): 32-bit words added with the carry folded back in. -/
def csum32 (init : Nat) (ws : List Nat) : Nat :=
  ws.foldl (fun s w => let t := s + w; (t % 2 ^ 32) + t / 2 ^ 32) init

/-- The seven words before HCHK. -/
def headerWords (h : Nat) : List Nat := tabulate 7 fun i => fnat 32 h (32 * i)

/-- A weight-block header, or the detail code of the check of R313 it fails. -/
inductive WDec where
  | ok (i : Instr) (plen : Nat)
  | bad (hdrd : Nat)
deriving DecidableEq, Repr

/-- Logical K of a KC code (R310). -/
def kcK (kc : Nat) : Nat := 256 * 2 ^ kc

/-- The weight format, MX bit and K of a pair code (R187). -/
def pairWeight (pair : Nat) : Nat × Bool × Nat :=
  match pair with
  | 0 => (2, false, 256) | 1 => (3, false, 256) | 2 => (4, false, 512) | 3 => (5, false, 512)
  | 4 => (4, false, 512) | 5 => (5, false, 512) | 6 => (8, false, 512) | 7 => (13, false, 512)
  | 8 => (6, true, 256) | 9 => (4, true, 512) | 10 => (5, true, 512) | _ => (6, true, 1024)
/-- The A format of a pair code (R187). -/
def pairA (pair : Nat) : Nat :=
  match pair with
  | 0 => 2 | 1 => 3 | 2 => 4 | 3 => 4 | 4 => 5 | 5 => 5 | 6 => 8 | 7 => 8 | 8 => 2
  | 9 => 4 | 10 => 5 | _ => 6
/-- Products per PE of a pair code (R187). -/
def pairN (pair : Nat) : Nat :=
  match pair with
  | 0 => 2 | 1 => 2 | 8 => 2 | 11 => 8 | _ => 4

/-- DLEN of a tile image (R182). -/
def imageDlen (fmt sparse k : Nat) : Nat :=
  let w := fmtWidth fmt
  if sparse = 1 then (k / 2) * 128 * w / 8 + (k / 4) * 64 else k * 128 * w / 8
/-- SLEN of a tile image (R182). -/
def imageSlen (mx : Bool) (k : Nat) : Nat := 128 + if mx then 4 * k else 0

/-- The rules of R182 on the fields of an image header but its lengths. -/
def imageFieldsOk (fmt sparse : Nat) (mx : Bool) (k nout : Nat) : Bool :=
  (fmt == 2 || fmt == 3 || fmt == 4 || fmt == 5 || fmt == 6 || fmt == 8 || fmt == 13)
  && decide (sparse < 2) && (k == 256 || k == 512 || k == 1024) && decide (nout ≤ 64)
  && (!mx || fmt == 4 || fmt == 5 || fmt == 6) && (fmt != 6 || mx)
  && (sparse != 1 || ((fmt == 2 || fmt == 3 || fmt == 4 || fmt == 5 || fmt == 8) && !mx))

/-- The checks of R313 with details 1 to 4, in their order, on a 32-byte header read as a
little-endian number. -/
def decodeW (h : Nat) : WDec :=
  let op := fnat 8 h 0
  let ctx := fld 2 h 8
  let acc := fnat 1 h 10 == 1
  let psrc := fld 2 h 11
  let b5 := fnat 1 h 13 == 1
  let fc := fnat 16 h 16
  let plen := fnat 32 h 32
  let l0 := fld 64 h 64
  let l1 := fld 64 h 128
  let zr := fnat 2 h 14 == 0
  let zacc := fnat 1 h 10 == 0
  let zps := fnat 2 h 11 == 0
  let z5 := fnat 1 h 13 == 0
  let zctx := fnat 2 h 8 == 0
  let zroute := fnat 8 h 8 == 0
  let zfc := fc == 0
  let zl0 := fnat 64 h 64 == 0
  let zl1 := fnat 64 h 128 == 0
  let zside := fnat 32 h 192 == 0
  let fin (zero : Bool) (want : Nat) (i : Instr) : WDec :=
    if !(zero && i.wf) then .bad 2 else if plen ≠ want then .bad 3 else .ok i plen
  if csum32 0 (headerWords h) ≠ fnat 32 h 224 then .bad 1
  else match op with
  | 0x00 => fin (zroute && zfc && zl1 && zside) 0 (.wNop l0)
  | 0x01 =>
    let fmt := fnat 4 h 16
    let sparse := fnat 2 h 20
    let mx := fnat 1 h 22 == 1
    let kc := fnat 2 h 23
    let pair := fnat 4 h 25
    let otoff := fnat 24 h 192
    let nout := fnat 7 h 216
    let i : Instr := .wMma ctx acc b5 (fld 4 h 16) (fld 2 h 20) mx (fld 2 h 23) (fld 4 h 25)
      (fld 32 h 32) l0 (fld 24 h 192) (fld 7 h 216)
    if !(zr && zps && zl1 && fnat 3 h 29 == 0 && fnat 1 h 223 == 0 && fmt != 15 && fnat 2 h 23 != 3) then .bad 2
    else if plen ≠ imageDlen fmt sparse (kcK kc) then .bad 3
    else if !(imageFieldsOk fmt sparse mx (kcK kc) nout && decide (plen ≤ 65536)
        && (otoff != 0 || (nout == 0 && !mx)) && decide (pair < 12)
        && (pairWeight pair == (fmt, mx, kcK kc))) then .bad 4
    else .ok i plen
  | 0x02 => fin (zr && zps && zfc && zl1 && zside) 0 (.wMmaz ctx acc b5 l0)
  | 0x03 => fin (zr && zps && zacc && zfc && zl1 && zside) 0 (.wExit ctx b5 l0)
  | 0x04 => fin (zr && zacc && zfc && zside) 0 (.wBr ctx psrc b5 l0 l1)
  | 0x05 => fin (zroute && zfc && zside) 0 (.wCall l0 l1)
  | 0x06 => fin (zroute && zfc && zl0 && zl1 && zside) 0 .wRet
  | 0x07 => fin (zroute && fnat 9 h 23 == 0 && zl1 && zside) 0
      (.wSync (fld 6 h 16) (fnat 1 h 22 == 1) l0)
  | 0x08 => fin (zroute && zfc && zl1 && zside) 64 (.wScale l0)
  | 0x09 => fin (zroute && zfc && zl0 && zl1 && zside && zctx && zacc && zps && z5) 0 .wEnd
  | _ => .bad 2

/-! ### The encoders -/

/-- Form A3 (R219). -/
def encA3 (op d a b md fn : Nat) : Nat :=
  op * 2 ^ 25 + d * 2 ^ 20 + a * 2 ^ 15 + b * 2 ^ 10 + md * 2 ^ 7 + fn
/-- Forms AI and AM (R219): what stands below a, in 15 bits. -/
def encAI (op d a imm : Nat) : Nat := op * 2 ^ 25 + d * 2 ^ 20 + a * 2 ^ 15 + imm
/-- Form AL (R219). -/
def encAL (op d imm : Nat) : Nat := op * 2 ^ 25 + d * 2 ^ 20 + imm
/-- Form AB (R219). -/
def encAB (op a cond off : Nat) : Nat := op * 2 ^ 25 + a * 2 ^ 20 + cond * 2 ^ 17 + off
/-- Form EN (R219). -/
def encEN (op d a tk off : Nat) : Nat := op * 2 ^ 25 + d * 2 ^ 20 + a * 2 ^ 15 + tk * 2 ^ 9 + off
/-- Form CF (R219). -/
def encCF (op a b rgn slot plane img low : Nat) : Nat :=
  op * 2 ^ 25 + a * 2 ^ 20 + b * 2 ^ 15 + rgn * 2 ^ 13 + slot * 2 ^ 11 + plane * 2 ^ 9
    + img * 2 ^ 4 + low
/-- An element operation word (R139). -/
def encE (op : Nat) (o : EOp) : Nat :=
  op * 2 ^ 25 + o.fmt.toNat * 2 ^ 21 + o.ovc.toNat * 2 ^ 16 + o.sa.toNat * 2 ^ 13
    + o.sb.toNat * 2 ^ 10 + o.sc.toNat * 2 ^ 7 + o.reg.toNat * 2 ^ 4 + o.pg.toNat * 2 ^ 3
    + o.pp.toNat * 2 ^ 2 + o.sv.toNat

def VTy.code : VTy → Nat
  | .f32 => 1 | .i32 => 10 | .n32 => 14
def Cond.code : Cond → Nat
  | .eq => 0 | .ne => 1 | .lt => 2 | .ge => 3 | .gt => 4 | .le => 5
def VCond.code : VCond → Nat
  | .eq => 0 | .ne => 1 | .lt => 2 | .le => 3 | .gt => 4 | .ge => 5 | .uo => 6
def RedOp.code : RedOp → Nat
  | .sum => 0 | .max => 1 | .min => 2
def LdTy.code : LdTy → Nat
  | .n8 => 0 | .n16 => 1 | .n32 => 2 | .x64 => 3 | .i8 => 4 | .i16 => 5 | .i32 => 6
def AmoOp.code : AmoOp → Nat
  | .add => 0 | .min => 1 | .max => 2 | .and => 3 | .or => 4 | .xor => 5 | .xchg => 6
def XtrnW.code : XtrnW → Nat
  | .w8 => 0 | .w16 => 1 | .w32 => 2

/-- The slot A word of an instruction (R237, R243, R251, R260); none for what is no slot A
instruction. -/
def encodeA : Instr → Option Nat
  | .nopA => some 0
  | .br a c off => some (encAB 0x01 a.toNat c.code off.toNat)
  | .jmp off => some (encAB 0x02 0 0 off.toNat)
  | .jal a off => some (encAB 0x03 a.toNat 0 off.toNat)
  | .ret a => some (encA3 0x04 0 a.toNat 0 0 0)
  | .loop d a len => some (encAI 0x05 d.toNat a.toNat len.toNat)
  | .lbrk => some (encA3 0x06 0 0 0 0 0)
  | .trap c => some (encAL 0x07 0 c.toNat)
  | .add d a b => some (encA3 0x08 d.toNat a.toNat b.toNat 0 0)
  | .sub d a b => some (encA3 0x09 d.toNat a.toNat b.toNat 0 0)
  | .mul d a b => some (encA3 0x0A d.toNat a.toNat b.toNat 0 0)
  | .mulh u d a b => some (encA3 0x0B d.toNat a.toNat b.toNat 0 u.toNat)
  | .div u d a b => some (encA3 0x0C d.toNat a.toNat b.toNat 0 u.toNat)
  | .rem u d a b => some (encA3 0x0D d.toNat a.toNat b.toNat 0 u.toNat)
  | .and d a b => some (encA3 0x0E d.toNat a.toNat b.toNat 0 0)
  | .or d a b => some (encA3 0x0F d.toNat a.toNat b.toNat 0 0)
  | .xor d a b => some (encA3 0x10 d.toNat a.toNat b.toNat 0 0)
  | .shl d a b => some (encA3 0x11 d.toNat a.toNat b.toNat 0 0)
  | .shr d a b => some (encA3 0x12 d.toNat a.toNat b.toNat 0 0)
  | .sra d a b => some (encA3 0x13 d.toNat a.toNat b.toNat 0 0)
  | .min u d a b => some (encA3 0x14 d.toNat a.toNat b.toNat 0 u.toNat)
  | .max u d a b => some (encA3 0x15 d.toNat a.toNat b.toNat 0 u.toNat)
  | .slt u d a b => some (encA3 0x16 d.toNat a.toNat b.toNat 0 u.toNat)
  | .sel d a b c => some (encA3 0x17 d.toNat a.toNat b.toNat 0 c.toNat)
  | .sadd d a b sh => some (encA3 0x18 d.toNat a.toNat b.toNat sh.toNat 0)
  | .clz w d a => some (encA3 0x19 d.toNat a.toNat 0 0 w.toNat)
  | .popc w d a => some (encA3 0x1A d.toNat a.toNat 0 0 w.toNat)
  | .bext x d a b => some (encA3 0x1B d.toNat a.toNat b.toNat 0 x.toNat)
  | .bins d a b => some (encA3 0x1C d.toNat a.toNat b.toNat 0 0)
  | .addi d a i => some (encAI 0x20 d.toNat a.toNat i.toNat)
  | .muli d a i => some (encAI 0x21 d.toNat a.toNat i.toNat)
  | .andi d a i => some (encAI 0x22 d.toNat a.toNat i.toNat)
  | .ori d a i => some (encAI 0x23 d.toNat a.toNat i.toNat)
  | .xori d a i => some (encAI 0x24 d.toNat a.toNat i.toNat)
  | .shli d a n => some (encAI 0x25 d.toNat a.toNat n.toNat)
  | .shri d a n => some (encAI 0x26 d.toNat a.toNat n.toNat)
  | .srai d a n => some (encAI 0x27 d.toNat a.toNat n.toNat)
  | .slti d a i => some (encAI 0x28 d.toNat a.toNat i.toNat)
  | .mini d a i => some (encAI 0x29 d.toNat a.toNat i.toNat)
  | .maxi d a i => some (encAI 0x2A d.toNat a.toNat i.toNat)
  | .li20 d i => some (encAL 0x2C d.toNat i.toNat)
  | .lih d i => some (encAL 0x2D d.toNat i.toNat)
  | .mfs d n => some (encAI 0x2E d.toNat 0 n.toNat)
  | .mts a n => some (encAI 0x2F 0 a.toNat n.toNat)
  | .vadd d a b mk => some (encA3 0x40 d.toNat a.toNat b.toNat mk.toNat 1)
  | .vsub d a b mk => some (encA3 0x41 d.toNat a.toNat b.toNat mk.toNat 1)
  | .vmul d a b mk => some (encA3 0x42 d.toNat a.toNat b.toNat mk.toNat 1)
  | .vfma d a b mk => some (encA3 0x43 d.toNat a.toNat b.toNat mk.toNat 1)
  | .vmin ty d a b mk => some (encA3 0x44 d.toNat a.toNat b.toNat mk.toNat ty.code)
  | .vmax ty d a b mk => some (encA3 0x45 d.toNat a.toNat b.toNat mk.toNat ty.code)
  | .vabs ty d a mk => some (encA3 0x46 d.toNat a.toNat 0 mk.toNat ty.code)
  | .vneg ty d a mk => some (encA3 0x47 d.toNat a.toNat 0 mk.toNat ty.code)
  | .vcvt dst src d a mk => some (encA3 0x48 d.toNat a.toNat src.toNat mk.toNat dst.toNat)
  | .vcmp ty c d a b mk =>
    some (encA3 0x49 d.toNat a.toNat b.toNat mk.toNat (c.code * 2 ^ 4 + ty.code))
  | .vsel d a b m => some (encA3 0x4A d.toNat a.toNat b.toNat m.toNat 0)
  | .vred ty op d a mk => some (encA3 0x4B d.toNat a.toNat 0 mk.toNat (op.code * 2 ^ 4 + ty.code))
  | .vbcst (.lane d a l mk) => some (encA3 0x4C d.toNat a.toNat 0 mk.toNat l.toNat)
  | .vbcst (.scalar d a mk) => some (encA3 0x4C d.toNat a.toNat 0 mk.toNat (2 ^ 5))
  | .vshuf d a b mk => some (encA3 0x4D d.toNat a.toNat b.toNat mk.toNat 0)
  | .vmov (.vv d a mk) => some (encA3 0x4E d.toNat a.toNat 0 mk.toNat 0)
  | .vmov (.sv d a l) => some (encA3 0x4E d.toNat a.toNat 0 0 (2 ^ 5 + l.toNat))
  | .vmov (.vs d a l) => some (encA3 0x4E d.toNat a.toNat 0 0 (2 * 2 ^ 5 + l.toNat))
  | .vand d a b mk => some (encA3 0x4F d.toNat a.toNat b.toNat mk.toNat 0)
  | .vor d a b mk => some (encA3 0x50 d.toNat a.toNat b.toNat mk.toNat 0)
  | .vxor d a b mk => some (encA3 0x51 d.toNat a.toNat b.toNat mk.toNat 0)
  | .viadd u d a b mk => some (encA3 0x52 d.toNat a.toNat b.toNat mk.toNat (if u then 14 else 10))
  | .vimul u d a b mk => some (encA3 0x53 d.toNat a.toNat b.toNat mk.toNat (if u then 14 else 10))
  | .vrcp d a mk => some (encA3 0x54 d.toNat a.toNat 0 mk.toNat 1)
  | .vrsq d a mk => some (encA3 0x55 d.toNat a.toNat 0 mk.toNat 1)
  | .vexp2 d a mk => some (encA3 0x56 d.toNat a.toNat 0 mk.toNat 1)
  | .vlog2 d a mk => some (encA3 0x57 d.toNat a.toNat 0 mk.toNat 1)
  | .mand d a b => some (encA3 0x58 d.toNat a.toNat b.toNat 0 0)
  | .mor d a b => some (encA3 0x59 d.toNat a.toNat b.toNat 0 0)
  | .mnot d a => some (encA3 0x5A d.toNat a.toNat 0 0 0)
  | .mpop d a => some (encA3 0x5B d.toNat a.toNat 0 0 0)
  | _ => none

/-- The slot B word of an instruction (R238, R276-R306); none for what is no slot B instruction. -/
def encodeB : Instr → Option Nat
  | .nopB => some 0
  | .ld ty d a off => some (encAI 0x01 d.toNat a.toNat (ty.code * 2 ^ 11 + off.toNat))
  | .st sz d a off => some (encAI 0x02 d.toNat a.toNat (sz.toNat * 2 ^ 11 + off.toNat))
  | .ldv d a off mk => some (encAI 0x03 d.toNat a.toNat (mk.toNat * 2 ^ 11 + off.toNat))
  | .stv d a off mk => some (encAI 0x04 d.toNat a.toNat (mk.toNat * 2 ^ 11 + off.toNat))
  | .ldacc d a g off => some (encA3 0x05 d.toNat a.toNat 0 g.toNat off.toNat)
  | .stacc d a g off => some (encA3 0x06 d.toNat a.toNat 0 g.toNat off.toNat)
  | .amo op u w ord scope d a b => some (encA3 0x07 d.toNat a.toNat b.toNat scope.toNat
      (ord.toNat * 2 ^ 5 + w.toNat * 2 ^ 4 + u.toNat * 2 ^ 3 + op.code))
  | .cas w ord scope d a b => some (encA3 0x08 d.toNat a.toNat b.toNat scope.toNat
      (ord.toNat * 2 ^ 5 + w.toNat * 2 ^ 4))
  | .fence kinds scope => some (encA3 0x09 0 0 0 scope.toNat kinds.toNat)
  | .mma a b pair pass slot acc ds => some (encAI 0x10 a.toNat b.toNat
      (pair.toNat * 2 ^ 11 + pass.toNat * 2 ^ 9 + slot.toNat * 2 ^ 7 + acc.toNat * 2 ^ 6
        + ds.toNat * 2 ^ 5))
  | .wtl slot => some (encA3 0x11 0 0 0 slot.toNat 0)
  | .accz a b mask => some (encA3 0x12 0 a.toNat b.toNat 0 mask.toNat)
  | .fire rgn slot arr src dr dom b => some (encCF 0x18 0 b.toNat rgn.toNat slot.toNat 0
      (arr.toNat * 2 ^ 4 + src.toNat * 2 ^ 3 + dr.toNat * 2 ^ 2) (dom.toNat * 2 ^ 3))
  | .cfgs rgn slot plane img =>
    some (encCF 0x19 0 0 rgn.toNat slot.toNat plane.toNat img.toNat 0)
  | .cfgw rgn slot => some (encCF 0x1A 0 0 rgn.toNat slot.toNat 0 0 0)
  | .cfgp rgn slot => some (encCF 0x1B 0 0 rgn.toNat slot.toNat 0 0 0)
  | .copy a tk off => some (encEN 0x20 0 a.toNat tk.toNat off.toNat)
  | .netr a tk off => some (encEN 0x21 0 a.toNat tk.toNat off.toNat)
  | .netw a tk off => some (encEN 0x22 0 a.toNat tk.toNat off.toNat)
  | .stgr a tk off => some (encEN 0x23 0 a.toNat tk.toNat off.toNat)
  | .stgw a tk off => some (encEN 0x24 0 a.toNat tk.toNat off.toNat)
  | .rot d a b => some (encA3 0x25 d.toNat a.toNat b.toNat 0 0)
  | .tkw d tk clr => some (encEN 0x26 d.toNat 0 tk.toNat clr.toNat)
  | .tkq d tk clr => some (encEN 0x27 d.toNat 0 tk.toNat clr.toNat)
  | .xexp f d a p => some (encA3 0x28 d.toNat a.toNat p.toNat 0 f.toNat)
  | .xtrn w r d a => some (encA3 0x29 d.toNat a.toNat 0 r.toNat w.code)
  | .xcvt f d a p => some (encA3 0x2A d.toNat a.toNat p.toNat 0 f.toNat)
  | .dcfg a b r => some (encA3 0x2C 0 a.toNat b.toNat 0 r.toNat)
  | .dpop d => some (encA3 0x2D d.toNat 0 0 0 0)
  | .bjoin home id st => some (encAI 0x30 0 0 (st.toNat * 2 ^ 14 + home.toNat * 2 ^ 8 + id.toNat))
  | .bleave home id => some (encAI 0x31 0 0 (home.toNat * 2 ^ 8 + id.toNat))
  | .barv home id => some (encAI 0x32 0 0 (home.toNat * 2 ^ 8 + id.toNat))
  | .bwait home id => some (encAI 0x33 0 0 (home.toNat * 2 ^ 8 + id.toNat))
  | .step => some (encA3 0x34 0 0 0 0 0)
  | .yield a any => some (encA3 0x38 0 a.toNat 0 0 any.toNat)
  | .done => some (encA3 0x39 0 0 0 0 0)
  | .wdrive a => some (encA3 0x3A 0 a.toNat 0 0 0)
  | .sys d svc => some (encAL 0x3B d.toNat svc.toNat)
  | .hret => some (encA3 0x3C 0 0 0 0 0)
  | _ => none

/-- The element operation word of an instruction (R139, R148). -/
def encodeElem : Instr → Option Nat
  | .pass o => some (encE 0x01 o) | .const o => some (encE 0x02 o) | .bnr o => some (encE 0x03 o)
  | .eos o => some (encE 0x04 o) | .cnt o => some (encE 0x05 o) | .dup o => some (encE 0x06 o)
  | .iadd o => some (encE 0x08 o) | .isub o => some (encE 0x09 o) | .imul o => some (encE 0x0A o)
  | .imulh o => some (encE 0x0B o) | .iand o => some (encE 0x0C o) | .ior o => some (encE 0x0D o)
  | .ixor o => some (encE 0x0E o) | .ishl o => some (encE 0x0F o) | .ishr o => some (encE 0x10 o)
  | .isra o => some (encE 0x11 o) | .imin o => some (encE 0x12 o) | .imax o => some (encE 0x13 o)
  | .iabs o => some (encE 0x14 o) | .icmp o => some (encE 0x15 o) | .isat o => some (encE 0x16 o)
  | .imac o => some (encE 0x17 o) | .fadd o => some (encE 0x18 o) | .fsub o => some (encE 0x19 o)
  | .fmul o => some (encE 0x1A o) | .ffma o => some (encE 0x1B o) | .fmin o => some (encE 0x1C o)
  | .fmax o => some (encE 0x1D o) | .fneg o => some (encE 0x1E o) | .fdiv o => some (encE 0x1F o)
  | .frsq o => some (encE 0x20 o) | .fcmp o => some (encE 0x21 o) | .cvt o => some (encE 0x28 o)
  | .deq o => some (encE 0x29 o) | .qnt o => some (encE 0x2A o) | .amax o => some (encE 0x2B o)
  | .lut o => some (encE 0x2C o) | .rred o => some (encE 0x2D o) | .rsum o => some (encE 0x2E o)
  | .rmax o => some (encE 0x2F o) | .rmin o => some (encE 0x30 o) | .shuf o => some (encE 0x31 o)
  | .algn o => some (encE 0x32 o) | .bcst o => some (encE 0x33 o) | .pack o => some (encE 0x34 o)
  | .unpk o => some (encE 0x35 o) | .steer o => some (encE 0x36 o) | .merge o => some (encE 0x37 o)
  | .gate o => some (encE 0x38 o) | .pgen o => some (encE 0x39 o) | .elemSel o => some (encE 0x3A o)
  | .hfwd o => some (encE 0x3B o) | .hinv o => some (encE 0x3C o) | .hthr o => some (encE 0x3D o)
  | .agld o => some (encE 0x3E o) | .agst o => some (encE 0x3F o) | .agreq o => some (encE 0x40 o)
  | .agrmw o => some (encE 0x41 o) | .feed o => some (encE 0x42 o) | .wld o => some (encE 0x43 o)
  | .drn o => some (encE 0x44 o) | .emit o => some (encE 0x45 o) | .recv o => some (encE 0x46 o)
  | _ => none

/-- The 28 bytes of a weight-block header before HCHK, and PLEN's value (R310). -/
def encW (op route fc plen l0 l1 side : Nat) : Nat :=
  op + route * 2 ^ 8 + fc * 2 ^ 16 + plen * 2 ^ 32 + l0 * 2 ^ 64 + l1 * 2 ^ 128 + side * 2 ^ 192
/-- The header with its HCHK. -/
def withHchk (h : Nat) : Nat := h + csum32 0 (headerWords h) * 2 ^ 224

/-- The 32-byte header of a weight block, as a little-endian number (R310, R311). -/
def encodeW : Instr → Option Nat
  | .wNop l0 => some (withHchk (encW 0 0 0 0 l0.toNat 0 0))
  | .wMma ctx acc src fmt sparse mx kc pair plen l0 otoff nout =>
    some (withHchk (encW 1 (ctx.toNat + acc.toNat * 2 ^ 2 + src.toNat * 2 ^ 5)
      (fmt.toNat + sparse.toNat * 2 ^ 4 + mx.toNat * 2 ^ 6 + kc.toNat * 2 ^ 7 + pair.toNat * 2 ^ 9)
      plen.toNat l0.toNat 0 (otoff.toNat + nout.toNat * 2 ^ 24)))
  | .wMmaz ctx acc src l0 =>
    some (withHchk (encW 2 (ctx.toNat + acc.toNat * 2 ^ 2 + src.toNat * 2 ^ 5) 0 0 l0.toNat 0 0))
  | .wExit ctx src l0 => some (withHchk (encW 3 (ctx.toNat + src.toNat * 2 ^ 5) 0 0 l0.toNat 0 0))
  | .wBr ctx psrc pnot l0 l1 => some (withHchk
      (encW 4 (ctx.toNat + psrc.toNat * 2 ^ 3 + pnot.toNat * 2 ^ 5) 0 0 l0.toNat l1.toNat 0))
  | .wCall l0 l1 => some (withHchk (encW 5 0 0 0 l0.toNat l1.toNat 0))
  | .wRet => some (withHchk (encW 6 0 0 0 0 0 0))
  | .wSync tk clr l0 => some (withHchk (encW 7 0 (tk.toNat + clr.toNat * 2 ^ 6) 0 l0.toNat 0 0))
  | .wScale l0 => some (withHchk (encW 8 0 0 64 l0.toNat 0 0))
  | .wEnd => some (withHchk (encW 9 0 0 0 0 0 0))
  | _ => none

/-- The words of an instruction that an encoding holds, in the encoding its kind uses. -/
def encode (i : Instr) : Option Nat :=
  match encodeA i with
  | some w => some w
  | none => match encodeB i with
    | some w => some w
    | none => match encodeElem i with
      | some w => some w
      | none => encodeW i

end Sys2Proof
end

