-- ==== Sys2Proof/Machine/Tbl.lean ====
section
/-!
DEFINITION. Reading and writing the sparse tables the state is made of.
-/
namespace Sys2Proof

/-- The value at key `k`, or `d` where the table lists none; keys rise, so a larger one ends the search. -/
def tget {α : Type} (d : α) : Tbl α → Nat → α
  | [], _ => d
  | (k', v) :: t, k => if k = k' then v else if k < k' then d else tget d t k

/-- Whether the table lists key `k`. -/
def thas {α : Type} : Tbl α → Nat → Bool
  | [], _ => false
  | (k', _) :: t, k => if k = k' then true else if k < k' then false else thas t k

/-- The table with value `v` at key `k`; keys stay in rising order. -/
def tput {α : Type} : Tbl α → Nat → α → Tbl α
  | [], k, v => [(k, v)]
  | (k', v') :: t, k, v =>
    if k = k' then (k, v) :: t
    else if k < k' then (k, v) :: (k', v') :: t
    else (k', v') :: tput t k v

/-- The table without key `k`. -/
def tdel {α : Type} : Tbl α → Nat → Tbl α
  | [], _ => []
  | (k', v') :: t, k => if k = k' then t else (k', v') :: tdel t k

/-- Keys strictly rising. -/
def tsorted {α : Type} : Tbl α → Bool
  | [] => true
  | [_] => true
  | (a, _) :: (b, v) :: t => decide (a < b) && tsorted ((b, v) :: t)

end Sys2Proof
end

