-- ==== Sys2Proof/Machine/State.lean ====
section
/-!
DEFINITION. The state of the machine, as plain data, and the machine right after reset.
Like things that come in numbers are kept in sparse tables (`Tbl`): an absent key reads as the
default its reader names, which is the value at reset.
-/
namespace Sys2Proof.Machine

/-- Why the model itself stops a run. -/
inductive Fault where
  /-- Raised by the control processor's load or store of a physical address that R64 calls a hole,
  where the manual gives no effect. Safe: nothing is claimed of what follows. -/
  | hole (pa : Nat)
deriving DecidableEq, Repr

/-- Why the model gives an instruction no meaning. -/
inductive Refusal where
  /-- Raised by an arm of `exec` whose instruction has no meaning yet. Safe: the run ends. -/
  | notModelled (mnemonic : String)
deriving DecidableEq, Repr

/-! ### Memory and its agents (03, 05, 14) -/

/-- An agent of the consistency model (R329). -/
inductive AgentId where
  | task (n : Nat)
  /-- The stream of that number. -/
  | stream (n : Nat)
  | cmd (id : Nat)
  | reply (u e : Nat)
  | qp (n : Nat)
  /-- A link copy command of a peer module: the module, and the number this module gives the command. -/
  | peer (n id : Nat)
  | cp
  | sched
deriving DecidableEq, Repr

/-- The set of agents a scope names (R335, R336). -/
inductive ScopeSet where
  | agent (a : AgentId)
  | slotStreams (u rgn slot : Nat)
  | task (n : Nat)
  | tiles (mask : Nat)
  | dev
  | sys
deriving DecidableEq, Repr

/-- A write of a location: the location's address and the number of the access (R331). -/
abbrev WId := Nat × Nat

/-- A release a write carries (R337, R339). -/
structure Rel where
  ag : AgentId
  scope : ScopeSet
  cov : List WId
  /-- The tile its agent acted for (R335, R342, R347). -/
  tile : Option Nat := none
deriving DecidableEq, Repr

/-- A write of one location, with the writes of the location before it in the write order (R332). -/
structure Wr where
  id : Nat
  val : Byte
  pre : List Nat := []
  rels : List Rel := []
  atomic : Bool := false
deriving DecidableEq, Repr

/-- What an agent has read and must see (R333, R339). -/
structure AgMem where
  /-- The task it belongs to, for an agent that is not itself a task (R335). -/
  task : Option Nat := none
  floor : List WId := []
  last : List WId := []
  left : List WId := []
  written : List WId := []
  readRels : List Rel := []
  /-- Releases that each of its writes is, with a covered set that is fixed (R342). -/
  fenceRels : List Rel := []
  /-- Scopes at which each of its writes is a release of all that it has written, read and acquired (R337). -/
  relScopes : List ScopeSet := []
  /-- The kinds of the fences that make its writes releases (R338). -/
  relKinds : Nat := 0
  /-- The tile an engine command was issued on (R335, R342). -/
  tile : Option Nat := none
  /-- Of an AG stream: its unit, element and slot (R329). -/
  str : Option (Nat × Nat × Nat) := none
deriving DecidableEq, Repr

structure Mem where
  /-- Bytes at package physical addresses and strip SRAM: rising addresses, no zero byte. -/
  cells : List Host.Cell := []
  /-- First addresses of the poisoned half-lines and words (R62, R102), and of the words of a context store that
  hold a parity error (R127). -/
  poison : List Nat := []
  /-- The writes of each location, in the order performed (R331-R334). -/
  hist : Tbl (List Wr) := []
  ags : List (AgentId × AgMem) := []
  nextId : Nat := 1
  nextStr : Nat := 1
  /-- Corrected errors per HBM stack (R62) and per tile (R102). -/
  ceHbm : Tbl Nat := []
  ceSpm : Tbl Nat := []
deriving DecidableEq, Repr

/-! ### Translation (R73-R78) -/

/-- A cached leaf (R69, R73). -/
structure TlbE where
  asid : Nat
  va : Nat
  size : Nat
  pa : Nat
  perm : Nat
  g : Bool
deriving DecidableEq, Repr

/-- A miss-file entry with the requesters attached to it (R74, R76). -/
structure MissE where
  asid : Nat
  vpn : Nat
  root : Nat
  reqs : List Nat
  sent : Bool := false
  failed : Option Nat := none
deriving DecidableEq, Repr

/-- An invalidation written to XLINV (R77). -/
structure Inv where
  kind : Nat
  asid : Nat
  vpn : Nat
  bc : Bool
deriving DecidableEq, Repr

/-- A translating unit: tiles 0-63, strips 64-67, link engines 68-75, the Ethernet engine 76. -/
structure XUnit where
  tlb : List TlbE := []
  miss : List MissE := []
  misses : Nat := 0
  wfail : Bool := false
  inv : List Inv := []
  en : Bool := false
  asid : Nat := 0
  root : Nat := 0
deriving DecidableEq, Repr

/-- A walk in flight or queued, for the units waiting for it (R75). -/
structure Walk where
  asid : Nat
  vpn : Nat
  root : Nat
  units : List Nat
deriving DecidableEq, Repr

/-- A pointer-cache entry: the table at a level that serves a region of an ASID (R75). -/
structure PtrE where
  asid : Nat
  root : Nat
  level : Nat
  idx : Nat
  table : Nat
deriving DecidableEq, Repr

structure Walker where
  flight : List Walk := []
  queue : List Walk := []
  ptrs : List PtrE := []
  /-- The unit whose request was taken last, for the rotating order. -/
  rot : Nat := 0
  /-- The last failure: ASID, VPN, cause, requesters attached (R76). -/
  fail : Option (Nat × Nat × Nat × Nat) := none
deriving DecidableEq, Repr

/-! ### The sequencer (10) -/

/-- A loop level (R216). -/
structure Level where
  body : W64
  rem : W64
  idx : W64
  stride : W64
deriving DecidableEq, Repr

/-- The loop buffer: the body it captures or holds, whether capture has ended, and the bundles
held (R229, R249). -/
structure LoopBuf where
  body : W64
  held : Bool := false
  ended : Bool := false
  count : Nat := 0
  /-- The furthest bundle a branch has gone to during capture. -/
  far : Nat := 0
deriving DecidableEq, Repr

/-- A fixed-latency result that has not landed (R221, R222), with what a trap needs (R259). -/
structure Pend where
  dest : Dest
  val : Nat
  bound : Nat
  bno : Nat
  ord : Nat
  pc : W64
  fl : Fl := {}
  /-- Cause and mask of the lanes that meet a condition of R49 under SV = 2. -/
  trap : Option (Nat × Nat) := none
  /-- Flags of the lanes outside that mask. -/
  flRest : Fl := {}
  /-- Width of the values lanes write, and the first value written (R297). -/
  lw : Nat := 32
  lo : Nat := 0
deriving DecidableEq, Repr

/-- What a slot B operation still has to do. -/
inductive OpKind where
  | ld (ty : LdTy) (d addr : Nat)
  | st (n addr val : Nat)
  | ldv (d addr mask old : Nat)
  | stv (addr val mask : Nat)
  | amo (op : AmoOp) (u w : Bool) (ord scope : Nat) (d addr b : Nat)
  | cas (w : Bool) (ord scope : Nat) (d addr old new : Nat)
  | fence (kinds scope : Nat)
  /-- Physical row; the tags the ldacc's tc mask covers. -/
  | ldacc (d row g tc : Nat)
  | stacc (row g val : Nat)
  | accz (row n mask : Nat)
  | wtl (slot : Nat)
  | mma
  | cfg
  | tkw (d tk : Nat) (clr : Bool)
deriving DecidableEq, Repr

/-- Where a slot B operation stands. -/
inductive OpSt where
  | waiting
  /-- Its fault is queued or being serviced (R273, R382). -/
  | faulted
  /-- Performed, or given up (FACT 1). -/
  | over
deriving DecidableEq, Repr

/-- A slot B operation whose completion is variable (R224, R225). -/
structure Op where
  id : Nat
  tag : Nat
  ord : Nat
  bno : Nat
  pc : W64
  kind : OpKind
  st : OpSt := .waiting
  /-- The cycle in which it was issued (R104). -/
  at' : Nat := 0
deriving DecidableEq, Repr

/-- A system register write that has not taken effect (R222). -/
structure PendMts where
  num : Nat
  val : W64
  at' : Nat
deriving DecidableEq, Repr

/-- The part of a sequencer both a task and the shadow context have (R216, R383). -/
structure Ctx where
  pc : W64 := 0
  s : Tbl W64 := []
  v : Tbl VReg := []
  m : Tbl W32 := []
  /-- Innermost level first. -/
  loops : List Level := []
  loopBuf : Option LoopBuf := none
  /-- Busy tags q1-q7. -/
  busy : List Nat := []
  pend : List Pend := []
  ops : List Op := []
  /-- Bundle number and latest bound of the last bundles issued, latest first (R223). -/
  recent : List (Nat × Nat) := []
  nextIssue : Nat := 0
  bno : Nat := 0
  /-- Issue order of the last write landed in each register (R221). -/
  lastW : Tbl Nat := []
  mts : List PendMts := []
deriving DecidableEq, Repr

/-- The system registers of R236 with a value of their own. -/
structure Sys where
  vmode : W64 := 0
  vseed : W64 := 0
  gens : List Nat := tabulate 32 (lfsrSeed 0)
  vflags : W64 := 0
  th : Tbl W32 := []
  tcyc : W64 := 0
  hcyc : W64 := 0
  bfetch : W64 := 0
  bissue : W64 := 0
  tinst : W64 := 0
  tnode : W64 := 0
  scopeA : W64 := 0
  scopeB : W64 := 0
  scopeC : W64 := 0
deriving DecidableEq, Repr

/-- The decoder stream and FIFO (R298, R299). -/
structure Decoder where
  on : Bool := false
  addr : W64 := 0
  left : Nat := 0
  rmax : Nat := 0
  fifo : List VReg := []
  /-- Vectors of the block read that are not yet in the FIFO. -/
  block : List VReg := []
  /-- A bad block, or a failed read: the cause the dpop that needs it raises, and its address. -/
  bad : Option (Nat × Nat) := none
deriving DecidableEq, Repr

/-! ### Faults (16) -/

/-- A fault record (R374). -/
structure FRec where
  cause : Nat
  tile : Nat
  unit : Nat
  ctx : Nat
  fseq : Nat
  lanes : Nat := 0
  addr : Nat := 0
  pos : Nat := 0
  asid : Nat := 0
  detail : Nat := 0
  idx : List Nat := []
deriving DecidableEq, Repr

/-- What a control-class fault interrupts, which decides what hret does (R384). -/
inductive CSrc where
  | issue
  | access (op : Nat)
  | trap
  | vector (p : Pend)
  | weight
  | pass (mma : Nat)
  | config
  | parity
deriving DecidableEq, Repr

structure CFault where
  fr : FRec
  src : CSrc
deriving DecidableEq, Repr

/-- The shadow scalar context and the faults it services (R382-R385). -/
structure Shadow where
  ctx : Ctx := {}
  /-- The record being serviced first, then those queued behind it. -/
  queue : List CFault := []
  /-- Faults held back at their units while the queue is full (R382). -/
  back : List CFault := []
  running : Bool := false
  /-- SHADOW_FAULT has stopped it (R383). -/
  stopped : Bool := false
  esc : Bool := false
  fact : W64 := 0
  fval : W64 := 0
  trsel : W64 := 0
  rsel : Nat := 0
  act : Nat := 0
  stubpc : W64 := 0
  fltrec : Option FRec := none
deriving DecidableEq, Repr

/-! ### Weight-driven engine (13) -/

/-- A block read ahead (R315, R316). -/
structure WBlk where
  addr : Nat
  /-- Which reading of a block this is: a block linked to itself is read again for each time it takes effect. -/
  num : Nat := 0
  hdr : Nat := 0
  /-- Cause, detail and address of what the reading of the header or pages found (R313). -/
  err : Option (Nat × Nat × Nat) := none
  /-- The header's bytes have been read. -/
  read : Bool := false
  slot : Option Nat := none
  /-- Next image token the payload reader delivers, or next byte of a frame record. -/
  pos : Nat := 0
  frame : List Byte := []
  /-- A repair's ZERO makes these lines read as zero (R377). -/
  zero : List Nat := []
deriving DecidableEq, Repr

structure Wd where
  on : Bool := false
  /-- PC of the wdrive bundle. -/
  pc : W64 := 0
  wpc : Nat := 0
  links : List Nat := []
  row0 : Nat := 0
  m : Nat := 0
  dfirst : Nat := 0
  dcnt : Nat := 0
  dom : Bool := false
  wnext : Nat := 0
  wlast : Nat := 0
  lv : Bool := false
  pairlast : Nat := 0
  wlastb : Nat := 0
  ahead : List WBlk := []
  /-- Loads of discarded blocks that run to their end (R316). -/
  dropped : List WBlk := []
  /-- The WLAST block whose payload a resume reloads (R325). -/
  reload : Option WBlk := none
  blocks : Nat := 0
  hdrd : Nat := 0
  /-- WDSTAT.WAIT (R327). -/
  wait : Bool := false
  /-- The next block is within a wait in which no pre-emption lands (R324). -/
  mid : Bool := false
  flt : Bool := false
  /-- Blocks read since wdrive. -/
  nread : Nat := 0
  /-- The reader's fault: block, line index, line address (R322). -/
  readFault : Option FRec := none
  mmas : List Nat := []
  drains : List Nat := []
deriving DecidableEq, Repr

/-! ### Weight buffer, array and accumulator store (08) -/

/-- A weight-buffer slot (R179-R182, R202). -/
structure WSlot where
  st : Nat := 0
  fail : Nat := 0
  toks : Tbl Line := []
  /-- Tokens each WLD has delivered, and those that carried EOS. -/
  got : Tbl Nat := []
  eos : Tbl Nat := []
  gen : Nat := 0
  /-- The load is the payload reader's (R316) and its slot becomes empty at its end. -/
  discard : Bool := false
  op : Option Nat := none
deriving DecidableEq, Repr

/-- Image tokens a WLD has passed on and that are on their way into the buffer (R180). -/
structure WDeliv where
  lane : Nat
  /-- The slot of a payload reader's load; none for the wtl operation next in order. -/
  slot : Option Nat := none
  val : Line
  eos : Bool
  due : Nat
deriving DecidableEq, Repr

/-- The tile in the array's resident or preload registers (R184, R191). -/
structure ATile where
  slot : Nat
  gen : Nat
  pair : Nat
  toks : Tbl Line
deriving DecidableEq, Repr

/-- A matrix operation (R190-R192, R197). -/
structure Mma where
  id : Nat
  op : Option Nat := none
  tag : Nat := 0
  ord : Nat
  pc : W64
  issueT : Nat
  /-- The array context it was issued under (R288, R318). -/
  arr : Option (Nat × Nat) := none
  row0 : Nat
  m : Nat
  p : Nat
  slot : Nat
  pair : Nat
  acc : Bool
  ds : Bool
  wd : Bool := false
  /-- Pass being preloaded or running, whether it has started, when, and rows accepted. -/
  pass : Nat := 0
  started : Bool := false
  startT : Nat := 0
  rows : Nat := 0
  /-- The preload of the pass that starts next: the first tile cycle in which it may start. -/
  pre : Option Nat := none
  /-- Its fault is being serviced (R188). -/
  failed : Bool := false
  /-- Every pass has been accepted, or the rest are skipped. -/
  fed : Bool := false
deriving DecidableEq, Repr

/-- A row's sums on their way to the accumulator store (R29): the array cycle in which the row was accepted, and
the columns that have not landed. -/
structure Contrib where
  mma : Nat
  ord : Nat
  pass : Nat
  row : Nat
  sums : List Nat
  add : Bool
  int : Bool
  base : Nat
  left : List Nat := List.range 128
deriving DecidableEq, Repr

/-- A drain (R289, R196). -/
structure Drain where
  id : Nat
  ord : Nat
  first : Nat
  cnt : Nat
  dom : Bool
  next : Nat := 0
  arr : Option (Nat × Nat) := none
  wd : Bool := false
deriving DecidableEq, Repr

structure Array where
  /-- Array cycles: tile cycles, and held ones in which the array runs on (R31, R321). -/
  clk : Nat := 0
  slots : Tbl WSlot := []
  deliv : List WDeliv := []
  resident : Option ATile := none
  preload : Option ATile := none
  mmas : List Mma := []
  contribs : List Contrib := []
  drains : List Drain := []
  /-- Words by row × 128 + column. -/
  acc : Tbl W32 := []
  /-- Earlier values an early ldacc may still return, oldest first, each with the tag of the mma
  that replaced it (R195). -/
  old : Tbl (List (Nat × W32)) := []
  /-- What a pending ldacc reads of words that a later instruction has since updated: operation, lane, value
  (R194, R195). -/
  reads : List (Nat × Nat × W32) := []
  /-- Staging words not read since an mma.ds named them: the operation's place in the issue order, and whether
  another instruction has updated the word (R197). -/
  stage : Tbl (Nat × Bool) := []
  /-- The row that was due to be drained when the cycle began (R196). -/
  dueRow : Option Nat := none
  /-- The wtl operations that await image tokens, in issue order: slot and operation (R285). -/
  wtls : List (Nat × Nat) := []
  /-- DRN elements that have taken the drain's current row (R196). -/
  took : List Nat := []
  winBase : Nat := 0
  winCount : Nat := 0
  arrmap : W64 := 0
  accspare : W64 := 0
  dsat : Bool := false
  rsvcnt : Nat := 0
  hdrop : W32 := 0
  /-- The array context set by fire ARR (R288). -/
  ctx : Option (Nat × Nat) := none
  nextId : Nat := 1
  /-- First accumulator word with a parity error, weight slots with one (R373). -/
  accBad : List Nat := []
  wbufBad : List Nat := []
deriving DecidableEq, Repr

/-! ### The collar (06, 07) -/

/-- A data token with its sideband and what it carries hidden (R118). -/
structure Tok where
  vc : Nat
  eos : Bool := false
  bnr : Bool := false
  dom : Nat := 0
  seq : Nat := 0
  lcnt : Nat := 16
  val : Line := 0
  rgn : Nat := 0
  slot : Nat := 0
  plane : Nat := 0
  /-- Element that produced it, and the cycle in which it entered where it stands. -/
  src : Nat := 0
  at' : Nat := 0
  /-- The format a memory node's reply is decoded under (R105). -/
  fmt : Option Nat := none
  /-- A fault token (R375). -/
  flt : Bool := false
  /-- A parity error in the entry it stands in (R373). -/
  bad : Bool := false
deriving DecidableEq, Repr

/-- A pennant (R119, R147). -/
structure Pen where
  vc : Nat
  val : Bool
  eos : Bool := false
  rgn : Nat := 0
  slot : Nat := 0
  plane : Nat := 0
  src : Nat := 0
  at' : Nat := 0
  bad : Bool := false
deriving DecidableEq, Repr

/-- A pattern descriptor as read (R168). -/
structure Desc where
  base : Nat
  cnt : List Nat
  str : List Nat
  ctl : Nat
deriving DecidableEq, Repr

/-- Where an operation stands between firings: the fields of the operations of 07 and 09. -/
structure OpState where
  /-- A stream has started and is not at its end; its DOM; a held start and its DOM (R288). -/
  on : Bool := false
  dom : Nat := 0
  held : Option Nat := none
  desc : Option Desc := none
  /-- Descriptor address still to be read, and the cycle after which firing may begin. -/
  wantDesc : Bool := false
  ready : Nat := 0
  /-- The cycle in which its start arrived (R435). -/
  begun : Nat := 0
  /-- Iteration, token or firing count of the stream. -/
  t : Nat := 0
  /-- Firing within the group that one consumption makes (R144, R147). -/
  ph : Nat := 0
  /-- Inputs gathered, values gathered, and the sideband of the first of them. -/
  k : Nat := 0
  vals : List Nat := []
  seq0 : Nat := 0
  /-- Counts since the last EOS or banner (R175). -/
  cnt : Nat := 0
  /-- Rows or tokens of a segment, and what is still to be emitted. -/
  rows : List Line := []
  outq : List Tok := []
  thv : Nat := 0
  bmap : Nat := 0
  scales : List Nat := []
  /-- lut: the lines of the table (R159). -/
  table : Tbl Line := []
  /-- A request being served by a memory node: address, lines left, consumer tile, element, VC,
  format, TAG (R105). -/
  req : Option (List Nat) := none
  /-- A replaced, defaulted, zeroed or skipped attempt granted by a repair (R377). -/
  grant : Option Nat := none
  value : Nat := 0
deriving DecidableEq, Repr

/-- The part of a plane that a cut saves: the register bank (R116, R120, R209). -/
structure Bank where
  e : Tbl Line := []
  c : Tbl Line := []
  gens : List Nat := []
  iv : Bool := false
  dz : Bool := false
  ovf : Bool := false
  uf : Bool := false
  sclamp : Bool := false
  sat : Nat := 0
  ufl : Nat := 0
  rsv : Nat := 0
  disc : Nat := 0
  /-- FIRE, NOA, NOB, NOC, NOSP, PENN, GATE, MEM, HOLD by number 0-8. -/
  ctr : Tbl Nat := []
  st : OpState := {}
deriving DecidableEq, Repr

/-- A result in an element's pipeline or output (R124). -/
structure ORes where
  tok : Tok
  ready : Nat
  /-- Its value is the line an agrmw has still to read (R170). -/
  need : Bool := false
deriving DecidableEq, Repr
structure OPen where
  pen : Pen
  ready : Nat
deriving DecidableEq, Repr

/-- A line an agst has buffered: interval, stream, address, bytes (R329, R387). -/
structure BufLine where
  ivl : Nat
  str : Nat
  pa : Nat
  bytes : List Byte
deriving DecidableEq, Repr

/-- A configuration plane of an element (R116, R136, R386, R387). -/
structure Plane where
  loaded : Bool := false
  op : Nat := 0
  mode : Nat := 0
  const : Nat := 0
  vct : Tbl Nat := []
  qa : List Tok := []
  qb : List Tok := []
  qc : List Tok := []
  qp : List Pen := []
  bank : Bank := {}
  atend : Bool := false
  /-- Its last stream is at its end: EOS consumed on every queue it sources, or emitted by a source (R130). -/
  ended : Bool := false
  trapped : Bool := false
  /-- Banner number and bank of the last complete cut, and of those in progress, oldest first. -/
  cutDone : Option (Nat × Bank) := none
  cuts : List (Nat × Bank) := []
  /-- Lines an agst has buffered, in iteration order (R387). -/
  lines : List BufLine := []
  /-- Intervals that are performed without their cut (R387). -/
  lineTo : Nat := 0
  image : Nat := 0
  /-- A parity error in its words (R373). -/
  bad : Bool := false
  /-- Tokens consumed from each queue since the plane was loaded. -/
  taken : Tbl Nat := []
  /-- Scale loads that firings do not see yet: register, value, cycle of arrival (R146). -/
  cload : List (Nat × Line × Nat) := []
  /-- Banners saved since the plane became current (R386). -/
  bnrs : Nat := 0
deriving DecidableEq, Repr

/-- An element (R116, R125, R130, R375). -/
structure Elem where
  planes : Tbl Plane := []
  cur : Tbl Nat := []
  staged : Tbl Nat := []
  /-- By slot: the plane that a switch requested leads to (R130). -/
  goes : Tbl Nat := []
  /-- By plane: VCs whose last token taken in carried EOS (R130). -/
  closed : Tbl (List Nat) := []
  /-- Slots whose switch this element has still to make. -/
  switching : List Nat := []
  /-- By slot: the cycle of its final firing in the old plane, or of the request (R130). -/
  final : Tbl Nat := []
  out : List ORes := []
  pout : List OPen := []
  fault : Option FRec := none
  fseq : Nat := 0
  /-- Engine replies and mailbox messages a PORT holds. -/
  inbox : List Tok := []
  /-- Fault tokens on their way into the element's box (R375). -/
  flt : List Tok := []
  /-- The place of the token that its fault withholds (R374). -/
  place : Nat := 0
  /-- By slot: the stream that accesses memory for it (R329). -/
  strm : Tbl Nat := []
deriving DecidableEq, Repr

/-- The output buffers of a box toward its ports (R123) and the tokens at its mesh port. -/
structure Box where
  /-- Route sets by region × 4 + plane: switch words (R122). -/
  routes : Tbl (List Nat) := []
  /-- Buffer-depth class now in force, by port, and by 8 + port for pennants (R123). -/
  cls : Tbl Nat := []
  /-- By output port; by 16 + port for the separate vc31 buffer. -/
  dbuf : Tbl (List Tok) := []
  pbuf : Tbl (List Pen) := []
  mesh : List Tok := []
  meshPen : List Pen := []
deriving DecidableEq, Repr

/-- A switch in progress (R130-R132). -/
structure Switch where
  slot : Nat
  to' : Nat
  partial' : Bool
  op : Option Nat
  arrive : Nat
deriving DecidableEq, Repr

structure Region where
  task : Option Nat := none
  emask : Nat := 0
  bmask : Nat := 0
  /-- Slots armed, loading, and the staged plane of each with its image's kind. -/
  armed : List Nat := []
  loading : List Nat := []
  staged : Tbl (Nat × Bool) := []
  /-- The slot selected last (R129, R137); none before the first selection. -/
  last : Option Nat := none
  sel : Option Nat := none
  switches : List Switch := []
  crerr : Nat := 0
  k : Nat := 0
  cut : Tbl Nat := []
  broken : List Nat := []
  /-- Frozen by a pre-emption (R390). -/
  frozen : Bool := false
deriving DecidableEq, Repr

/-- A configuration load (R127, R291). -/
structure CfgLoad where
  rgn : Nat
  slot : Nat
  plane : Nat
  img : Nat
  op : Option Nat
  pc : W64
  task : Nat
  /-- The cycle in which it began, and whether the CP has been told of a parity error (R127, R291). -/
  start : Option Nat := none
  told : Bool := false
deriving DecidableEq, Repr

/-- A start on its way to a source element (R288, R435). -/
structure Start where
  elem : Nat
  slot : Nat
  dom : Nat
  at' : Nat
deriving DecidableEq, Repr

/-- A line access at a bank's port: its port, requester and element, its bytes, whether it has been granted, and
what it read, each byte with its poison, once it is performed (R100, R101). -/
structure BReq where
  port : Nat
  who : Nat
  elem : Nat
  pa : Nat
  n : Nat
  /-- When it reaches the bank (R104). -/
  at' : Nat := 0
  granted : Bool := false
  got : Option (List (Byte × Bool)) := none
deriving DecidableEq, Repr

/-- A bank's grants (R100, R440). -/
structure BankSt where
  lastPort : Nat := 6
  lastElem : Nat := 255
  /-- The cycle of the last grant. -/
  grant : Option Nat := none
  /-- Accesses pending at its ports, in the order in which they were made. -/
  pend : List BReq := []
deriving DecidableEq, Repr

/-- What an agrmw does to the values of a line (R170): operation, format, the saturation and flush of its words, and
whether it returns the old line. -/
structure RmwOp where
  op : Nat
  fmt : Nat
  sat : Bool
  flush : Bool
  plane : Nat
  /-- A repair's value stands for each value that meets a condition (R377). -/
  value : Option Nat := none
  ret : Bool
deriving DecidableEq, Repr

/-- A line an AG has fired on that is still to be written (R104, R440): its element and stream, where it goes, and
the cycle from which it may be written. One to the element's own bank has its grant. -/
structure Fly where
  elem : Nat
  str : Nat
  pa : Nat
  bytes : List Byte
  due : Nat
  direct : Bool
  rmw : Option RmwOp := none
deriving DecidableEq, Repr

structure Collar where
  elems : Tbl Elem := []
  boxes : Tbl Box := []
  regions : Tbl Region := []
  loads : List CfgLoad := []
  starts : List Start := []
  banks : Tbl BankSt := []
  /-- Lines on their way to memory (R104). -/
  fly : List Fly := []
  /-- The last cycle in which the mesh attachments carried lines, and how many out and in (R104). -/
  mesh : Nat × Nat × Nat := (0, 0, 0)
  /-- Fault tokens that cross the mesh to a strip's corner (R375). -/
  faultIn : List Tok := []
  /-- Strips: STRASID, RPTOK, RBAD, FIN, and fault tokens the corner holds (R24, R380). -/
  asid : Nat := 0
  rptok : Tbl W64 := []
  rbad : Nat := 0
  fin : Nat := 0
  corner : List FRec := []
  /-- Buffers without a free entry at the start of this cycle (R123, R124). -/
  full : List Nat := []
  /-- Records outstanding in regions when their task was aborted (R379). -/
  gone : List FRec := []
deriving DecidableEq, Repr

/-! ### A tile -/

/-- The record of a task in a tile's queue, or the task's own (R358). -/
structure TRec where
  template : Nat := 0
  node : Nat := 0
  inst : Nat := 0
  prio : Nat := 0
  flags : Nat := 0
  left : Nat := 0
  asid : Nat := 0
  image : Nat := 0
  /-- The window that firmware chose at launch, for a kernel that names none (R398). -/
  win : Nat := 0
  /-- The launch packet that firmware formed it for: queue and packet (R356, R358). -/
  of : Option (Nat × Nat) := none
deriving DecidableEq, Repr

/-- What a parked task waits for (R302, R364). -/
inductive ParkWhy where
  | tokens (mask : W64) (any : Bool)
  | barrier (b : Nat) (phase : Nat)
  | step (b : Nat) (phase : Nat)
deriving DecidableEq, Repr

/-- Where a park image lies (R364, R365). -/
inductive ParkAt where
  | stripe (n : Nat)
  | buffer
  | image
deriving DecidableEq, Repr

structure Parked where
  task : Nat
  why : ParkWhy
  place : ParkAt
deriving DecidableEq, Repr

/-- An instruction-cache line: address, its bytes as fetched, pinned by how many kernels (R230,
R405). -/
structure ILine where
  asid : Nat
  va : Nat
  bytes : List Byte
  /-- Where it was read, and the number the next write then had (R232). -/
  pa : Nat
  ver : Nat
  /-- Poisoned groups (R231). -/
  bad : Nat := 0
  pins : Nat := 0
deriving DecidableEq, Repr

structure Tile where
  /-- The running task. -/
  task : Option Nat := none
  ctx : Ctx := {}
  sys : Sys := {}
  dec : Decoder := {}
  /-- Tile cycles ended since reset, by which latencies are counted (R2). -/
  tc : Nat := 0
  /-- The hold of this cycle (R31), and whether the array runs on in it (R321). -/
  held : Bool := false
  runOn : Bool := false
  /-- The cycle began as a tile cycle, and nothing has been issued in it. -/
  ticked : Bool := false
  /-- The cycle is a tile cycle: what it brings about lands at its end (R31). -/
  ran : Bool := false
  shadow : Shadow := {}
  fseqS : Nat := 0
  fseqW : Nat := 0
  fseqR : Nat := 0
  wd : Wd := {}
  arr : Array := {}
  icache : List ILine := []
  /-- A fetch that is waiting or has failed: PC, cause and address. -/
  fetchBad : Option (W64 × Nat × Nat) := none
  ord : Nat := 1
  nextOp : Nat := 1
  /-- The last bundle issued held ps, done, or yield, and what it waits for (R226). -/
  atPs : Bool := false
  doneWait : Bool := false
  parkWait : Option ParkWhy := none
  /-- Firmware has been told of a yield that found four parked tasks (R365). -/
  limitTold : Bool := false
  queue : List TRec := []
  parked : List Parked := []
  spill : List Nat := []
  tqrec : Tbl W64 := []
  cerr : Bool := false
  preempt : Bool := false
  /-- The cycle in which the running task was dispatched (R372). -/
  since : Nat := 0
  /-- Step 1 to 3 of R390. -/
  landing : Bool := false
  abort : Option (Option Nat × Bool) := none
  /-- Tasks that could not be resumed, each with its cause: they fail when none of their tokens is PENDING (R94,
  R392). -/
  failing : List (Nat × Nat) := []
  retired : Bool := false
  /-- Registers with a parity error: s0-31, v 64-95 (R373). -/
  regBad : List Nat := []
deriving DecidableEq, Repr

/-! ### Tasks, engines, barriers (04, 05, 15) -/

/-- A token of a task: its status word and what its DONE covers (R93, R341). -/
structure Token where
  word : W64 := 0
  cov : List WId := []
deriving DecidableEq, Repr

/-- A buffer of a scratchpad plan (R106). -/
structure Buf where
  off : Nat
  size : Nat
  first : Nat
  last : Nat
  kind : Nat
  sym : Nat := 0
deriving DecidableEq, Repr

/-- A task: resident on a tile, parked there, or away. -/
structure Task where
  trec : TRec := {}
  tile : Nat := 0
  /-- The launch packet it belongs to: queue and packet number. -/
  launch : Option (Nat × Nat) := none
  resident : Bool := false
  started : Bool := false
  tokens : Tbl Token := []
  regions : List (Nat × Nat × Nat) := []
  bankMask : Nat := 0
  winBase : Nat := 0
  winCount : Nat := 0
  plan : List Buf := []
  entry : W64 := 0
  scopeA : W64 := 0
  scopeB : W64 := 0
  scopeC : W64 := 0
  /-- Retry log: line address (physical) and its bytes with a written mask, in first-entry order. -/
  log : List (Nat × List (Option Byte)) := []
  /-- Floor its engine commands take from fences (R340). -/
  engFloor : List WId := []
  /-- Floor its streams take from fences with col (R282). -/
  colFloor : List WId := []
  /-- Lines it has fetched, each with the first write after (R232). -/
  seen : List (Nat × Nat) := []
  barriers : List Nat := []
  stepGroup : Option Nat := none
  arrived : List (Nat × Nat) := []
  /-- The number of the next write when its communication phase began (R111, R343). -/
  stepFrom : Nat := 0
  /-- COPY commands counted toward the step (R111). A member's own stores are performed before it arrives,
  and an AG's when it fires. -/
  countedCmds : List Nat := []
  rots : List (Nat × Nat × Nat) := []
  /-- It has issued a second rot in this phase (R113). -/
  rotTwice : Bool := false
  /-- What goes with a pre-empted or parked task beside its image, and what it waits for if it was parked on a tile
  that has been retired (R391, R394). -/
  savedCtx : Option (Ctx × Sys × Decoder × Wd) := none
  savedWhy : Option ParkWhy := none
  /-- It has met LOG_FULL: it is not retried (R370). -/
  logFull : Bool := false
  /-- The soft error for which firmware has aborted it (R393). -/
  soft : Option Nat := none
  /-- Loads of its configurations that failed while it was away: cause, and PC of the cfgs (R291). -/
  lateFaults : List (Nat × W64) := []
  arrCtx : Option (Nat × Nat) := none
  retired : Bool := false
  cause : Nat := 0
deriving DecidableEq, Repr

/-- Where an engine command stands (R92). -/
inductive CmdSt where
  | waiting
  | running
  /-- Paused with its cause and the address (R76, R92). -/
  | paused (cause addr : Nat)
  /-- Every access performed: the status it will record, DONE or FAILED. -/
  | ending (word : W64)
deriving DecidableEq, Repr

/-- An engine command (R83-R92). -/
structure Cmd where
  id : Nat
  task : Option Nat
  /-- Queue and packet of a COPY packet (R356). -/
  packet : Option (Nat × Nat) := none
  tile : Nat
  asid : Nat
  root : Nat
  block : List Byte
  shape : Option (List Byte) := none
  /-- Where the block and the shape record were read, and what stood there (R85). -/
  read : List (Nat × List Byte) := []
  tkp : Nat
  tkcs : List Nat := []
  floor : List WId := []
  st : CmdSt := .waiting
  /-- Elements visited in visit order, those performed ahead of it with the bytes they wrote, and the check value
  so far with its pending bytes. -/
  pos : Nat := 0
  ahead : List (Nat × List Byte) := []
  /-- The element a copy performs; once it has been read and is still to be written, each byte with its poison. -/
  elem : Option Nat := none
  hold : Option (Nat × List (Byte × Bool)) := none
  chk : Nat := 0
  tail : List Byte := []
  poisoned : Bool := false
  retryOnly : Bool := false
  /-- PORT to answer: unit, element, VC (R95). -/
  reply : Option (Nat × Nat × Nat) := none
  /-- Destination bytes written, and source bytes read, for R89. -/
  wrote : List Nat := []
  readB : List Nat := []
  /-- Link copies: packets sent and answers received; bytes gathered or received but not yet moved, how
  many have been, and which of the bytes held were poisoned at their source (R63, R96). -/
  sent : Nat := 0
  got : Nat := 0
  data : List Byte := []
  bad : List Bool := []
  moved : Nat := 0
deriving DecidableEq, Repr

/-- A link copy command of a peer module whose data an engine receives: module, the TAG's command, the number of
its agent, the bytes received, and the check value so far with its pending bytes (R91, R98, R438). -/
structure Rcv where
  peer : Nat
  tag : Nat
  id : Nat
  count : Nat := 0
  chk : Nat := 0
  tail : List Byte := []
deriving DecidableEq, Repr

structure Engine where
  q : List Cmd := []
  /-- LCINJ of a die (R98), kept with its engine 0: the register, the commands still to pass, and the command
  that is its target. -/
  lcinj : W64 := 0
  skip : Nat := 0
  tgt : Option Nat := none
  rcvd : List Rcv := []
deriving DecidableEq, Repr

/-- What a task has released into a barrier's phase: the task, its tile, what is covered (R339, R343). -/
structure Cov where
  task : Nat
  tile : Nat
  ws : List WId
deriving DecidableEq, Repr

/-- A barrier on its home tile (R301, R366). -/
structure Barrier where
  members : List Nat := []
  arrived : List Nat := []
  phase : Nat := 0
  step : Bool := false
  /-- What the arrivals and leaves of this phase released (R301). -/
  covs : List Cov := []
  /-- Of the phase completed last: each member, and what its scope of the membership set let it acquire at completion
  (R336, R343). -/
  doneCov : List (Nat × List WId) := []
deriving DecidableEq, Repr

/-- A torus port of a die (R416-R419). -/
structure Link where
  kept : List (Nat × List Byte) := []
  sendSeq : Nat := 0
  recvSeq : Nat := 0
  nakWait : Bool := false
  resends : Nat := 0
  width : Nat := 0
  state : Nat := 0
  laneok : Nat := 0
  crcerr : Nat := 0
  replay : Nat := 0
  /-- Packet flits received and not yet served, and the payload of the packet at their head as LCINJ has left it, once
  its accesses have begun (R98). -/
  inq : List (List Byte) := []
  pay : Option (List Byte) := none
  /-- Headers of packets sent, with the sequence of the last frame of each, until it is acknowledged (R418). -/
  flight : List (Nat × List Byte) := []
  /-- Commands and forwarded streams with a packet that waits for the port, in the order of their turns (R96). -/
  want : List Nat := []
deriving DecidableEq, Repr

/-- A handle of the Ethernet engine (R97): 0 closed, 1 network, 2 storage, with its queue pair,
remote key, block size and largest transfer. -/
structure Handle where
  kind : Nat := 0
  qp : Nat := 0
  key : W32 := 0
  block : Nat := 512
  maxLen : Nat := 0
deriving DecidableEq, Repr

/-! ### Host port and front end (15, 17) -/

/-- A packet that has begun (R355). -/
structure Packet where
  n : Nat
  bytes : List Byte
  done : Bool := false
  status : Nat := 0
  detail : Nat := 0
  value : W64 := 0
  cov : List WId := []
  /-- Tasks, commands or elements still awaited. -/
  waits : List Nat := []
  /-- SINK elements still awaited: unit, element and slot (R368). -/
  sinks : List (Nat × Nat × Nat) := []
  begun : Bool := false
  /-- LAUNCH: instances whose records have been pushed. -/
  pushed : Nat := 0
  /-- LOADOBJ: its place among those of its ASID that have begun (R402). -/
  no : Nat := 0
  /-- Place among the queue's packets in the order of completion (R412). -/
  fin : Nat := 0
deriving DecidableEq, Repr

structure Queue where
  qbase : Nat := 0
  even : Bool := false
  scause : Nat := 0
  fstall : Bool := false
  open' : Bool := false
  asid : Nat := 0
  logn : Nat := 0
  wridx : Nat := 0
  rdidx : Nat := 0
  cqaddr : W64 := 0
  cqlog : Nat := 0
  cqh : Nat := 0
  cqkey : W32 := 0
  hold : Nat := 64
  thresh : Nat := 1
  cqdone : Nat := 0
  cqidx : Nat := 0
  packets : List Packet := []
  /-- A recorded packet asked for an event frame (R353). -/
  ev : Bool := false
  p : Nat := 0
  t0 : Nat := 0
  /-- The writes of the queue pairs that have rung since the last fetch (R344). -/
  floor : List WId := []
  /-- What the packets that have left the queue have written (R356). -/
  past : List WId := []
  /-- What the records not yet consumed release at sys scope: the count of records with each, and its covered set
  (R345, R356). -/
  told : List (Nat × List WId) := []
  /-- What the last RDMA WRITE of the queue carried: a record's packet, or a frame's count P (R414). -/
  sent : List Packet := []
  sentP : Nat := 0
  /-- Last cycle in which the queue was not idle with a record to announce (R413). -/
  idleAt : Nat := 0
deriving DecidableEq, Repr

structure FeSlot where
  q : Nat := 0
  /-- QUEUE as last written (R351). -/
  shown : Nat := 0
  v : Bool := false
  busy : Bool := false
  fetching : Bool := false
  /-- Cycle in which the head packet of its queue was last examined (R372). -/
  seenAt : Nat := 0
deriving DecidableEq, Repr

structure FrontEnd where
  slots : Tbl FeSlot := []
  pend : List Nat := []
  baddb : Nat := 0
  cerr : Bool := false
deriving DecidableEq, Repr

structure Window where
  base : W64 := 0
  len : W64 := 0
  key : Nat := 0
  v : Bool := false
  reg : Bool := false
  w : Bool := false
  r : Bool := false
  asid : Nat := 0
deriving DecidableEq, Repr

/-- A global symbol of an ASID (R404). -/
structure Sym where
  /-- The handle of the object that defines it. -/
  owner : Nat := 0
  name : List Byte
  weak : Bool
  kind : Nat
  value : W64
  hash : Nat
  size : Nat
deriving DecidableEq, Repr

/-- A kernel that an object has brought, with what its symbol, plan and configuration images give (R106, R397, R402). -/
structure Kern where
  /-- The handle of its object. -/
  owner : Nat := 0
  pc : Nat := 0
  plan : List Buf := []
  bankMask : Nat := 0
  window : Nat := 0
  regions : Nat := 0
  masks : Tbl (Nat × Nat) := []
  place : List Nat := []
deriving DecidableEq, Repr

/-- A loaded object (R402, R405, R422): its handle, its SHA-256, and the lines it has pinned, by tile and address. -/
structure Obj where
  handle : Nat := 0
  hash : Nat := 0
  pins : List (Nat × Nat) := []
deriving DecidableEq, Repr

/-- A node of a graph template (R357) with what the loader bound (R402). -/
structure Node where
  entry : W64 := 0
  narg : Nat := 0
  flags : Nat := 0
  retries : Nat := 0
  bases : List W64 := []
  strides : List W32 := []
  scopeA : W64 := 0
  scopeB : W64 := 0
  scopeC : W64 := 0
  plan : List Buf := []
  bankMask : Nat := 0
  window : Nat := 0
  /-- The window that firmware chooses at a launch, for a kernel that names none (R398). -/
  chosen : Nat := 0
  regions : Nat := 0
  /-- Element and box masks the kernel's images name, by region. -/
  masks : Tbl (Nat × Nat) := []
  place : List Nat := []
deriving DecidableEq, Repr

/-- A translation context (R356, R404). -/
structure Asid where
  live : Bool := false
  root : Nat := 0
  /-- Open to link access (R96). DESIGN CHOICE: notes/assumptions/13.md. -/
  link : Bool := false
  signals : Tbl W64 := []
  symbols : List Sym := []
  templates : Tbl (List Node) := []
  /-- Loaded objects, in load order (R422). -/
  objects : List Obj := []
  kernels : List Kern := []
  /-- Configuration images by number (R402). -/
  images : Tbl (List Byte) := []
  /-- Handles of objects that are gone (R406). -/
  gone : List Nat := []
  /-- LOADOBJ packets that have begun (R402). -/
  loads : Nat := 0
  quota : Nat := 32768
deriving DecidableEq, Repr

/-- A host queue pair (R344, R407-R409). -/
structure Qp where
  /-- 0 not created, 1 created, 2 connected (R408). -/
  st : Nat := 0
  err : Bool := false
  flushed : Bool := false
deriving DecidableEq, Repr

/-! ### Module (18) -/

/-- A mailbox message (R426). -/
structure Msg where
  kind : Nat
  src : Nat
  unit : Nat
  cause : Nat
  bytes : List Byte
deriving DecidableEq, Repr

structure Module where
  cpsel : Bool := false
  health : Nat := 0
  dlane : Nat := 0
  rtile : Nat := 0
  ready : Bool := false
  alarm : Bool := false
  erased : Bool := false
  policy : Bool := false
  lock : Bool := false
  src : Nat := 0
  inbox : List Msg := []
  outbox : List (Nat × Nat × List Byte) := []
  mbxout : Tbl W64 := []
  serr : Bool := false
  /-- Reports that wait at their source while 64 messages stand (R426). -/
  waiting : List Msg := []
  /-- Owner keys by slot, 4-15 (R420). -/
  keys : Tbl Nat := []
  /-- The device identity key and its leaf index (R420, R421). -/
  idKey : Option Nat := some 0
  leaf : Nat := 0
  /-- Fuses: the SHA-256 of each root key, and the slots revoked (R420). -/
  rootKeys : Tbl Nat := [(0, 0), (1, 0), (2, 0), (3, 0)]
  revoked : List Nat := []
  /-- SHA-256 of the running firmware (R422). -/
  fwHash : Nat := 0
  /-- Repair fuses (R202). -/
  fuses : List (Nat × W64 × W64) := []
  /-- Soft errors counted per unit (R428). -/
  counts : Tbl Nat := []
  /-- Firmware's thresholds of corrected and of uncorrectable errors (R428). -/
  ceMax : Nat := 1024
  ueMax : Nat := 2
  /-- Tiles that firmware is about to retire (R428). -/
  retiring : List Nat := []
  /-- The Ethernet port has trained (R433). -/
  ethUp : Bool := true
  retired : List Nat := []
  mhz : Nat := 2000
  powered : Bool := true
  stopped : Bool := false
  dims : Nat × Nat × Nat := (1, 1, 1)
  coord : Nat × Nat × Nat := (0, 0, 0)
  paused : List Nat := []
  nextTask : Nat := 1
  nextCmd : Nat := 1
  /-- Firmware's run list: records that wait for a tile, each with a tile it shall not go to (R370, R372, R394). -/
  runList : List (TRec × Option Nat) := []
  /-- Pages that firmware has for page tables (R109). -/
  tablePages : List Nat := []
deriving DecidableEq, Repr

/-- What the module has sent outward. -/
inductive OutMsg where
  | rdmaWrite (qp : Nat) (key : W32) (addr : W64) (data : List Byte)
  | rdmaRead (qp : Nat) (key : W32) (addr : W64) (len : Nat)
  | nvme (handle : Nat) (write : Bool) (lba : W64) (data : List Byte) (len : Nat)
  | writeImm (qp : Nat) (imm : W32)
  | readReply (qp : Nat) (data : List Byte)
  | nak (qp : Nat) (access : Bool)
  | frame (die port : Nat) (bytes : List Byte)
  | packet (die port : Nat) (bytes : List Byte)
  | cpData (data : List Byte)
  /-- A congestion notification packet (R407). -/
  | cnp (qp : Nat)
  /-- An attestation report (R422). -/
  | report (asid : Nat) (bytes : List Byte)
deriving DecidableEq, Repr

/-- What firmware does, and what the network marks, beside the rows of the opcode table: the machine's inputs of that
kind. DESIGN CHOICE: notes/assumptions/13.md. -/
inductive Side where
  /-- Another pin quota of an ASID (R405). -/
  | quota (asid bytes : Nat)
  /-- The window of stripes that the launches of a node take where its kernel names none (R398). -/
  | window (asid template node n : Nat)
  /-- An object is unloaded (R405). -/
  | unload (asid handle : Nat)
  /-- The loaded native objects of an ASID are discarded (R406). -/
  | discard (asid : Nat)
  /-- An ASID is opened or closed to link access (R96). -/
  | openLink (asid : Nat) (on : Bool)
  /-- A handle of the Ethernet engine is opened, or closed as kind 0 (R97). -/
  | openHandle (n : Nat) (h : Handle)
  /-- Queue pairs are created, connected and recovered (R408). -/
  | qpCreate (n : Nat)
  | qpConnect (n : Nat)
  | qpRecover (n : Nat)
  /-- Torus dimensions and the module's coordinates (R415). -/
  | torus (dims coord : Nat × Nat × Nat)
  /-- Thresholds of the health log (R428). -/
  | thresholds (ce ue : Nat)
  /-- An owner key is written into the key store (R420). -/
  | ownerKey (slot key : Nat)
  /-- A fuse revokes a root key slot (R420). -/
  | revoke (slot : Nat)
  /-- The attestation service answers a task of an ASID (R422). -/
  | attest (asid : Nat) (nonce : List Byte)
  /-- Pages for page tables. -/
  | tables (l : List Nat)
  /-- A frame of a queue pair arrives with an ECN mark (R407). -/
  | ecnMark (qp : Nat)
deriving DecidableEq, Repr

/-! ### Whose turn it is -/

/-- A turn of one agent within a cycle (R9, R12). -/
inductive Turn where
  /-- The tile's sequencer issues a bundle. -/
  | seq (t : Nat)
  /-- The tile's shadow context issues a bundle. -/
  | shadow (t : Nat)
  /-- The tile's weight-driven engine lets a block take effect. -/
  | wd (t : Nat)
  /-- The banks choose what they grant, and the rest of the cycle's turns follow (R100, R440). -/
  | banks
  /-- Lines that AGs have fired on are written (R104). -/
  | fly (u : Nat)
  /-- The tile's last cycle ends. -/
  | ended (t : Nat)
  /-- The tile's cycle begins: it is held, or a tile cycle. -/
  | tick (t : Nat)
  /-- An element of a collar fires. -/
  | elem (u e : Nat)
  /-- Firmware looks at its run list and at what has run for its time (R372). -/
  | firmware
  /-- An event of one unit. -/
  | ev (i : Instr)
deriving DecidableEq, Repr

/-- What became of the slot instruction just executed. -/
inductive Iss where
  | ok
  /-- The bundle waits at issue; nothing has changed (R273). -/
  | wait
  /-- A control-class fault at issue: neither slot takes effect (R220, R273). -/
  | fault
deriving DecidableEq, Repr

/-- On whose behalf `exec` acts. -/
structure Cur where
  unit : Nat := 0
  shadow : Bool := false
  elem : Nat := 0
  slot : Nat := 0
  plane : Nat := 0
  ta : Nat := 0
  tc : Nat := 0
  bpc : W64 := 0
  iss : Iss := .ok
deriving DecidableEq, Repr

/-- The machine. -/
structure State where
  cycle : Nat := 0
  agenda : List Turn := []
  inputs : List Instr := []
  /-- Firmware's steps and the network's marks, the next first. -/
  side : List Side := []
  cur : Cur := {}
  free : Nat := 0
  outbox : List OutMsg := []
  mem : Mem := {}
  tiles : Tbl Tile := []
  collars : Tbl Collar := []
  xus : Tbl XUnit := []
  walkers : Tbl Walker := []
  engines : Tbl Engine := []
  tasks : Tbl Task := []
  barriers : Tbl Barrier := []
  links : Tbl Link := []
  handles : Tbl Handle := []
  queues : Tbl Queue := []
  fe : FrontEnd := {}
  windows : Tbl Window := []
  asids : Tbl Asid := []
  qps : Tbl Qp := []
  mod : Module := {}
deriving DecidableEq, Repr

/-- The machine right after reset: every table is empty, so every register holds its reset value, and where the
manual gives none the value that the log names. DESIGN CHOICE: notes/assumptions/4.md to 15.md, 105.md. -/
def State.reset : State := {}

end Sys2Proof.Machine
end

