-- ==== Sys2Proof/Machine/Mem.lean ====
section
/-!
DEFINITION. Free values, bytes of memory, poison and the consistency model (R9, R62-R66, R102,
R329-R347).
-/
namespace Sys2Proof.Machine

/-! ### Free values (R9; notes/assumptions/2.md) -/

/-- The free value number `salt` of this step. DESIGN CHOICE: notes/assumptions/2.md. -/
def undef (s : State) (salt : Nat) : Nat := Config.freeNat (s.free * 65536 + salt)

/-- A free choice among `n` things. -/
def choose (s : State) (salt n : Nat) : Nat := if n = 0 then 0 else undef s salt % n

/-! ### Bytes -/

/-- The byte at an address; an address not listed reads 0 (R433; notes/assumptions/4.md).
DESIGN CHOICE: notes/assumptions/4.md. -/
def cellGet : List Host.Cell → Nat → Byte
  | [], _ => 0
  | (a, b) :: t, k => if a = k then b else if k < a then 0 else cellGet t k

/-- The canonical form: addresses strictly rising, no zero byte listed. DESIGN CHOICE: notes/assumptions/4.md. -/
def cellsOk : List Host.Cell → Bool
  | [] => true
  | [(_, b)] => b != 0
  | (a, b) :: (a', b') :: t => b != 0 && decide (a < a') && cellsOk ((a', b') :: t)

/-- The canonical form of memory. -/
def Mem.wf (m : Mem) : Bool := cellsOk m.cells

/-- The byte memory holds at a physical address. -/
def State.byte (s : State) (a : Nat) : Byte := cellGet s.mem.cells a

/-- The entries from an address on. -/
def cellsFrom : List Host.Cell → Nat → List Host.Cell
  | [], _ => []
  | (x, b) :: t, k => if x < k then cellsFrom t k else (x, b) :: t
/-- `n` bytes from an address on; the list begins there or after it. -/
def takeBytes : Nat → Nat → List Host.Cell → List Byte
  | 0, _, _ => []
  | n + 1, a, [] => 0 :: takeBytes n (a + 1) []
  | n + 1, a, (x, b) :: t => if x = a then b :: takeBytes n (a + 1) t else 0 :: takeBytes n (a + 1) ((x, b) :: t)

/-- The `n` bytes memory holds from an address on. -/
def State.bytes (s : State) (a n : Nat) : List Byte := takeBytes n a (cellsFrom s.mem.cells a)

/-- Bytes from an address on, as entries: no zero byte. -/
def runCells : Nat → List Byte → List Host.Cell
  | _, [] => []
  | a, b :: bs => if b = 0 then runCells (a + 1) bs else (a, b) :: runCells (a + 1) bs
/-- Write bytes from an address on. -/
def putBytes : List Host.Cell → Nat → List Byte → List Host.Cell
  | [], a, bs => runCells a bs
  | (x, b) :: t, a, bs =>
    if x < a then (x, b) :: putBytes t a bs else runCells a bs ++ cellsFrom ((x, b) :: t) (a + bs.length)

/-! ### The physical map (R64) -/

def hbmEnd : Nat := 0xC000000000
def spmBase : Nat := 0x100000000000
def cfgBase : Nat := 0x200000000000
def regBase : Nat := 0x300000000000
def sramBase : Nat := 0x1000000000000

/-- What a physical address is (R64, R65); strip SRAM stands at the CP's own addresses (R24). -/
inductive Place where
  | hbm
  | spm (tile off : Nat)
  | context (unit off : Nat)
  | planes (unit off : Nat)
  | reg (page off : Nat)
  | sram (strip off : Nat)
  | hole
deriving DecidableEq, Repr

/-- DESIGN CHOICE: notes/assumptions/24.md. -/
def place (pa : Nat) : Place :=
  if pa < hbmEnd then .hbm
  else if spmBase ≤ pa ∧ pa < spmBase + 64 * 0x1000000 then
    .spm ((pa - spmBase) / 0x1000000) (pa % 0x1000000)
  else if cfgBase ≤ pa ∧ pa < cfgBase + 68 * 0x100000 then
    let u := (pa - cfgBase) / 0x100000
    let o := pa % 0x100000
    if o < 0x80000 then .context u o else if o < 0xC0000 then .planes u o else .hole
  else if regBase ≤ pa ∧ pa < regBase + 91 * 0x40000 then
    .reg ((pa - regBase) / 0x40000) (pa % 0x40000)
  else if sramBase ≤ pa ∧ pa < sramBase + 4 * 0x100000 then
    .sram (64 + (pa - sramBase) / 0x100000) (pa % 0x100000)
  else .hole

def Place.isMem : Place → Bool
  | .hbm | .spm _ _ => true
  | _ => false

def spmAddr (tile off : Nat) : Nat := spmBase + tile * 0x1000000 + off
def ctxAddr (unit off : Nat) : Nat := cfgBase + unit * 0x100000 + off

/-- Where an element's slice offset lies: its tile's scratchpad or its strip's SRAM (R24, R168). -/
def localAddr (u off : Nat) : Nat :=
  if u < 64 then spmAddr u off else sramBase + (u - 64) * 0x100000 + off

/-! ### Poison (R62, R63, R102) -/

/-- The unit of poison an address lies in: a 32-byte half-line of HBM, a 16-byte word of scratchpad, and a
register-sized word of a context store, which a parity error marks (R127). -/
def poisonUnit (pa : Nat) : Nat × Nat :=
  match place pa with
  | .hbm => (pa / 32 * 32, 32)
  | .spm _ _ => (pa / 16 * 16, 16)
  | .context _ _ => (pa / 8 * 8, 8)
  | _ => (pa, 0)

def isPoisoned (s : State) (pa : Nat) : Bool :=
  let (b, n) := poisonUnit pa
  n != 0 && s.mem.poison.contains b

/-- Whether any of `n` bytes lies in a poisoned unit. -/
def anyPoison (s : State) (pa n : Nat) : Bool :=
  if s.mem.poison.isEmpty then false
  else (List.range n).any fun i => isPoisoned s (pa + i)

/-- The poison left after a write of `n` bytes: a write that replaces a whole unit clears it. -/
def clearPoison (p : List Nat) (pa n : Nat) : List Nat :=
  p.filter fun b =>
    let w := (poisonUnit b).2
    !(decide (pa ≤ b) && decide (b + w ≤ pa + n))

/-! ### Locations (R331-R334) -/

def agGet (l : List (AgentId × AgMem)) (a : AgentId) : AgMem :=
  match l with
  | [] => {}
  | (k, v) :: t => if k = a then v else agGet t a
def agPut (l : List (AgentId × AgMem)) (a : AgentId) (v : AgMem) : List (AgentId × AgMem) :=
  match l with
  | [] => [(a, v)]
  | (k, w) :: t => if k = a then (a, v) :: t else (k, w) :: agPut t a v

def State.ag (s : State) (a : AgentId) : AgMem := agGet s.mem.ags a
def State.setAg (s : State) (a : AgentId) (v : AgMem) : State :=
  { s with mem := { s.mem with ags := agPut s.mem.ags a v } }

/-- Writes put into an agent's floor (R339). -/
def State.addFloor (s : State) (a : AgentId) (ws : List WId) : State :=
  if ws.isEmpty then s
  else
    let m := s.ag a
    s.setAg a { m with floor := m.floor ++ ws.filter fun w => !m.floor.contains w }

/-- What an agent has read of the locations `p` holds. -/
def AgMem.part (m : AgMem) (p : Nat → Bool) : AgMem :=
  { m with floor := m.floor.filter fun w => p w.1, last := m.last.filter fun w => p w.1, left := m.left.filter fun w => p w.1 }
/-- What an agent has read, in two parts. -/
def AgMem.join (m n : AgMem) : AgMem :=
  { n with floor := m.floor ++ n.floor, last := m.last ++ n.last, left := m.left ++ n.left }
/-- A location of `n` from an address on. -/
def inRange (pa n a : Nat) : Bool := decide (pa ≤ a) && decide (a < pa + n)

/-- The writes of a location an agent that has read `m` may still read (R333): none in its floor comes after
them, it has not left them, and an atomic's is not before the last atomic (R334). -/
def candidates (s : State) (m : AgMem) (atomic : Bool) (loc : Nat) : List Wr :=
  let h := tget [] s.mem.hist loc
  let fl := m.floor.filterMap fun w => if w.1 = loc then some w.2 else none
  let before : List Nat := h.foldl (fun acc w => if fl.contains w.id then w.pre ++ acc else acc) []
  let la : List Nat :=
    if atomic then h.foldl (fun acc w => if w.atomic then w.pre else acc) [] else []
  h.filter fun w =>
    !(before.contains w.id) && !(la.contains w.id) && !(m.left.contains (loc, w.id))

/-- A list from place `k` on, and round. -/
def rotate {α : Type} (l : List α) (k : Nat) : List α := l.drop k ++ l.take k

/-- Two bytes of one atomic unit may be read from `a` and `b`: no part of a write is seen beside part of another
write to the same bytes (R331). `ha` and `hb` are the writes of the two bytes. -/
def unmixed (ha hb : List Wr) (a b : Wr) : Bool :=
  a.id == b.id || match hb.find? (·.id == a.id), ha.find? (·.id == b.id) with
    | some _, some _ => false
    | some x, none => !x.pre.contains b.id
    | none, some y => !y.pre.contains a.id
    | none, none => true

/-- Choose what each byte of an atomic unit reads, of the writes it may read: any choice that mixes none (R331,
R333). A byte that nobody has written has none. -/
def pickUnit (s : State) (salt : Nat) :
    List (List Wr × List Wr) → List (List Wr × Option Wr) → Option (List (Option Wr))
  | [], acc => some (acc.map (·.2))
  | (h, cs) :: t, acc =>
    if cs.isEmpty then pickUnit s salt t (acc ++ [(h, none)])
    else
      (rotate cs (choose s (salt + acc.length) cs.length)).findSome? fun w =>
        if acc.all fun (g, x) => x.all fun y => unmixed g h y w then pickUnit s salt t (acc ++ [(h, some w)]) else none

/-- Note that an agent has read a write of a location (R333, R339). -/
def noteRead (m : AgMem) (loc : Nat) (w : Wr) : AgMem :=
  let left := match m.last.find? fun x => x.1 == loc with
    | some (_, i) => if i = w.id then m.left else m.left ++ [(loc, i)]
    | none => m.left
  { m with
    floor := if m.floor.contains (loc, w.id) then m.floor else m.floor ++ [(loc, w.id)]
    last := (m.last.filter fun x => x.1 != loc) ++ [(loc, w.id)]
    left := left
    readRels := m.readRels ++ w.rels.filter fun r => !m.readRels.contains r }

/-- The unit in which an access is single-copy atomic: a line of a bank, whose accesses are performed whole (R101);
elsewhere the access's own (R331). -/
def atomUnit (pa unit : Nat) : Nat :=
  match place pa with
  | .spm _ _ => 64
  | .sram _ _ => 64
  | _ => max 1 unit

/-- `n` bytes from an address on, cut where a multiple of `u` lies. -/
def cutUnits (u : Nat) : Nat → Nat → Nat → List (Nat × Nat)
  | 0, _, _ => []
  | fuel + 1, pa, n =>
    if n = 0 then []
    else
      let k := min n (u - pa % u)
      (pa, k) :: cutUnits u fuel (pa + k) (n - k)

/-- What the bytes of one atomic unit read; bytes that no agent has written read what memory holds. Where no choice meets
every condition of R333 without a mixture, the writes performed last are read: they are none (R331).
DEDUCED: notes/assumptions/21.md. -/
def readUnit (s : State) (m : AgMem) (atomic : Bool) (salt pa n : Nat) : List (Option Wr) :=
  let hs := tabulate n fun j => tget [] s.mem.hist (pa + j)
  let cs := tabulate n fun j => candidates s m atomic (pa + j)
  if cs.all (·.isEmpty) then cs.map fun _ => none
  else (pickUnit s salt (hs.zip cs) []).getD (hs.map (·.getLast?))

/-- A read of bytes in atomic units: the bytes, and what the agent has read. -/
def readUnits (s : State) (atomic : Bool) (us : List (Nat × Nat)) (m : AgMem) : List Byte × AgMem :=
  us.foldl (fun acc p =>
    let picks := readUnit s m atomic (0x8000 + p.1 % 0x1000) p.1 p.2
    (acc.1 ++ tabulate p.2 fun j => ((picks.getD j none).map (·.val)).getD (s.byte (p.1 + j)),
     (List.range p.2).foldl (fun m j => match picks.getD j none with
       | some w => noteRead m (p.1 + j) w
       | none => m) acc.2)) ([], m)

/-- A read of `n` bytes by an agent (R331, R333). DEDUCED: notes/assumptions/20.md.
DEDUCED: notes/assumptions/21.md. -/
def memRead (s : State) (a : AgentId) (pa n unit : Nat) (atomic : Bool := false) :
    List Byte × State :=
  let m := s.ag a
  let (bs, m') := readUnits s atomic (cutUnits (atomUnit pa unit) n pa n) (m.part (inRange pa n))
  (bs, s.setAg a ((m.part fun x => !inRange pa n x).join m'))

/-- Add one write to a location's writes (R332). -/
def addWrite (h : List Wr) (init : Byte) (fl : List Nat) (id : Nat) (v : Byte) (rels : List Rel)
    (atomic : Bool) : List Wr :=
  let h0 := if h.isEmpty then [{ id := 0, val := init }] else h
  let base := h0.filter fun w => w.id == 0 || fl.contains w.id || (atomic && w.atomic)
  let pre := base.foldl (fun acc w => acc ++ (w.id :: w.pre).filter fun x => !acc.contains x) []
  let carried := if atomic then h0.foldl (fun acc w => if w.atomic then w.rels else acc) [] else []
  h0 ++ [{ id := id, val := v, pre := pre, rels := carried ++ rels, atomic := atomic }]

/-- Whether a location takes part in the consistency model (R330). -/
def inModel (pa : Nat) : Bool := (place pa).isMem

/-- `n` locations from one on get their writes from `f`; `t` begins at the first of them or after it. -/
def fillHist (f : Nat → List Wr → List Wr) : Nat → Nat → Tbl (List Wr) → Tbl (List Wr)
  | 0, _, t => t
  | n + 1, a, [] => (a, f a []) :: fillHist f n (a + 1) []
  | n + 1, a, (x, h) :: t =>
    if x = a then (a, f a h) :: fillHist f n (a + 1) t else (a, f a []) :: fillHist f n (a + 1) ((x, h) :: t)
def spliceHist (f : Nat → List Wr → List Wr) (n a : Nat) : Tbl (List Wr) → Tbl (List Wr)
  | [] => fillHist f n a []
  | (x, h) :: t => if x < a then (x, h) :: spliceHist f n a t else fillHist f n a ((x, h) :: t)

/-- A write's bytes join the writes of their locations (R332). -/
def writeHist (s : State) (floor : List WId) (id : Nat → Nat) (rels : List Rel) (atomic : Bool) (pa : Nat) (bs : List Byte)
    (t : Tbl (List Wr)) : Tbl (List Wr) :=
  spliceHist (fun a h =>
    let fl := floor.filterMap fun w => if w.1 = a then some w.2 else none
    addWrite h (s.byte a) fl (id (a - pa)) (bs.getD (a - pa) 0) rels atomic) bs.length pa t

/-- The task an agent belongs to (R335). -/
def agentTask (s : State) : AgentId → Option Nat
  | .task n => some n
  | a => (s.ag a).task

/-- The tile an agent acts for: of an engine command the one it was issued on (R335, R342). -/
def agentTile (s : State) (a : AgentId) : Option Nat :=
  (s.ag a).tile.or ((agentTask s a).map fun n => (tget ({} : Task) s.tasks n).tile)

/-- A release that an agent makes now (R337, R347). -/
def relOf (s : State) (a : AgentId) (sc : ScopeSet) (cov : List WId) : Rel :=
  { ag := a, scope := sc, cov := cov, tile := agentTile s a }

/-- The releases a write of an agent carries from its fences: covered is all that it has written, read and
acquired before the write (R337, R339); and those with a covered set of their own (R342). -/
def fenceRels (s : State) (a : AgentId) : List Rel :=
  let m := s.ag a
  m.fenceRels ++ m.relScopes.map fun sc => relOf s a sc m.floor

/-- Bytes take their place in memory. -/
def placeBytes (s : State) (pa : Nat) (bs : List Byte) : State :=
  { s with mem := { s.mem with
      cells := putBytes s.mem.cells pa bs
      poison := clearPoison s.mem.poison pa bs.length } }

/-- Locations start anew: what agents have read of them is over. -/
def forget (m : Mem) (p : Nat → Bool) : Mem :=
  { m with
    hist := m.hist.filter fun c => !p c.1
    ags := m.ags.map fun (a, x) => (a, { x.part (fun l => !p l) with written := x.written.filter fun w => !p w.1 }) }

/-- Bytes placed in memory with no agent's order: what the hardware and the loader do. -/
def rawWrite (s : State) (pa : Nat) (bs : List Byte) : State :=
  placeBytes { s with mem := forget s.mem (inRange pa bs.length) } pa bs

/-- A write by an agent, one atomic unit of `unit` bytes after another, or one whole (R101, R331, R332, R337, R339).
DEDUCED: notes/assumptions/20.md. -/
def memWrite (s : State) (a : AgentId) (pa : Nat) (bs : List Byte) (rels : List Rel := [])
    (atomic : Bool := false) (unit : Nat := 0) : State :=
  if inModel pa then
    let u := atomUnit pa (if unit = 0 then pa + bs.length + 1 else unit)
    let id (i : Nat) : Nat := s.mem.nextId + ((pa + i) / u - pa / u)
    let ws := (List.range bs.length).map fun i => (pa + i, id i)
    let m := s.ag a
    let mine := inRange pa bs.length
    let h := writeHist s (m.floor.filter fun w => mine w.1) id (fenceRels s a ++ rels) atomic pa bs s.mem.hist
    let s1 := s.setAg a { m with floor := ws ++ m.floor, written := ws ++ m.written }
    placeBytes { s1 with mem := { s1.mem with hist := h, nextId := id bs.length + 1 } } pa bs
  else rawWrite s pa bs

/-- The units that hold some bytes are poisoned (R63). -/
def poisonBytes (s : State) (l : List Nat) : State :=
  if l.isEmpty then s
  else { s with mem := { s.mem with poison := s.mem.poison ++
    ((l.map fun pa => (poisonUnit pa).1).eraseDups.filter fun u => !s.mem.poison.contains u) } }

/-- A new agent, which has read and written nothing (R329). -/
def State.newAgent (s : State) (a : AgentId) (task : Option Nat) (floor : List WId := []) : State :=
  s.setAg a { task := task, floor := floor }

/-! ### Scopes, releases and acquires (R335-R339) -/

/-- Whether a scope holds an agent that acts for a tile (R335). -/
def holdsAt (s : State) (tile : Option Nat) : ScopeSet → AgentId → Bool
  | .agent a, b => a == b
  | .slotStreams u r sl, b => match (s.ag b).str with
    | some (u', e, sl') =>
      u == u' && sl == sl' && ((tget ({} : Collar) s.collars u).regions.any fun (q, g) => q == r && bit g.emask e)
    | none => false
  | .task n, b => agentTask s b == some n
  | .tiles m, _ => match tile with
    | some t => bit m t
    | none => false
  | .dev, .qp _ => false
  | .dev, .peer _ _ => false
  | .dev, _ => true
  | .sys, _ => true
def holds (s : State) (sc : ScopeSet) (a : AgentId) : Bool := holdsAt s (agentTile s a) sc a

/-- The tiles of a district level, widened as R336 gives; 0 stands for dev. -/
def districtMask (own a b c : Nat) (level : Nat) : Nat :=
  let ma := if a = 0 then 0 else a ||| own
  let mb := if b = 0 ∨ ma = 0 then 0 else b ||| ma
  let mc := if c = 0 ∨ mb = 0 then 0 else c ||| mb
  if level = 3 then ma else if level = 4 then mb else mc

/-- The agents a scope code names for a task (R279, R335, R336). -/
def scopeOf (s : State) (n code : Nat) : ScopeSet :=
  let k := tget {} s.tasks n
  let own := 2 ^ k.tile
  match code with
  | 0 => .agent (.task n)
  | 1 => .task n
  | 2 => .tiles own
  | 6 => .dev
  | 7 => .sys
  | c =>
    let m := districtMask own k.scopeA.toNat k.scopeB.toNat k.scopeC.toNat c
    if m = 0 then .dev else .tiles m

/-- The scope of a membership set as a member sees it: the narrowest level under its masks that holds the member
tiles (R336). -/
def memberScope (s : State) (n tiles : Nat) : ScopeSet :=
  let fits (c : Nat) : Bool := match scopeOf s n c with
    | .tiles m => m &&& tiles == tiles
    | _ => true
  scopeOf s n (([2, 3, 4, 5].find? fits).getD 6)

/-- The covered set of a release made now by an agent (R339). -/
def coveredNow (s : State) (a : AgentId) : List WId := (s.ag a).floor

/-- An acquire by an agent at a scope of the releases it has met (R339). -/
def acquire (s : State) (a : AgentId) (sc : ScopeSet) (rels : List Rel) : State :=
  rels.foldl (fun s r =>
    if holdsAt s r.tile sc r.ag && holds s r.scope a then s.addFloor a r.cov else s) s

end Sys2Proof.Machine
end

