-- ==== Sys2Proof/Machine/Xlate.lean ====
section
/-!
DEFINITION. Translation: caches, miss files, walkers, invalidation (R66-R80).
-/
namespace Sys2Proof.Machine

/-- The die of a translating unit (R75). -/
def unitDie (u : Nat) : Nat :=
  if u < 64 then u / 16 else if u < 68 then u - 64 else if u < 76 then (u - 68) / 2 else 0
/-- The translating units of a die (R75). -/
def dieUnits (d : Nat) : List Nat :=
  tabulate 16 (fun i => 16 * d + i) ++ [64 + d, 68 + 2 * d, 69 + 2 * d] ++ (if d = 0 then [76] else [])
def tlbSize (u : Nat) : Nat := if u < 64 then 1024 else 64
def missSize (u : Nat) : Nat := if u < 64 then 32 else 8

def State.xu (s : State) (u : Nat) : XUnit := tget {} s.xus u
def State.setXu (s : State) (u : Nat) (x : XUnit) : State := { s with xus := tput s.xus u x }

/-! Permissions, in PTE bits [5:1] (R69). -/
def pRD : Nat := 1
def pWR : Nat := 2
def pXB : Nat := 4
def pXW : Nat := 8
def pNP : Nat := 16

/-- What a translation gives. -/
inductive XRes where
  | ok (pa : Nat)
  | wait
  | fail (cause : Nat)
deriving DecidableEq, Repr

def TlbE.hits (e : TlbE) (asid va : Nat) : Bool :=
  (e.g || e.asid == asid) && decide (e.va ≤ va) && decide (va < e.va + e.size)

/-- A requester is named by a number: its kind times 2^40 plus its own number. -/
def reqId (kind n : Nat) : Nat := kind * 2 ^ 40 + n

/-- What a cached leaf gives an access; `reg` says the access is of a kind that may touch a device register
page (R71, R72). -/
def leafRes (s : State) (e : TlbE) (va need : Nat) (reg : Bool) : XRes :=
  let pa := e.pa + (va - e.va)
  if (e.perm &&& need) ≠ need then .fail 0x11
  else match place pa with
    | .reg _ _ => if reg then .ok pa else .fail 0x11
    | .spm t _ => if (tget {} s.tiles t).retired then .fail 0x1F else .ok pa
    | _ => .ok pa

/-- A requester leaves a miss-file entry; a failed entry that nobody awaits leaves the file (R74, R76). -/
def MissE.drop (e : MissE) (p : Nat → Bool) : Option MissE :=
  let e' := { e with reqs := e.reqs.filter fun r => !p r }
  if e'.reqs.isEmpty && e.failed.isSome then none else some e'

/-- Requesters that are gone await nothing: no later access takes a failure that was theirs (R73, R76). -/
def dropReqs (s : State) (u : Nat) (p : Nat → Bool) : State :=
  let x := s.xu u
  if x.miss.isEmpty then s else s.setXu u { x with miss := x.miss.filterMap fun e => e.drop p }

/-- Translate one access. A requester attached to a failed walk takes that failure, whatever has been cached
since (R76). A miss enters or joins the miss file, or waits for room in it (R74); MISSES counts it when it
enters or joins. DEDUCED: notes/assumptions/84.md. -/
def xlate (s : State) (u asid root : Nat) (en : Bool) (req va need : Nat) (reg : Bool) :
    XRes × State :=
  if va ≥ 2 ^ 52 ∨ en = false then (.fail 0x10, s)
  else
    let x := s.xu u
    let vpn := va / 2 ^ 18
    let key (e : MissE) : Bool := e.asid == asid && e.vpn == vpn
    match x.miss.find? fun e => key e && e.failed.isSome && e.reqs.contains req with
    | some e =>
      let miss := x.miss.filterMap fun f => if f == e then e.drop (· == req) else some f
      (.fail (e.failed.getD 0x10), s.setXu u { x with miss := miss })
    | none =>
      match x.tlb.find? fun e => e.hits asid va with
      | some e => (leafRes s e va need reg, s)
      | none =>
        if x.miss.any fun e => key e && e.failed.isNone && e.reqs.contains req then (.wait, s)
        else if x.miss.any fun e => key e && e.failed.isNone then
          let miss := x.miss.map fun e =>
            if key e && e.failed.isNone then { e with reqs := e.reqs ++ [req] } else e
          (.wait, s.setXu u { x with miss := miss, misses := (x.misses + 1) % 2 ^ 32 })
        else if x.miss.length ≥ missSize u then (.wait, s)
        else
          let e : MissE := { asid := asid, vpn := vpn, root := root, reqs := [req] }
          (.wait, s.setXu u { x with miss := x.miss ++ [e], misses := (x.misses + 1) % 2 ^ 32 })

/-- A requester takes the failure of a walk it was attached to: its page and cause (R73, R76). -/
def takeFailure (s : State) (u req : Nat) : Option (Nat × Nat × State) :=
  let x := s.xu u
  (x.miss.find? fun e => e.failed.isSome && e.reqs.contains req).map fun e =>
    (e.vpn, e.failed.getD 0x10,
     s.setXu u { x with miss := x.miss.filterMap fun f => if f == e then e.drop (· == req) else some f })

/-- Whether an access to a page must not be overlapped or repeated (R72). -/
def isNP (s : State) (u asid va : Nat) : Bool :=
  match (s.xu u).tlb.find? fun e => e.hits asid va with
  | some e => (e.perm &&& pNP) != 0
  | none => false

/-! ### Walks (R68-R70, R75, R76) -/

/-- The lowest address bit a level's index covers (R68). -/
def levelShift (l : Nat) : Nat := if l = 0 then 42 else if l = 1 then 32 else if l = 2 then 25 else 18
def levelMask (l : Nat) : Nat := if l < 2 then 1023 else 127
/-- Size of the table of a level (R68). -/
def tableSize (l : Nat) : Nat := if l < 2 then 8192 else 1024
def leafSize (ps : Nat) : Nat := if ps = 1 then 2 ^ 18 else if ps = 2 then 2 ^ 25 else 2 ^ 32

/-- Whether a leaf's page lies in one range of R64 and grants only what the range allows (R70). The scratchpad row of R64,
all 64 slices, is one range. DEDUCED: notes/assumptions/103.md. -/
def leafRangeOk (pa size perm : Nat) : Bool :=
  if pa + size ≤ hbmEnd then true
  else if spmBase ≤ pa ∧ pa + size ≤ spmBase + 64 * 0x1000000 then true
  else if size ≠ 2 ^ 18 then false
  else match place pa with
    | .context _ _ => (perm &&& (pXB + pXW)) == 0
    | .planes _ _ => (perm &&& (pXB + pXW)) == 0
    | .reg _ _ => (perm &&& (pXB + pXW)) == 0 && (perm &&& pNP) != 0
    | _ => false

inductive WalkRes where
  | leaf (e : TlbE)
  | fail (cause : Nat)
deriving DecidableEq, Repr

/-- One walk from the table of a level down; it also gives the pointers that validated. An entry address outside
HBM, which only a root the CP wrote can give, reads what memory holds there.
DESIGN CHOICE: notes/assumptions/83.md. -/
def walkFrom (s : State) (asid root vpn : Nat) :
    Nat → Nat → Nat → List PtrE → WalkRes × List PtrE
  | 0, _, _, ps => (.fail 0x12, ps)
  | fuel + 1, l, table, ps =>
    let va := vpn * 2 ^ 18
    let ea := table + ((va >>> levelShift l) &&& levelMask l) * 8
    if anyPoison s ea 8 then (.fail 0x14, ps)
    else
      let pte := natOfBytes (s.bytes ea 8)
      if pte % 2 = 0 then (.fail 0x10, ps)
      else
        let addr := bits pte 47 10 * 2 ^ 10
        let sz := bits pte 7 6
        let perm := bits pte 5 1
        if bits pte 63 48 ≠ 0 ∨ bit pte 9 then (.fail 0x12, ps)
        else if sz = 0 then
          if l = 3 ∨ bits pte 8 1 ≠ 0 ∨ addr % tableSize (l + 1) ≠ 0 ∨ addr + tableSize (l + 1) > hbmEnd
          then (.fail 0x12, ps)
          else walkFrom s asid root vpn fuel (l + 1) addr
            (ps ++ [{ asid := asid, root := root, level := l, idx := va >>> levelShift l,
                      table := addr }])
        else if l = 0 ∨ sz ≠ 4 - l ∨ addr % leafSize sz ≠ 0 ∨ leafRangeOk addr (leafSize sz) perm = false
        then (.fail 0x12, ps)
        else (.leaf { asid := asid, va := va / leafSize sz * leafSize sz, size := leafSize sz,
                      pa := addr, perm := perm, g := bit pte 8 }, ps)

/-- A walk, entered at the deepest pointer the walker has cached. -/
def walk (s : State) (w : Walker) (asid root vpn : Nat) : WalkRes × List PtrE :=
  let va := vpn * 2 ^ 18
  let hit (l : Nat) : Option PtrE := w.ptrs.find? fun p =>
    p.asid == asid && p.root == root && p.level == l && p.idx == va >>> levelShift l
  match hit 2 with
  | some p => walkFrom s asid root vpn 1 3 p.table []
  | none => match hit 1 with
    | some p => walkFrom s asid root vpn 2 2 p.table []
    | none => match hit 0 with
      | some p => walkFrom s asid root vpn 3 1 p.table []
      | none => walkFrom s asid root vpn 4 0 root []

/-- A translation-cache entry that covers a pinned line of the unit's tile is not replaced (R73).
DESIGN CHOICE: notes/assumptions/71.md. -/
def tlbPinned (s : State) (u : Nat) (e : TlbE) : Bool :=
  u < 64 && ((tget {} s.tiles u).icache.any fun l => l.pins != 0 && e.hits l.asid l.va)

/-- Cache a leaf; in a full cache the entry replaced is any that is not pinned (R73).
DESIGN CHOICE: notes/assumptions/71.md. -/
def tlbInsert (s : State) (u : Nat) (e : TlbE) : State :=
  let x := s.xu u
  if x.tlb.contains e then s
  else if x.tlb.length < tlbSize u then s.setXu u { x with tlb := x.tlb ++ [e] }
  else
    let cand := x.tlb.filter fun f => !tlbPinned s u f
    match cand[choose s (512 + u) cand.length]? with
    | some v => s.setXu u { x with tlb := (x.tlb.filter (· != v)) ++ [e] }
    | none => s

/-- The first unsent entry of a unit's miss file goes to the walker: merged with a walk it matches,
in flight where there is room, else queued, else it stays (R75). -/
def walkRequestDo (s : State) (u : Nat) : State :=
  let d := unitDie u
  let w := tget {} s.walkers d
  let x := s.xu u
  match x.miss.find? fun e => !e.sent && e.failed.isNone with
  | none => s
  | some e =>
    let mark (s : State) : State := s.setXu u { x with miss := x.miss.map fun f =>
      if f == e then { f with sent := true } else f }
    let same (k : Walk) : Bool := k.asid == e.asid && k.vpn == e.vpn
    let join (l : List Walk) : List Walk := l.map fun k =>
      if same k && !k.units.contains u then { k with units := k.units ++ [u] } else k
    let new : Walk := { asid := e.asid, vpn := e.vpn, root := e.root, units := [u] }
    let setW (w : Walker) : State := mark { s with walkers := tput s.walkers d { w with rot := u } }
    if w.flight.any same then setW { w with flight := join w.flight }
    else if w.queue.any same then setW { w with queue := join w.queue }
    else if w.flight.length < 128 then setW { w with flight := w.flight ++ [new] }
    else if w.queue.length < 384 then setW { w with queue := w.queue ++ [new] }
    else s

/-- Entries of a unit's miss file that a leaf completes (R74). -/
def missDone (s : State) (u : Nat) (asid vpn : Nat) (e : TlbE) : State :=
  let x := s.xu u
  let covers (m : MissE) : Bool :=
    m.failed.isNone && m.asid == asid && (m.vpn == vpn || (e.size != 2 ^ 18 && e.hits asid (m.vpn * 2 ^ 18)))
  if x.miss.any covers then
    tlbInsert (s.setXu u { x with miss := x.miss.filter fun m => !covers m }) u e
  else s

/-- A walk ends: the leaf goes to every unit that waits for it, or every requester attached gets
the failure (R74-R76). A full pointer cache drops its oldest entry. DESIGN CHOICE: notes/assumptions/104.md. -/
def pageWalkDo (s : State) (d asid vpn : Nat) : State :=
  let w := tget {} s.walkers d
  match w.flight.find? fun k => k.asid == asid && k.vpn == vpn with
  | none => s
  | some k =>
    let (res, ptrs) := walk s w asid k.root vpn
    let rest := w.flight.filter (· != k)
    let cache := (w.ptrs ++ ptrs.filter fun p => !w.ptrs.contains p)
    let cache := cache.drop (cache.length - 64)
    match res with
    | .leaf e =>
      let units := dieUnits d
      let q := w.queue.filter fun m =>
        !(m.asid == asid && e.size != 2 ^ 18 && e.hits asid (m.vpn * 2 ^ 18))
      let w' : Walker := { w with flight := rest ++ q.take 1, queue := q.drop 1, ptrs := cache }
      let s1 := { s with walkers := tput s.walkers d w' }
      units.foldl (fun s u => missDone s u asid vpn e) s1
    | .fail c =>
      let hit (m : MissE) : Bool := m.failed.isNone && m.asid == asid && m.vpn == vpn
      let n := natSum (k.units.map fun u => natSum (((s.xu u).miss.filter hit).map fun m => m.reqs.length))
      let w' : Walker := { w with
        flight := rest ++ w.queue.take 1, queue := w.queue.drop 1, ptrs := cache
        fail := some (asid, vpn, c, n) }
      let s1 := { s with walkers := tput s.walkers d w' }
      k.units.foldl (fun s u =>
        let x := s.xu u
        s.setXu u { x with
          wfail := true
          miss := x.miss.filterMap fun m => if hit m then { m with failed := some c }.drop (fun _ => false) else some m }) s1

/-! ### Invalidation (R77, R78) -/

def invHits (i : Inv) (e : TlbE) : Bool :=
  match i.kind with
  | 0 => e.hits i.asid (i.vpn * 2 ^ 18)
  | 1 => !e.g && e.asid == i.asid
  | 2 => !e.g
  | _ => true

def invPtr (i : Inv) (p : PtrE) : Bool :=
  match i.kind with
  | 0 => p.idx == (i.vpn * 2 ^ 18) >>> levelShift p.level
  | 1 => p.asid == i.asid
  | _ => true

/-- A failure read for an address that an invalidation may cover, before it was complete: the page that holds VPN may be
of any size (R78). -/
def invMiss (i : Inv) (e : MissE) : Bool :=
  e.failed.isSome && match i.kind with
    | 0 => e.asid == i.asid && e.vpn / 2 ^ 14 == i.vpn / 2 ^ 14
    | 1 => e.asid == i.asid
    | _ => true

/-- The units an invalidation written at a tile reaches (R77). -/
def invUnits (t : Nat) (i : Inv) : List Nat := if i.bc then List.range 77 else [t]
def invDies (t : Nat) (i : Inv) : List Nat := if i.bc then List.range 4 else [unitDie t]

def xlinvDo (s : State) (t : Nat) (i : Inv) : State :=
  let x := s.xu t
  s.setXu t { x with inv := x.inv ++ [i] }

/-- The oldest invalidation written at a tile is complete (R78). A walk reads the tables when it
completes, so one in flight or queued uses nothing read before; a requester whose covered walk has failed
walks again. -/
def invalidationDo (s : State) (t : Nat) : State :=
  match (s.xu t).inv with
  | [] => s
  | i :: rest =>
    let x := s.xu t
    let s1 := s.setXu t { x with inv := rest }
    let s2 := (invUnits t i).foldl (fun s u =>
      if thas s.xus u then
        let x := s.xu u
        s.setXu u { x with tlb := x.tlb.filter (fun e => !invHits i e), miss := x.miss.filter fun e => !invMiss i e }
      else s) s1
    (invDies t i).foldl (fun s d =>
      if thas s.walkers d then
        let w := tget {} s.walkers d
        { s with walkers := tput s.walkers d { w with ptrs := w.ptrs.filter fun p => !invPtr i p } }
      else s) s2

end Sys2Proof.Machine
end

