-- ==== Sys2Proof/Machine/Ops.lean ====
section
/-!
DEFINITION. The named operations over registers, results in flight, faults and reports
(R216-R233, R373-R385, R426), and taking a control-class fault and returning from it.
-/
namespace Sys2Proof.Machine

/-- The outcome of a step of the machine. -/
abbrev Out := Host.Outcome State Fault Refusal

def State.tile (s : State) (t : Nat) : Tile := tget {} s.tiles t
def State.setTile (s : State) (t : Nat) (x : Tile) : State := { s with tiles := tput s.tiles t x }
def State.collar (s : State) (u : Nat) : Collar := tget {} s.collars u
def State.setCollar (s : State) (u : Nat) (c : Collar) : State :=
  { s with collars := tput s.collars u c }
def State.task (s : State) (n : Nat) : Task := tget {} s.tasks n
def State.setTask (s : State) (n : Nat) (k : Task) : State := { s with tasks := tput s.tasks n k }
def State.arr (s : State) (t : Nat) : Array := (s.tile t).arr
def State.setArr (s : State) (t : Nat) (a : Array) : State :=
  s.setTile t { s.tile t with arr := a }
def State.setIss (s : State) (i : Iss) : State := { s with cur := { s.cur with iss := i } }

/-- The acting tile. -/
def State.me (s : State) : Tile := s.tile s.cur.unit
/-- The acting sequencer context: the task's, or the shadow scalar context (R383). -/
def State.ctx (s : State) : Ctx := if s.cur.shadow then s.me.shadow.ctx else s.me.ctx
def State.setCtx (s : State) (c : Ctx) : State :=
  let t := s.me
  s.setTile s.cur.unit
    (if s.cur.shadow then { t with shadow := { t.shadow with ctx := c } } else { t with ctx := c })

/-- The cycle count by which the acting context's latencies are counted: tile cycles for a task,
cycles for the shadow context, which issues in held cycles (R31). -/
def State.now (s : State) : Nat := if s.cur.shadow then s.cycle else s.me.tc

/-- The bundle at issue waits; nothing changes (R273). -/
def waitIssue (s : State) : Out := .next (s.setIss .wait)

/-! ### Program counters (R217) -/

/-- A PC value that R217 allows. -/
def pcOk (pc : W64) : Bool :=
  let v := pc.toNat
  v < 2 ^ 52 && bits v 4 2 == 0 && decide (v % 4 < 3)
/-- The bundle number of a PC: 3 × group + k. -/
def pcNum (pc : W64) : Nat := 3 * (pc.toNat / 32) + pc.toNat % 4
/-- The PC of a bundle number. -/
def numPc (n : Nat) : W64 := BitVec.ofNat 64 (n / 3 * 32 + n % 3)
/-- The successor of a bundle (R217). -/
def pcNext (pc : W64) : W64 := numPc (pcNum pc + 1)
/-- The target of a relative offset, none where R217 forbids it (R244). -/
def pcTarget (pc : W64) (off : BitVec 17) : Option W64 :=
  let n : Int := (pcNum pc : Int) + off.toInt
  if n < 0 ∨ n ≥ 3 * 2 ^ 47 then none else some (numPc n.toNat)

/-! ### Registers (R216, R221) -/

/-- The register an operation will write when it completes. -/
def OpKind.dest : OpKind → Option Dest
  | .ld _ d _ => some (.s d)
  | .ldv d _ _ _ => some (.v d)
  | .amo _ _ _ _ _ d _ _ => some (.s d)
  | .cas _ _ _ d _ _ _ => some (.s d)
  | .ldacc d _ _ _ => some (.v d)
  | .tkw d _ _ => some (.s d)
  | _ => none

/-- A write issued by an earlier bundle has not taken effect (R221). DEDUCED: notes/assumptions/34.md. -/
def pendingTo (c : Ctx) (d : Dest) : Bool :=
  (c.pend.any fun p => p.dest == d && p.bno != c.bno)
  || (c.ops.any fun o => o.kind.dest == some d && o.bno != c.bno)

def Ctx.getS (c : Ctx) (r : Nat) : W64 := if r = 0 then 0 else tget 0 c.s r
def Ctx.getV (c : Ctx) (r : Nat) : VReg := tget 0 c.v r
def Ctx.getM (c : Ctx) (r : Nat) : W32 := if r = 0 then BitVec.allOnes 32 else tget 0 c.m r

/-- Read a scalar register at issue: undefined while a write to it is on its way (R221, R225).
`pos` keeps the free values of one bundle's operands apart. DEDUCED: notes/assumptions/34.md. -/
def State.rdS (s : State) (pos : Nat) (r : Reg) : W64 :=
  if r = 0 then 0
  else if pendingTo s.ctx (.s r.toNat) then BitVec.ofNat 64 (undef s pos) else s.ctx.getS r.toNat
/-- Read a vector register at issue (R221). -/
def State.rdV (s : State) (pos : Nat) (r : Reg) : VReg :=
  if pendingTo s.ctx (.v r.toNat) then BitVec.ofNat 1024 (undef s pos) else s.ctx.getV r.toNat
/-- Read a mask at issue (R221). -/
def State.rdM (s : State) (pos : Nat) (r : MReg) : W32 :=
  if r = 0 then BitVec.allOnes 32
  else if pendingTo s.ctx (.m r.toNat) then BitVec.ofNat 32 (undef s pos) else s.ctx.getM r.toNat

/-- A register takes its value; s0 and m0 discard it (R216). -/
def Ctx.put (c : Ctx) (d : Dest) (v : Nat) : Ctx :=
  match d with
  | .s r => if r = 0 then c else { c with s := tput c.s r (BitVec.ofNat 64 v) }
  | .v r => { c with v := tput c.v r (BitVec.ofNat 1024 v) }
  | .m r => if r = 0 then c else { c with m := tput c.m r (BitVec.ofNat 32 v) }

/-- A number for each register, to remember the last write that landed in it. -/
def destKey : Dest → Nat
  | .s r => r
  | .v r => 64 + r
  | .m r => 128 + r

/-- A write takes effect, unless one issued later already has (R221). -/
def Ctx.landAt (c : Ctx) (d : Dest) (v ord : Nat) : Ctx :=
  if tget 0 c.lastW (destKey d) > ord then c
  else { c.put d v with lastW := tput c.lastW (destKey d) ord }

/-- The acting context issues a fixed-latency result (R222). -/
def State.issueFixed (s : State) (d : Dest) (v L : Nat) (fl : Fl := {})
    (trap : Option (Nat × Nat) := none) (flRest : Fl := {}) (lw lo : Nat := 0) : State :=
  let t := s.me
  let c := s.ctx
  let p : Pend := { dest := d, val := v, bound := s.now + L, bno := c.bno, ord := t.ord,
                    pc := s.cur.bpc, fl := fl, trap := trap, flRest := flRest
                    lw := if lw = 0 then 32 else lw, lo := lo }
  let s1 := s.setTile s.cur.unit { t with ord := t.ord + 1 }
  s1.setCtx { c with pend := c.pend ++ [p] }

/-- The acting context goes on at its bundle's successor (R217). -/
def State.advance (s : State) : State :=
  s.setCtx { s.ctx with pc := pcNext s.cur.bpc }

/-- A slot A instruction that writes one register at its bound and goes on. -/
def writeFixed (s : State) (d : Dest) (v L : Nat) : Out := .next (s.issueFixed d v L).advance

/-! ### Reports to the control processor (R426) -/

/-- A message joins the inbound mailbox, or waits at its source while 64 messages stand. -/
def State.report (s : State) (m : Msg) : State :=
  if s.mod.inbox.length < 64 ∧ s.mod.waiting = [] then
    { s with mod := { s.mod with inbox := s.mod.inbox ++ [m] } }
  else { s with mod := { s.mod with waiting := s.mod.waiting ++ [m] } }

/-- A report of KIND 3: cause in byte 0, the reporting tile or strip in byte 1, the unit in bytes
2-3, and the fields the rule names from byte 8 on (R426). -/
def State.reportF (s : State) (cause tile unit : Nat) (fields : List Byte) : State :=
  let b := bytesOfNat 1 cause ++ bytesOfNat 1 tile ++ bytesOfNat 2 unit ++ bytesOfNat 4 0 ++ fields
  s.report { kind := 3, src := tile, unit := unit, cause := cause,
             bytes := (b ++ List.replicate 64 0).take 64 }

/-- The health state only rises while the module is powered (R429). -/
def raiseHealth (s : State) (n : Nat) : State :=
  if n > s.mod.health then { s with mod := { s.mod with health := n } } else s

def boolNat (b : Bool) : Nat := if b then 1 else 0

/-- Keys by which firmware counts: of a unit of a tile or strip, a stack (1024 on) or a link (2048 on); corrected errors, then uncorrectable (R428). -/
def countKey (unit : Nat) (hard : Bool) : Nat := 2 * unit + boolNat hard

/-- Firmware counts a soft error of a unit against its thresholds, and marks a tile with 4 uncorrectable ones for
retirement (R428, R429). DEDUCED: notes/assumptions/50.md. -/
def countError (s : State) (unit : Nat) (hard : Bool) : State :=
  let k := countKey unit hard
  let n := tget 0 s.mod.counts k + 1
  let s1 := { s with mod := { s.mod with counts := tput s.mod.counts k n } }
  let s2 := if n ≥ (if hard then s.mod.ueMax else s.mod.ceMax) then raiseHealth s1 1 else s1
  if hard && decide (unit < 64) && decide (n ≥ 4) && !(s.tile unit).retired && !s.mod.retiring.contains unit then
    { s2 with mod := { s2.mod with retiring := s2.mod.retiring ++ [unit] } }
  else s2

/-- The 64 bytes of a record (R374). -/
def FRec.bytes (r : FRec) : List Byte :=
  bytesOfNat 1 r.cause ++ bytesOfNat 1 r.tile ++ bytesOfNat 2 r.unit ++ bytesOfNat 1 r.ctx
  ++ bytesOfNat 1 r.fseq ++ bytesOfNat 2 r.lanes ++ bytesOfNat 8 r.addr ++ bytesOfNat 8 r.pos
  ++ bytesOfNat 2 r.asid ++ bytesOfNat 2 0 ++ bytesOfNat 4 r.detail
  ++ ((r.idx.map (bytesOfNat 4)).flatten ++ List.replicate 32 0).take 32

/-- Eight bytes of a record, as FRECn and FLTRECn show them. -/
def FRec.word (r : FRec) (n : Nat) : W64 :=
  BitVec.ofNat 64 (natOfBytes ((r.bytes.drop (8 * n)).take 8))

/-! ### Taking a control-class fault, and returning (R382-R385) -/

/-- ASID of the task on a tile. -/
def tileAsid (s : State) (t : Nat) : Nat := (s.xu t).asid

/-- The shadow context begins a servicing at the stub (R382): FACT and FVAL read 0 (R383).
DESIGN CHOICE: notes/assumptions/8.md. -/
def Shadow.start (sh : Shadow) (now : Nat) : Shadow :=
  { sh with running := true, fact := 0, fval := 0
            ctx := { sh.ctx with pc := sh.stubpc, nextIssue := now } }

/-- The array stands still in this cycle (R31, R321). -/
def Tile.still (x : Tile) : Bool := x.held && !x.runOn

/-- A fault of the weight-driven engine, during which the array runs on (R321). -/
def CFault.ofMode (f : CFault) : Bool := f.fr.unit == 258

/-- The cycle in which a fault is found is a held one, if nothing has been issued in it: no latency count, no
array stage and no accumulator word has moved for it (R31, R382).
DEDUCED: notes/assumptions/76.md. -/
def Tile.holdNow (x : Tile) (f : CFault) : Tile :=
  if !x.ticked then x
  else
    let run := x.task.isSome
    { x with
      ticked := false, ran := false, held := true, runOn := f.ofMode
      sys := if run then { x.sys with tcyc := x.sys.tcyc - 1, hcyc := x.sys.hcyc + 1 } else x.sys }

/-- A control-class fault is taken (R382): the record is queued, the hold stands while the queue is
not empty, and the shadow context starts when nothing was being serviced. A ninth fault is held
back at its unit. -/
def takeControl (s : State) (t : Nat) (f : CFault) : State :=
  let x := (s.tile t).holdNow f
  let sh := x.shadow
  let sh' :=
    if sh.queue.length ≥ 8 then { sh with back := sh.back ++ [f] }
    else
      let q := { sh with queue := sh.queue ++ [f] }
      if sh.queue.isEmpty then q.start (s.cycle + 1) else q
  s.setTile t { x with shadow := sh' }

/-- The record of a control-class fault of a tile's sequencer, unit 257 (R374, R437). -/
def seqRec (s : State) (t : Nat) (cause : Nat) (pc : W64) (addr detail : Nat) : FRec :=
  { cause := cause, tile := t, unit := 257, ctx := 64, fseq := ((s.tile t).fseqS + 1) % 256,
    addr := addr, pos := pc.toNat, asid := tileAsid s t, detail := detail }

/-- The sequencer of a tile raises a fault. -/
def seqFault (s : State) (t cause : Nat) (pc : W64) (addr detail : Nat) (src : CSrc)
    (idx : List Nat := []) : State :=
  let r := { seqRec s t cause pc addr detail with idx := idx }
  let s1 := s.setTile t { s.tile t with fseqS := r.fseq }
  takeControl s1 t { fr := r, src := src }

/-- The weight-driven engine of a tile, unit 258, raises a fault: its record names the PC of the wdrive
bundle and WPC (R321, R374). -/
def wdFault (s : State) (t cause addr detail : Nat) (src : CSrc) : State :=
  let x := s.tile t
  let r : FRec :=
    { cause := cause, tile := t, unit := 258, ctx := 64, fseq := (x.fseqW + 1) % 256, addr := addr
      pos := x.wd.pc.toNat, asid := tileAsid s t, detail := detail
      idx := [x.wd.wpc % 2 ^ 32, x.wd.wpc / 2 ^ 32] }
  takeControl (s.setTile t { x with fseqW := r.fseq, wd := { x.wd with flt := true, wait := false, mid := false } }) t { fr := r, src := src }

/-- The record being serviced is escalated to the CP (R384, R385, R426). -/
def escalate (s : State) (t : Nat) : State :=
  let x := s.tile t
  match x.shadow.queue.head? with
  | none => s
  | some f =>
    let s1 := s.setTile t { x with shadow :=
      { x.shadow with running := false, esc := true, fltrec := some f.fr } }
    s1.report { kind := 2, src := t, unit := f.fr.unit, cause := f.fr.cause, bytes := f.fr.bytes }

/-- A fault of the shadow context itself: it stops, the pending record is escalated unchanged, and
SHADOW_FAULT is reported (R383). DEDUCED: notes/assumptions/35.md. -/
def shadowFault (s : State) (t : Nat) : State :=
  let s1 := (s.reportF 0x0B t 257 [])
  let x := s1.tile t
  escalate (s1.setTile t { x with shadow := { x.shadow with stopped := true } }) t

/-- A slot instruction of the acting context faults at issue: neither slot takes effect (R239,
R273); in the shadow context it raises SHADOW_FAULT (R383). -/
def issueFault (s : State) (cause addr detail : Nat) : Out :=
  if s.cur.shadow then .next ((shadowFault s s.cur.unit).setIss .fault)
  else .next ((seqFault s s.cur.unit cause s.cur.bpc addr detail .issue).setIss .fault)

/-- A task's instruction: in the shadow context its opcode raises SHADOW_FAULT (R383). -/
def taskOnly (s : State) (f : State → Out) : Out := if s.cur.shadow then issueFault s 0x0B 0 0 else f s

/-! ### Slot B operations (R224, R225) -/

/-- A slot B operation is issued under the bundle's tag (R224). -/
def issueOp (s : State) (k : OpKind) : State :=
  let t := s.me
  let c := s.ctx
  let o : Op := { id := t.nextOp, tag := s.cur.ta, ord := t.ord, bno := c.bno, pc := s.cur.bpc, kind := k, at' := s.cycle }
  let s1 := s.setTile s.cur.unit { t with ord := t.ord + 1, nextOp := t.nextOp + 1 }
  s1.setCtx { c with
    ops := c.ops ++ [o]
    busy := if s.cur.ta = 0 then c.busy else c.busy ++ [s.cur.ta] }

/-- The operation is over: its tag completes (R224). -/
def Ctx.endOp (c : Ctx) (id : Nat) : Ctx :=
  match c.ops.find? fun o => o.id == id with
  | none => c
  | some o => { c with ops := c.ops.filter fun p => p.id != id, busy := c.busy.filter (· != o.tag) }

def opOf (c : Ctx) (id : Nat) : Option Op := c.ops.find? fun o => o.id == id

/-- A register that is written holds no parity error any more (R373). -/
def Tile.clearBad (x : Tile) (d : Dest) : Tile :=
  { x with regBad := x.regBad.filter (· != destKey d) }

/-- A tile's operation ends, having written `v` to its destination if it has one. -/
def finishOp (s : State) (t id : Nat) (v : Option Nat) : State :=
  let x := s.tile t
  match opOf x.ctx id with
  | none => s
  | some o =>
    let c := match o.kind.dest, v with
      | some d, some n => x.ctx.landAt d n o.ord
      | _, _ => x.ctx
    let x := match o.kind.dest, v with
      | some d, some _ => x.clearBad d
      | _, _ => x
    s.setTile t { x with ctx := c.endOp id }

/-- A tagged access found a fault after issue: it is queued under the issuing bundle's PC, and the
access stays unperformed with its tag busy (R273, R382). -/
def opFault (s : State) (t id cause addr : Nat) : State :=
  let x := s.tile t
  match opOf x.ctx id with
  | none => s
  | some o =>
    let c := { x.ctx with ops := x.ctx.ops.map fun p => if p.id = id then { p with st := .faulted } else p }
    seqFault (s.setTile t { x with ctx := c }) t cause o.pc addr 0 (.access id)

/-! ### Landing (R221, R222, R256, R258, R259) -/

/-- VFLAGS after an instruction's flags and saturations are added (R258, R236). -/
def addVflags (v : W64) (f : Fl) : W64 :=
  let n := v.toNat
  let sat := min 0xFFFF (bits n 31 16 + f.sat)
  let fl := n % 32 ||| (f.iv.toNat + 2 * f.dz.toNat + 4 * f.ovf.toNat + 8 * f.uf.toNat + 16 * f.sclamp.toNat)
  BitVec.ofNat 64 (sat * 2 ^ 16 + fl)

/-- A system register takes the value an mts gave it (R222, R236). -/
def Sys.write (y : Sys) (num : Nat) (v : W64) : Sys :=
  if num = 0x008 then { y with vmode := v }
  else if num = 0x009 then { y with vseed := v, gens := tabulate 32 (lfsrSeed v.toNat) }
  else if num = 0x00A then { y with vflags := v }
  else { y with th := tput y.th (num - 0x18) (v.setWidth 32) }

/-- mts writes issued two tile cycles ago or more take effect; one issued in the cycle before may
(R222). A held cycle advances none (R31). -/
def landMts (s : State) (x : Tile) : Tile :=
  if x.held then x
  else
  let due (p : PendMts) : Bool :=
    decide (p.at' ≤ x.tc) || (decide (p.at' ≤ x.tc + 1) && choose s (256 + p.num) 2 == 1)
  let sys := x.ctx.mts.foldl (fun y p => if due p then y.write p.num p.val else y) x.sys
  { x with sys := sys, ctx := { x.ctx with mts := x.ctx.mts.filter fun p => !due p } }

/-- The results that `due` names land in issue order, with their flags. -/
def landWhere (x : Tile) (due : Pend → Bool) : Tile :=
  let l := x.ctx.pend.filter due
  let x := l.foldl (fun x p => x.clearBad p.dest) x
  let c := l.foldl (fun c p => c.landAt p.dest p.val p.ord) x.ctx
  let vf := l.foldl (fun v p => addVflags v p.fl) x.sys.vflags
  { x with sys := { x.sys with vflags := vf }, ctx := { c with pend := x.ctx.pend.filter fun p => !due p } }

/-- Results whose bound has been reached land. -/
def landPend (x : Tile) : Tile := landWhere x fun p => decide (p.bound ≤ x.tc) && p.trap.isNone

/-- Value `k` of width `w` of a vector is replaced. -/
def setField (w v k val : Nat) : Nat :=
  v - (v >>> (w * k)) % 2 ^ w * 2 ^ (w * k) + (val % 2 ^ w) * 2 ^ (w * k)
/-- The lanes of a mask take one value: 32 bits of a lane, or a narrow value from value `lo` on. -/
def setLanes (w lo v mask val : Nat) : Nat :=
  (List.range 32).foldl (fun acc l => if bit mask l then setField w acc (lo + l) val else acc) v

/-- The side vector result a servicing places (R384): for FACT 1 the trapping lanes take FVAL.
DEDUCED: notes/assumptions/36.md. -/
def landTrap (x : Tile) (p : Pend) (fact : Nat) (fval : W64) : Tile :=
  let mask := match p.trap with
    | some (_, m) => m
    | none => 0
  let v :=
    if fact = 1 then
      match p.dest with
      | .m _ => if bit fval.toNat 0 then p.val ||| mask else p.val &&& (mask ^^^ (2 ^ 32 - 1))
      | _ => setLanes p.lw p.lo p.val mask fval.toNat
    else p.val
  { x with
    ctx := x.ctx.landAt p.dest v p.ord
    sys := { x.sys with vflags := addVflags x.sys.vflags (if fact = 1 then p.flRest else p.fl) } }

end Sys2Proof.Machine
end

