-- ==== Sys2Proof/Machine/Operands.lean ====
section
/-!
DEFINITION. Operand forms: lanes of side vector registers and values of tokens (R42, R118, R141,
R257), signed readings of scalar operands (R252) and addresses formed from a register and an offset
(R274).
-/
namespace Sys2Proof.Machine

/-- The `n` fields of `w` bits of a number, lowest first (R42). -/
def fieldsOf (w : Nat) : Nat → Nat → List Nat
  | 0, _ => []
  | n + 1, v => v % 2 ^ w :: fieldsOf w n (v / 2 ^ w)
/-- The number whose fields of `w` bits are listed, lowest first. -/
def ofFields (w : Nat) : List Nat → Nat
  | [] => 0
  | x :: xs => x % 2 ^ w + 2 ^ w * ofFields w xs

/-- The 32 lanes of a vector register (R257). -/
def lanes (v : VReg) : List Nat := fieldsOf 32 32 v.toNat
/-- Lane `l` of a vector register. -/
def laneAt (v : VReg) (l : Nat) : Nat := (v.toNat >>> (32 * l)) % 2 ^ 32
/-- A vector register made of lanes. -/
def ofLanes (l : List Nat) : VReg := BitVec.ofNat 1024 (ofFields 32 l)
/-- A vector register whose lane `l` is `f l`. -/
def vecOf (f : Nat → Nat) : VReg := ofLanes (tabulate 32 f)
/-- Lanes a mask selects take the new value; the others keep the old (R257). -/
def mergeV (mk : W32) (new old : VReg) : VReg :=
  vecOf fun l => if bit mk.toNat l then laneAt new l else laneAt old l

/-- Values of width `w` a 64-byte token or line holds (R42, R118). -/
def valuesOf (w : Nat) (x : Line) : List Nat := if w = 0 then [] else fieldsOf w (512 / w) x.toNat
/-- A line made of values of width `w`. -/
def lineOf (w : Nat) (l : List Nat) : Line := BitVec.ofNat 512 (ofFields w l)
/-- Bytes of a line, and back (R4). -/
def lineBytes (x : Line) : List Byte := bytesOfNat 64 x.toNat
def lineOfBytes (b : List Byte) : Line := BitVec.ofNat 512 (natOfBytes b)
/-- Bytes of a vector register, and back. -/
def vregBytes (x : VReg) : List Byte := bytesOfNat 128 x.toNat
def vregOfBytes (b : List Byte) : VReg := BitVec.ofNat 1024 (natOfBytes b)

/-- A signed or unsigned reading of a scalar operand (R252, U of R251). -/
def readU (u : Bool) (x : W64) : Int := if u then (x.toNat : Int) else x.toInt
/-- An integer modulo 2^64 (R252). -/
def wrap64 (i : Int) : Nat := wrapInt 64 i
/-- An immediate sign-extended to 64 bits (R219). -/
def sext64 {n : Nat} (i : BitVec n) : W64 := i.signExtend 64

/-- The address a register and a byte offset give (R274). -/
def addrOf (a : W64) (off : Int) : Nat := wrapInt 64 ((a.toNat : Int) + off)

end Sys2Proof.Machine
end

