-- ==== Sys2Proof/Machine/Control.lean ====
section
/-!
DEFINITION. Slot A: control and system registers (R227-R229, R234-R236, R243-R250, R256, R383).
-/
namespace Sys2Proof.Machine

/-- The loop buffer after a branch to `pc`: capture ends where the branch leaves the span, whose end the first le
bundle shows (R229). -/
def branchBuf (b : Option LoopBuf) (pc : W64) : Option LoopBuf :=
  match b with
  | none => none
  | some l =>
    if l.held then some l
    else if pcNum l.body ≤ pcNum pc ∧ pcNum pc < pcNum l.body + 64 then some { l with far := max l.far (pcNum pc) }
    else some { l with ended := true }

/-- A taken branch: two tile cycles without issue, the target in the third (R227). -/
def branchTo (s : State) (pc : W64) : State :=
  let c := s.ctx
  s.setCtx { c with pc := pc, nextIssue := s.now + 3, loopBuf := branchBuf c.loopBuf pc }

/-- The test of br (R244). -/
def condHolds (c : Cond) (a : W64) : Bool :=
  match c with
  | .eq => a == 0
  | .ne => a != 0
  | .lt => decide (a.toInt < 0)
  | .ge => decide (a.toInt ≥ 0)
  | .gt => decide (a.toInt > 0)
  | .le => decide (a.toInt ≤ 0)

/-- Branch by an offset of bundles; a target R217 forbids faults (R227, R244). -/
def branchOff (s : State) (off : BitVec 17) : Out :=
  match pcTarget s.cur.bpc off with
  | none => issueFault s 0x03 0 0
  | some pc => .next (branchTo s pc)

/-- nop of slot A (R220). -/
def execNopA (s : State) : Out := .next s.advance

/-- br (R244). -/
def execBr (a : Reg) (c : Cond) (off : BitVec 17) (s : State) : Out :=
  if condHolds c (s.rdS 1 a) then branchOff s off else .next s.advance

/-- jmp (R244). -/
def execJmp (off : BitVec 17) (s : State) : Out := branchOff s off

/-- jal: the link is the bundle's successor (R245). -/
def execJal (a : Reg) (off : BitVec 17) (s : State) : Out :=
  match pcTarget s.cur.bpc off with
  | none => issueFault s 0x03 0 0
  | some pc => .next (branchTo (s.issueFixed (.s a.toNat) (pcNext s.cur.bpc).toNat 1) pc)

/-- ret: an indirect branch, checked against R217 (R246). -/
def execRet (a : Reg) (s : State) : Out :=
  let pc := s.rdS 1 a
  if pcOk pc then .next (branchTo s pc) else issueFault s 0x03 0 0

/-- loop (R228, R229, R248). -/
def execLoop (d a : Reg) (len : BitVec 15) (s : State) : Out :=
  let c := s.ctx
  let count := s.rdS 1 a
  let body := pcNext s.cur.bpc
  if c.loops.length ≥ 6 then issueFault s 0x01 0 0
  else if count = 0 then
    let n := pcNum s.cur.bpc + len.toNat + 1
    if n ≥ 3 * 2 ^ 47 then issueFault s 0x03 0 0 else .next (branchTo s (numPc n))
  else
    let lv : Level := { body := body, rem := count, idx := 0, stride := s.rdS 2 d }
    .next (s.setCtx { c with loops := lv :: c.loops, loopBuf := some { body := body } }).advance

/-- The loop buffer after a level is popped: it is emptied where it holds the level's body (R249). -/
def popBuf (b : Option LoopBuf) (body : W64) : Option LoopBuf :=
  match b with
  | none => none
  | some l => if l.body = body then none else some l

/-- lbrk (R249). -/
def execLbrk (s : State) : Out :=
  let c := s.ctx
  match c.loops with
  | [] => issueFault s 0x01 0 0
  | lv :: rest =>
    .next (s.setCtx { c with loops := rest, loopBuf := popBuf c.loopBuf lv.body }).advance

/-- The back edge of a bundle with le (R228, R229, R249), after its slots; `none` on an empty
stack. -/
def loopEnd (s : State) (bpc : W64) : Option State :=
  let c := s.ctx
  match c.loops with
  | [] => none
  | lv :: rest =>
    let rem := lv.rem - 1
    if rem = 0 then
      some (s.setCtx { c with loops := rest, loopBuf := popBuf c.loopBuf lv.body })
    else
      let span := pcNum bpc + 1 - pcNum lv.body
      let fits := decide (pcNum lv.body ≤ pcNum bpc) && decide (span ≤ 64)
      let loops := { lv with rem := rem, idx := lv.idx + lv.stride } :: rest
      let (buf, free) : Option LoopBuf × Bool := match c.loopBuf with
        | some l =>
          if l.body = lv.body then
            if l.held then (some l, true)
            else if l.ended || !fits || decide (pcNum bpc < l.far) then (some { l with ended := true }, false)
            else (some { l with held := true, count := span }, true)
          else (some l, false)
        | none => (some { body := lv.body, ended := !fits }, false)
      some (s.setCtx { c with
        loops := loops, loopBuf := buf, pc := lv.body
        nextIssue := if free then c.nextIssue else s.now + 3 })

/-- trap: slot B takes effect and the task goes on at the successor after the servicing (R250). -/
def execTrap (code : BitVec 20) (s : State) : Out :=
  if s.cur.shadow then issueFault s 0x04 0 code.toNat
  else
    -- the bundle issues in this cycle: the hold begins with the next (R382)
    let s1 := s.setTile s.cur.unit { s.me with ticked := false }
    .next (seqFault s1.advance s.cur.unit 0x04 s.cur.bpc 0 code.toNat .trap)

/-! ### System registers (R234-R236, R256, R383) -/

/-- i0-i5: the index of the k-th innermost level, 0 where none is pushed (R236). -/
def loopIdx (l : List Level) (k : Nat) : W64 :=
  match l[k]? with
  | some lv => lv.idx
  | none => 0

/-- VFLAGS as mfs reads it: the flags of a result that has not landed may stand in it or not (R222,
R258). -/
def readVflags (s : State) : W64 :=
  let x := s.me
  (List.range x.ctx.pend.length).foldl (fun v i =>
    match x.ctx.pend[i]? with
    | some p => if p.trap.isNone && choose s (300 + i) 2 == 1 then addVflags v p.fl else v
    | none => v) x.sys.vflags

/-- The value of a task's system register, none for a number R236 does not list. -/
def sysRead (s : State) (n : Nat) : Option W64 :=
  let y := s.me.sys
  let c := s.ctx
  match n with
  | 0x000 => some (BitVec.ofNat 64 (s.cur.unit % 128 + 3 * 256))
  | 0x002 => some y.tinst
  | 0x003 => some y.tnode
  | 0x008 => some y.vmode
  | 0x009 => some y.vseed
  | 0x00A => some (readVflags s)
  | 0x010 => some (loopIdx c.loops 0)
  | 0x011 => some (loopIdx c.loops 1)
  | 0x012 => some (loopIdx c.loops 2)
  | 0x013 => some (loopIdx c.loops 3)
  | 0x014 => some (loopIdx c.loops 4)
  | 0x015 => some (loopIdx c.loops 5)
  | 0x016 => some (BitVec.ofNat 64 c.loops.length)
  | 0x018 => some ((tget 0 y.th 0).setWidth 64)
  | 0x019 => some ((tget 0 y.th 1).setWidth 64)
  | 0x01A => some ((tget 0 y.th 2).setWidth 64)
  | 0x01B => some ((tget 0 y.th 3).setWidth 64)
  | 0x01C => some ((tget 0 y.th 4).setWidth 64)
  | 0x01D => some ((tget 0 y.th 5).setWidth 64)
  | 0x01E => some ((tget 0 y.th 6).setWidth 64)
  | 0x01F => some ((tget 0 y.th 7).setWidth 64)
  | 0x020 => some y.tcyc
  | 0x021 => some y.hcyc
  | 0x022 => some y.bfetch
  | 0x023 => some y.bissue
  | 0x024 => some (BitVec.ofNat 64 (natSum (tabulate 8 fun k => if k ≠ 0 && c.busy.contains k then 2 ^ k else 0)))
  | 0x028 => some y.scopeA
  | 0x029 => some y.scopeB
  | 0x02A => some y.scopeC
  | _ => none

/-- Whether a task may write a value to a system register (R234, R236). -/
def sysWriteOk (n : Nat) (v : W64) : Bool :=
  let x := v.toNat
  match n with
  | 0x008 => bits x 63 8 == 0 && !bit x 5 && !bit x 3 && bits x 7 6 != 3
  | 0x009 => bits x 63 32 == 0
  | 0x00A => bits x 63 32 == 0 && bits x 15 5 == 0
  | 0x018 | 0x019 | 0x01A | 0x01B | 0x01C | 0x01D | 0x01E | 0x01F => bits x 63 32 == 0
  | _ => false

/-- A task scalar register as the shadow context and the CP see it: undefined while a write to it
has not taken effect (R221, R383, R385). -/
def taskReg (s : State) (t r pos : Nat) : W64 :=
  let c := (s.tile t).ctx
  if r = 0 then 0
  else if pendingTo c (.s r) then BitVec.ofNat 64 (undef s pos) else c.getS r

/-- The value of a register of the shadow context, none for a number outside R383's table. -/
def shadowRead (s : State) (n : Nat) : Option W64 :=
  let sh := s.me.shadow
  match n with
  | 0x048 => some sh.fact
  | 0x049 => some sh.fval
  | 0x04A => some (BitVec.ofNat 64 (sh.queue.length - 1))
  | 0x04B => some sh.trsel
  | 0x04C => some (taskReg s s.cur.unit (sh.trsel.toNat % 32) 9)
  | n =>
    if 0x040 ≤ n ∧ n < 0x048 then
      some (match sh.queue.head? with
        | some f => f.fr.word (n - 0x040)
        | none => 0)
    else none

/-- Whether the shadow context may write a value to a register (R234, R383). -/
def shadowWriteOk (n : Nat) (v : W64) : Bool :=
  let x := v.toNat
  match n with
  | 0x048 => decide (x < 3)
  | 0x049 => decide (x < 2 ^ 32)
  | 0x04B => decide (x < 32)
  | 0x04C => true
  | _ => false

/-- mfs, with latency 2 (R256). -/
def execMfs (d : Reg) (n : BitVec 12) (s : State) : Out :=
  match (if s.cur.shadow then shadowRead s n.toNat else sysRead s n.toNat) with
  | some v => writeFixed s (.s d.toNat) v.toNat 2
  | none => issueFault s 0x02 0 0

/-- mts takes effect for bundles two tile cycles later (R222, R234, R256). -/
def execMts (a : Reg) (n : BitVec 12) (s : State) : Out :=
  let v := s.rdS 1 a
  if (if s.cur.shadow then shadowWriteOk n.toNat v else sysWriteOk n.toNat v) then
    let c := s.ctx
    .next (s.setCtx { c with
      mts := c.mts ++ [{ num := n.toNat, val := v, at' := s.now + 2 }] }).advance
  else issueFault s 0x02 0 0

end Sys2Proof.Machine
end

