-- ==== Sys2Proof/Machine/Flags.lean ====
section
/-!
DEFINITION. Modes, draws, flags and traps of the side vector unit (R47-R50, R236, R258, R259), and
the operations its lane instructions share.
-/
namespace Sys2Proof.Machine

/-- The fields of VMODE, and of an element's mode word, that rounding reads (R47-R49, R236). -/
structure VMode where
  rnd : Nat
  sr : Bool
  sat : Bool
  sv : Nat
deriving DecidableEq, Repr

def vmodeOf (v : W64) : VMode :=
  let n := v.toNat
  { rnd := n % 4, sr := bit n 2, sat := bit n 4, sv := bits n 7 6 }

/-- The rounding of a lane: its mode, or its draw under stochastic rounding (R47). -/
def VMode.rmode (m : VMode) (draw : Nat) : RMode :=
  { rnd := m.rnd, draw := if m.sr then some draw else none }
/-- Special-value policy flush (R49). -/
def VMode.flush (m : VMode) : Bool := m.sv == 1



/-- ROUND of an exact result into f32 under VMODE (R258). -/
def vround (m : VMode) (f draw : Nat) (v : Val) : Rnd :=
  roundTo f (m.rmode draw) m.sat m.flush v

/-- A division by zero of a finite non-zero value, beside its result (R49, R263). -/
def withDz (dz : Bool) (r : Rnd) : Rnd := if dz then { r with fl := { r.fl with dz := true } } else r

/-- Cause and lane mask of the lanes of `mk` that meet a condition of R49 (R259). -/
def trapOf (mk : Nat) (rs : List Rnd) : Option (Nat × Nat) :=
  let hit := (List.range 32).filterMap fun l =>
    match rs[l]? with
    | some r => if bit mk l then r.fl.cause.map fun c => (l, c) else none
    | none => none
  match hit with
  | [] => none
  | (_, c) :: t =>
    some (t.foldl (fun m p => min m p.2) c, natSum (hit.map fun p => 2 ^ p.1))

/-- The flags of the lanes that a mask selects (R258). -/
def flagsOf (mk : Nat) (rs : List Rnd) : Fl :=
  (List.range 32).foldl (fun f l => if bit mk l then f.or (rs.getD l { code := 0 }).fl else f) {}

/-- Every generator of the side vector unit makes one draw (R48, R258). -/
def stepGens (s : State) : State :=
  let t := s.me
  s.setTile s.cur.unit { t with sys := { t.sys with gens := t.sys.gens.map lfsrStep } }
/-- The draw of a lane's generator (R48). -/
def drawOf (s : State) (l : Nat) : Nat := lfsrStep (s.me.sys.gens.getD l 1)
/-- VMODE as it stands at issue (R258). -/
def vmode (s : State) : VMode := vmodeOf s.me.sys.vmode

/-- A side vector result of 32 lanes, merged under a mask, with its flags, or with the trap it
raises at its bound (R257-R259). -/
def issueLanes (s : State) (d : Reg) (mk : W32) (L : Nat) (rs : List Rnd) : State :=
  let m := vmode s
  let new := ofLanes (rs.map (·.code))
  let old := s.rdV 4 d
  let tr := if m.sv = 2 then trapOf mk.toNat rs else none
  let rest : Fl := match tr with
    | some (_, t) => flagsOf (mk.toNat &&& (t ^^^ (2 ^ 32 - 1))) rs
    | none => {}
  s.issueFixed (.v d.toNat) (mergeV mk new old).toNat L (flagsOf mk.toNat rs) tr rest

/-- A lane instruction that may round: with `draws`, all 32 generators draw at issue under SR
(R258). -/
def laneOp (s : State) (d : Reg) (mk : MReg) (L : Nat) (draws : Bool) (f : VMode → Nat → Nat → Rnd) :
    Out :=
  taskOnly s fun s =>
    let m := vmode s
    let rs := tabulate 32 fun l => f m l (drawOf s l)
    let s1 := issueLanes s d (s.rdM 3 mk) L rs
    .next (if draws && m.sr then stepGens s1 else s1).advance

end Sys2Proof.Machine
end

