-- ==== Sys2Proof/Machine/Array.lean ====
section
/-!
DEFINITION. Weight images, the decompressor's expansion, the sums of a row, and the accumulator
store with the order of its updates (R52-R56, R179-R202, R289).
-/
namespace Sys2Proof.Machine

/-! ### Tile images (R180-R186) -/

/-- Byte `i` of a tile image. -/
def imgByte (toks : Tbl Line) (i : Nat) : Nat := ((tget 0 toks (i / 64)).toNat >>> (8 * (i % 64))) % 256
/-- `n` bytes of a tile image as a number. -/
def imgNum (toks : Tbl Line) (i n : Nat) : Nat :=
  natSum ((List.range n).map fun j => imgByte toks (i + j) * 256 ^ j)

/-- The header token's fields (R181). -/
structure ImgHdr where
  fmt : Nat
  cmp : Nat
  k : Nat
  dlen : Nat
  slen : Nat
  nout : Nat
deriving DecidableEq, Repr

def imgHdr (toks : Tbl Line) : ImgHdr :=
  { fmt := imgByte toks 0, cmp := imgByte toks 1, k := imgNum toks 2 2, dlen := imgNum toks 4 4,
    slen := imgNum toks 8 2, nout := imgByte toks 10 }

def ImgHdr.sparse (h : ImgHdr) : Nat := h.cmp % 4
def ImgHdr.mx (h : ImgHdr) : Bool := bit h.cmp 2

/-- The outlier list of an image (R186). -/
def outliers (h : ImgHdr) (toks : Tbl Line) : List Nat :=
  tabulate h.nout fun i => imgNum toks (64 + h.dlen + 2 * i) 2

def rising : List Nat → Bool
  | a :: b :: t => decide (a < b) && rising (b :: t)
  | _ => true

/-- FAIL of R202 for a received image, 0 where R182 accepts it; `got` is the tokens each WLD
delivered. -/
def imgFail (toks : Tbl Line) (got : Tbl Nat) : Nat :=
  let h := imgHdr toks
  let okFmt := h.fmt == 2 || h.fmt == 3 || h.fmt == 4 || h.fmt == 5 || h.fmt == 6 || h.fmt == 8 || h.fmt == 13
  let rest := (List.range 53).any fun i => imgByte toks (11 + i) != 0
  if !okFmt || decide (h.sparse > 1) || decide (h.cmp ≥ 8) || rest then 1
  else if (h.mx && !(h.fmt == 4 || h.fmt == 5 || h.fmt == 6)) || (h.fmt == 6 && !h.mx)
      || (h.sparse == 1 && (h.mx || h.fmt == 6 || h.fmt == 13)) then 2
  else if !(h.k == 256 || h.k == 512 || h.k == 1024) || decide (h.nout > 64) then 3
  else if h.dlen ≠ imageDlen h.fmt h.sparse h.k ∨ h.dlen > 65536 then 4
  else if h.slen ≠ imageSlen h.mx h.k then 5
  else
    let o := outliers h toks
    let unused := (List.range (128 - 2 * h.nout)).any fun i =>
      imgByte toks (64 + h.dlen + 2 * h.nout + i) != 0
    if unused || o.any (fun x => decide (x ≥ h.k)) || !rising o then 6
    else
      let total := 1 + h.dlen / 64 + h.slen / 64
      if (List.range 4).any fun j => tget 0 got j != (total + 3 - j) / 4 then 7 else 0

/-- A 2:4 nibble: the positions of the two kept values, none where the nibble is malformed (R185). -/
def nibble24 (h : ImgHdr) (toks : Tbl Line) (g c : Nat) : Option (Nat × Nat) :=
  let w := fmtWidth h.fmt
  let b := imgByte toks (64 + (h.k / 2) * 128 * w / 8 + 64 * g + c / 2)
  let nb := if c % 2 = 0 then b % 16 else b / 16
  if nb % 4 < nb / 4 then some (nb % 4, nb / 4) else none

/-- The code stored for K-index `k`, column `c`, none where the tile holds zero (R184-R186). -/
def weightCode (h : ImgHdr) (out : List Nat) (toks : Tbl Line) (k c : Nat) : Option Nat :=
  let w := fmtWidth h.fmt
  let at' (row : Nat) : Nat :=
    let p := (row * 128 + c) * w
    (imgByte toks (64 + p / 8) + 256 * imgByte toks (64 + p / 8 + 1)) >>> (p % 8) % 2 ^ w
  if out.contains k then none
  else if h.sparse = 1 then
    match nibble24 h toks (k / 4) c with
    | none => none
    | some (a, b) =>
      if k % 4 = a then some (at' (2 * (k / 4)))
      else if k % 4 = b then some (at' (2 * (k / 4) + 1)) else none
  else some (at' k)

/-- The e8m0 scale of a block of a column of an MX tile (R184). -/
def mxScale (h : ImgHdr) (toks : Tbl Line) (b c : Nat) : Nat :=
  imgByte toks (64 + h.dlen + 128 + 128 * b + c)

/-- A weight's value under a pair, and whether its expansion saturated (R41, R55, R187). -/
def weightVal (h : ImgHdr) (out : List Nat) (toks : Tbl Line) (pair k c : Nat) : Val × Bool :=
  match weightCode h out toks k c with
  | none => (.zero false, false)
  | some x =>
    if pair = 8 then
      let r := roundFloat 2 { rnd := 0 } true false
        (Val.mul (decodeVal 6 x) (decodeVal 7 (mxScale h toks (k / 32) c)))
      (decodeVal 2 r.code, r.fl.ovf)
    else (decodeVal h.fmt x, false)

/-- What a preload counts: reserved t2 codes and malformed nibbles, and DSAT (R41, R55, R185). A 0b10 code at an
outlier K-index is not decoded and does not count (R186). DEDUCED: notes/assumptions/102.md. -/
def preloadCounts (h : ImgHdr) (toks : Tbl Line) (pair : Nat) : Nat × Bool :=
  let out := outliers h toks
  let cells := (List.range h.k).map fun k => (List.range 128).map fun c =>
    let rsv :=
      if h.sparse = 1 then k % 4 == 0 && (nibble24 h toks (k / 4) c).isNone
      else h.fmt == 13 && weightCode h out toks k c == some 2
    (rsv, (weightVal h out toks pair k c).2)
  (natSum (cells.map fun r => (r.filter fun x => x.1).length), cells.any fun r => r.any fun x => x.2)

/-! ### Sums of a row (R52-R55) -/

/-- The A row of eight tokens: values at and above a token's LCNT are zero (R189). -/
def rowNum (toks : List Tok) : Nat :=
  ofFields 512 (toks.map fun t => t.val.toNat % 2 ^ (32 * t.lcnt))

/-- Exact sum of the products of K-indices `k0` to `k0 + n - 1` of a column. DEDUCED: notes/assumptions/73.md. -/
def dot (aOf : Nat → Val) (wOf : Nat → Val) (k0 n : Nat) : Val :=
  (List.range n).foldl (fun s i => Val.add false s (Val.mul (aOf (k0 + i)) (wOf (k0 + i)))) (.num true 0 0 false)

/-- Two to a power, from two e8m0 scale codes; NaN where either is (R53). -/
def scaleProd (xa xb : Nat) : Val := Val.mul (decodeVal 7 xa) (decodeVal 7 xb)

/-- A column's sum: each group's exact value is added in ascending order with one RNE rounding. -/
def colSum (groups : List Val) : Nat :=
  groups.foldl (fun s v => (roundFloat 1 { rnd := 0 } false false (Val.add false (decodeVal 1 s) v)).code) 0

/-- The sum of one column of a row (R52-R55). DEDUCED: notes/assumptions/73.md. -/
def columnSum (t : ATile) (arow : Nat) (ascl : List Nat) (c : Nat) : Nat :=
  let pair := t.pair
  let h := imgHdr t.toks
  let out := outliers h t.toks
  let af := pairA pair
  let wa := fmtWidth af
  let aCode (k : Nat) : Nat := (arow >>> (k * wa)) % 2 ^ wa
  let n := pairN pair
  if pair = 6 ∨ pair = 7 then
    let s : Int := (List.range h.k).foldl (fun s k =>
      let w : Int := match (weightVal h out t.toks pair k c).1 with
        | .num ng m e _ =>
          let v := if 0 ≤ e then (m <<< e.toNat : Nat) else m
          if ng then -(v : Int) else v
        | _ => 0
      s + sextInt 8 (aCode k) * w) 0
    wrapInt 32 s
  else
    let aOf (k : Nat) : Val := decodeVal af (aCode k)
    let wOf (k : Nat) : Val := (weightVal h out t.toks pair k c).1
    if pair ≥ 9 then
      colSum ((List.range (h.k / 32)).map fun b =>
        Val.mul (dot aOf wOf (32 * b) 32) (scaleProd (ascl.getD b 127) (mxScale h t.toks b c)))
    else colSum ((List.range 128).map fun r => dot aOf wOf (n * r) n)

/-- The sums of a row, one per column. -/
def rowSums (t : ATile) (arow : Nat) (ascl : List Nat) : List Nat :=
  (List.range 128).map (columnSum t arow ascl)

/-! ### The accumulator store (R193-R197, R202) -/

def accIdx (row col : Nat) : Nat := row * 128 + col
/-- DESIGN CHOICE: notes/assumptions/10.md. -/
def Array.word (a : Array) (row col : Nat) : W32 := tget 0 a.acc (accIdx row col)

/-- ACCWIN or ACCSPARE makes every accumulator access raise ACC_RANGE (R202). -/
def Array.winBad (a : Array) : Bool :=
  let sp := a.accspare.toNat
  decide (a.winBase + a.winCount > 128)
  || (bit sp 7 && bit sp 15 && bits sp 6 0 == bits sp 14 8)
/-- Whether a window-relative row may not be named (R193). -/
def Array.rowBad (a : Array) (row : Nat) : Bool := a.winBad || decide (row ≥ 16 * a.winCount)
/-- The logical row of the store a window-relative row is (R193). -/
def Array.phys (a : Array) (row : Nat) : Nat := 16 * a.winBase + row

/-- Words a slot B operation writes or reads in the store, as first row and count. -/
def OpKind.rows : OpKind → Option (Nat × Nat)
  | .stacc r _ _ => some (r, 1)
  | .accz r n _ => some (r, n)
  | _ => none

/-- An mma still has to write a row in pass `q` or a later one: a row of A has not been accepted. -/
def Mma.pendingRow (m : Mma) (row : Nat) : Bool :=
  if m.ds then
    let i := row - m.row0
    decide (m.row0 ≤ row) && decide (i < m.p * m.m)
      && (decide (i / m.m > m.pass) || (decide (i / m.m = m.pass) && decide (i % m.m ≥ m.rows)))
      && !m.fed
  else
    let i := row - m.row0
    decide (m.row0 ≤ row) && decide (i < m.m) && !m.fed
      && (decide (m.pass + 1 < m.p) || decide (i ≥ m.rows))

/-- No update of a row, or drain's read of it, that comes before the place (`ord`, `pass`) in the
order is still to come (R194, R289). -/
def rowClear (x : Tile) (row ord pass : Nat) : Bool :=
  !(x.arr.mmas.any fun m => decide (m.ord < ord) && m.pendingRow row)
  && !(x.arr.contribs.any fun c =>
        c.row == row && (decide (c.ord < ord) || (c.ord == ord && decide (c.pass < pass))))
  && !(x.ctx.ops.any fun o => decide (o.ord < ord) && match o.kind.rows with
        | some (r, n) => decide (r ≤ row) && decide (row < r + n)
        | none => false)
  && !(x.arr.drains.any fun d =>
        decide (d.ord < ord) && decide (d.first + d.next ≤ row) && decide (row < d.first + d.cnt))

/-- The words of a store operation (R284). -/
def OpKind.covers (k : OpKind) (row : Nat) (cols : List Nat) : Bool :=
  match k with
  | .stacc r g _ => r == row && cols.any fun c => c / 32 == g
  | .accz r n mask => decide (r ≤ row) && decide (row < r + n) && cols.any fun c => bit mask (c / 32)
  | _ => false

/-- Words of a row have taken every update, and drain's read, that comes before the place (`ord`, `pass`) in the
order (R194, R289). -/
def wordsClear (x : Tile) (row : Nat) (cols : List Nat) (ord pass : Nat) : Bool :=
  !(x.arr.mmas.any fun m => decide (m.ord < ord) && m.pendingRow row)
  && !(x.arr.contribs.any fun c => c.row == row && (decide (c.ord < ord) || (c.ord == ord && decide (c.pass < pass)))
        && cols.any c.left.contains)
  && !(x.ctx.ops.any fun o => decide (o.ord < ord) && o.kind.covers row cols)
  && !(x.arr.drains.any fun d =>
        decide (d.ord < ord) && decide (d.first + d.next ≤ row) && decide (row < d.first + d.cnt))

/-- A word takes a value; `tag` is the tag of the mma that gives it, none for stacc and accz, after
which no earlier value may be read (R194, R195). -/
def Array.setWord (a : Array) (row col : Nat) (v : W32) (tag : Option Nat) : Array :=
  let k := accIdx row col
  let old := match tag with
    | some t => tput a.old k (tget [] a.old k ++ [(t, a.word row col)])
    | none => tdel a.old k
  { a with acc := tput a.acc k v, old := old, accBad := a.accBad.filter (· != k) }

/-- The mma.ds still to write a row as a staging row, other than the instruction at a place in the order (R197). -/
def Array.dsOn (a : Array) (row ord : Nat) : Option Mma :=
  a.mmas.find? fun m => m.ds && m.ord != ord && decide (m.row0 ≤ row) && decide (row < m.row0 + m.p * m.m)
    && (m.pendingRow row || a.contribs.any fun c => c.mma == m.id && c.row == row)

/-- A word is updated by the instruction at place `ord` in the order: a staging word that another instruction
updates before it has been read is undefined, and `fv` is the free value it takes (R197).
DEDUCED: notes/assumptions/77.md. -/
def Array.updWord (a : Array) (row col : Nat) (v : W32) (tag : Option Nat) (ord : Nat) (ds : Bool) (fv : W32) : Array :=
  let k := accIdx row col
  let by' := a.dsOn row ord
  let spoilt := thas a.stage k && (let e := tget (ord, false) a.stage k; e.2 || e.1 != ord)
  let bad := spoilt || by'.isSome
  let a1 := a.setWord row col (if bad then fv else v) tag
  match by' with
  | some m => { a1 with stage := tput a1.stage k (m.ord, true) }
  | none => if ds || bad then { a1 with stage := tput a1.stage k (ord, bad) } else a1

/-- One word of a contribution is added or written (R54, R197). -/
def Array.addWord (a : Array) (c : Contrib) (tag : Nat) (ds : Bool) (fv : Nat) (col : Nat) : Array :=
  let new := c.sums.getD col 0
  let cur := (a.word c.row col).toNat
  let v :=
    if !c.add then new
    else if c.int then (cur + new) % 2 ^ 32
    else (roundFloat 1 { rnd := 0 } false false (Val.add false (decodeVal 1 cur) (decodeVal 1 new))).code
  a.updWord c.row col (BitVec.ofNat 32 v) (some tag) c.ord ds (BitVec.ofNat 32 (fv >>> (32 * col)))

/-- Columns of a contribution reach the accumulator store (R29). -/
def Array.land (a : Array) (c : Contrib) (tag : Nat) (ds : Bool) (fv : Nat) (cols : List Nat) : Array :=
  let a1 := cols.foldl (fun a col => a.addWord c tag ds fv col) a
  { a1 with contribs := a1.contribs.filterMap fun d =>
      if d.mma == c.mma && d.pass == c.pass && d.row == c.row then
        let left := d.left.filter fun k => !cols.contains k
        if left.isEmpty then none else some { d with left := left }
      else some d }

/-- Words of a row have been read: they are staging words no longer (R197). -/
def Array.readStage (a : Array) (row : Nat) (cols : List Nat) : Array :=
  if a.stage.isEmpty then a else { a with stage := cols.foldl (fun g c => tdel g (accIdx row c)) a.stage }

/-- What an ldacc reads of a word: its value, or an earlier one that a still uncovered mma replaced;
nothing earlier is read again (R195). `pick` chooses among them. DEDUCED: notes/assumptions/72.md. -/
def Array.readWord (a : Array) (tc row col : Nat) (pick : Nat → Nat) : W32 × Array :=
  let k := accIdx row col
  let vs := tget [] a.old k
  -- a value is gone once any mma up to the one that replaced it is covered
  let covered (e : Nat × W32) : Bool := e.1 != 0 && bit tc (e.1 - 1)
  let n := vs.length
  let lastCov := ((List.range n).filter fun i => covered (vs.getD i (0, 0))).foldl (fun _ i => i + 1) 0
  let live := vs.drop lastCov
  let i := pick (live.length + 1)
  if i < live.length then ((live.getD i (0, 0)).2, { a with old := tput a.old k (live.drop i) })
  else (a.word row col, { a with old := tdel a.old k })

end Sys2Proof.Machine
end

