-- ==== Sys2Proof/Machine/Collar.lean ====
section
/-!
DEFINITION. The collar: places, planes, regions, source selects and pipelines (R28, R114-R125, R129,
R140, R142, R435, R436).
-/
namespace Sys2Proof.Machine

/-! ### Places (R114, R115, R121) -/

/-- Element types (R114). -/
inductive EType where
  | A | F | C | L | D | H | G | S | P | E | W | X
deriving DecidableEq, Repr

open EType in
/-- The pattern of eight positions of an arc-ring, by arc × 2 + ring (R114). -/
def arcPattern : Nat → List EType
  | 0 => [C, F, A, E, C, F, A, E]
  | 1 => [G, L, A, H, G, D, A, S]
  | 2 => [W, F, A, C, S, F, A, C]
  | 3 => [G, L, A, P, G, D, A, F]
  | 4 => [F, L, D, A, F, C, A, S]
  | 5 => [G, F, A, C, G, D, A, L]
  | 6 => [X, F, C, A, X, F, L, D]
  | _ => [G, H, A, S, G, F, A, P]

/-- The type of an element (R114, R115). -/
def elemType (e : Nat) : EType := (arcPattern (e / 64 * 2 + e / 32 % 2)).getD (e % 8) .A

/-- Latency of an element's type (R28); a PORT's varies with its engine. -/
def EType.lat : EType → Nat
  | .A => 1 | .S => 1 | .C => 2 | .D => 2 | .H => 2 | .L => 3 | .F => 4 | .E => 2 | .W => 2 | .X => 3
  | .G => 6 | .P => 1

/-- The box that serves an element, and the element's port there (R121). -/
def boxOf (e : Nat) : Nat := e / 64 * 16 + e / 32 % 2 * 8 + e % 32 / 4
def portOf (e : Nat) : Nat := e % 4
/-- The element at a box's port 0-3 (R121). -/
def elemAt (b port : Nat) : Nat := b / 16 * 64 + b / 8 % 2 * 32 + b % 8 * 4 + port
/-- Whether a box has a mesh attachment (R121). -/
def hasMesh (b : Nat) : Bool := b / 8 % 2 == 1 && (b % 8 == 0 || b % 8 == 7)

/-- The box a port of 4-6 leads to, and the port entered there (R121). -/
def neighbour (b port : Nat) : Nat × Nat :=
  let ring := b / 8 % 2
  let k := b / 16 * 8 + b % 8
  let at' (k : Nat) : Nat := k / 8 * 16 + ring * 8 + k % 8
  if port = 4 then (at' ((k + 1) % 32), 5)
  else if port = 5 then (at' ((k + 31) % 32), 4)
  else (b / 16 * 16 + (1 - ring) * 8 + b % 8, 6)

/-- The bank an AG at ring 1 is local to: of a tile (R115), of a strip (R24). -/
def localBank (u e : Nat) : Nat := if u < 64 then e / 64 * 4 + e % 32 / 8 else e / 64

/-! ### Accessors -/

def Collar.elem (c : Collar) (e : Nat) : Elem := tget {} c.elems e
def Collar.setElem (c : Collar) (e : Nat) (x : Elem) : Collar := { c with elems := tput c.elems e x }
def Collar.box (c : Collar) (b : Nat) : Box := tget {} c.boxes b
def Collar.setBox (c : Collar) (b : Nat) (x : Box) : Collar := { c with boxes := tput c.boxes b x }
def Collar.region (c : Collar) (r : Nat) : Region := tget {} c.regions r
def Collar.setRegion (c : Collar) (r : Nat) (x : Region) : Collar :=
  { c with regions := tput c.regions r x }
def Elem.plane (x : Elem) (p : Nat) : Plane := tget {} x.planes p
def Elem.setPlane (x : Elem) (p : Nat) (y : Plane) : Elem := { x with planes := tput x.planes p y }
/-- Current and staged plane of a slot (R125, R127). -/
def Elem.curOf (x : Elem) (slot : Nat) : Option Nat :=
  if thas x.cur slot then some (tget 0 x.cur slot) else none
def Elem.stagedOf (x : Elem) (slot : Nat) : Option Nat :=
  if thas x.staged slot then some (tget 0 x.staged slot) else none
/-- The plane that a switch requested for a slot leads to (R130). -/
def Elem.goesTo (x : Elem) (slot : Nat) : Option Nat :=
  if thas x.goes slot then some (tget 0 x.goes slot) else none

def State.elemOf (s : State) (u e : Nat) : Elem := (s.collar u).elem e
def State.setElem (s : State) (u e : Nat) (x : Elem) : State := s.setCollar u ((s.collar u).setElem e x)
def State.planeOf (s : State) (u e p : Nat) : Plane := (s.elemOf u e).plane p
def State.setPlane (s : State) (u e p : Nat) (y : Plane) : State :=
  s.setElem u e ((s.elemOf u e).setPlane p y)

/-- The region an element belongs to (R125). -/
def regionOf (c : Collar) (e : Nat) : Option Nat :=
  (c.regions.find? fun (_, r) => bit r.emask e).map (·.1)
/-- The region of an element, as a number for tokens it makes. -/
def regionNum (c : Collar) (e : Nat) : Nat := (regionOf c e).getD 0

/-- Elements of a mask, in ascending order. -/
def maskList (n mask : Nat) : List Nat := (List.range n).filter fun i => bit mask i

/-- The ASID under which an element of a unit translates (R24, R168). -/
def elemAsid (s : State) (u e : Nat) : Nat :=
  let c := s.collar u
  if u < 64 then
    match (regionOf c e).bind fun r => (c.region r).task with
    | some n => (s.task n).trec.asid
    | none => (s.xu u).asid
  else c.asid

/-! ### A plane's words (R117, R139-R141) -/

/-- A field of the mode word. -/
def Plane.mf (y : Plane) (hi lo : Nat) : Nat := bits y.mode hi lo
def Plane.rnd (y : Plane) : RMode := { rnd := bits y.mode 1 0 }
def Plane.sr (y : Plane) : Bool := bit y.mode 2
def Plane.eosp (y : Plane) : Bool := bit y.mode 3
def Plane.sat (y : Plane) : Bool := bit y.mode 4
/-- Opcode of the plane's operation word (R139). -/
def Plane.opcode (y : Plane) : Nat := bits y.op 31 25
def Plane.eop (y : Plane) : EOp := eopOf y.op

/-- A virtual channel table entry and its fields (R117). -/
def Plane.vc (y : Plane) (v : Nat) : Nat := tget 0 y.vct v
def vcV (n : Nat) : Bool := bit n 11
def vcQ (n : Nat) : Nat := bits n 10 9
def vcCreg (n : Nat) : Nat := bits n 6 4
def vcFmt (n : Nat) : Nat := bits n 3 0

/-- The queues an operation word sources, in port order (R124, R140). -/
def srcQ (o : EOp) : List Nat :=
  [0, 1, 2].filter fun q => o.sa.toNat == q || o.sb.toNat == q || o.sc.toNat == q

def Plane.queue (y : Plane) (q : Nat) : List Tok :=
  if q = 0 then y.qa else if q = 1 then y.qb else y.qc
def Plane.setQueue (y : Plane) (q : Nat) (l : List Tok) : Plane :=
  if q = 0 then { y with qa := l } else if q = 1 then { y with qb := l } else { y with qc := l }

/-- The format of the valid entries of a queue: the first that is not raw, else raw (R142). -/
def qFmt (y : Plane) (q : Nat) : Nat :=
  let fs := y.vct.filterMap fun (_, n) => if vcV n && vcQ n == q then some (vcFmt n) else none
  (fs.find? (· != 0)).getD 0

/-- The operation's input format (R142): of queue a, else of the next sourced queue; raw entries take
the format of the other queues, and the result format when every entry is raw. -/
def inFmt (y : Plane) (o : EOp) : Nat :=
  let fs := (srcQ o).map (qFmt y)
  (fs.find? (· != 0)).getD o.fmt.toNat

/-- The width of values of a format; raw is moved as 32-bit lanes. -/
def wOf (f : Nat) : Nat := if fmtWidth f = 0 then 32 else fmtWidth f

/-! ### Faults of elements (R374, R375, R378, R437) -/

/-- The strip of a unit's die (R17). -/
def stripOf (u : Nat) : Nat := if u < 64 then 64 + u / 16 else u

/-- A fault token leaves its unit's collar for the corner of the die's strip, crossing the mesh; how long that takes
is open (R104, R122, R375). DEDUCED: notes/assumptions/96.md. -/
def toStrip (s : State) (u : Nat) (t : Tok) : State :=
  let c := s.collar (stripOf u)
  s.setCollar (stripOf u) { c with faultIn := c.faultIn ++ [{ t with at' := s.cycle + 1 + undef s 652 }] }

/-- A record goes on vc31 to the corner of the die's strip: an element's by its box, and the payload reader's, which
has no box, by the mesh (R121, R375). DEDUCED: notes/assumptions/96.md. -/
def sendFault (s : State) (f : FRec) : State :=
  let t : Tok := { vc := 31, lcnt := 16, val := lineOfBytes f.bytes, rgn := f.ctx % 4, slot := bits f.ctx 3 2
                   plane := bits f.ctx 5 4, src := f.unit, at' := s.cycle, flt := true }
  if f.unit < 256 then
    let x := s.elemOf f.tile f.unit
    s.setElem f.tile f.unit { x with flt := x.flt ++ [t] }
  else toStrip s f.tile t

/-- CTX of a record: region, slot, plane, class 0. -/
def ctxByte (rgn slot plane : Nat) : Nat := rgn % 4 + 4 * (slot % 4) + 16 * (plane % 4)

/-- What a fault of an element tells beyond its cause. -/
structure FInfo where
  detail : Nat := 0
  lanes : Nat := 0
  addr : Nat := 0
  pos : Option Nat := none
  idx : List Nat := []
deriving DecidableEq, Repr

/-- A task has met LOG_FULL (R370). -/
def noteLogFull (s : State) (n : Option Nat) : State :=
  match n with
  | some n => s.setTask n { s.task n with logFull := true }
  | none => s

/-- An element raises a data-class fault: it fires no further until a repair (R375). -/
def elemFault (s : State) (u e slot p cause : Nat) (i : FInfo) : State :=
  let c := s.collar u
  let x := c.elem e
  if x.fault.isSome then s
  else
    let y := x.plane p
    let q := if i.detail % 8 < 4 then i.detail % 8 else (srcQ y.eop).headD 0
    let f : FRec :=
      { cause := cause, tile := u, unit := e, ctx := ctxByte (regionNum c e) slot p
        fseq := (x.fseq + 1) % 256, lanes := i.lanes, addr := i.addr
        pos := i.pos.getD (tget 0 y.taken q), asid := elemAsid s u e, detail := i.detail, idx := i.idx }
    let y1 := if 0x30 ≤ cause ∧ cause ≤ 0x33 then { y with trapped := true } else y
    let s := if cause = 0x1A then noteLogFull s ((regionOf c e).bind fun r => (c.region r).task) else s
    sendFault (s.setElem u e { x.setPlane p y1 with fault := some f, fseq := f.fseq, place := i.detail % 8 }) f

/-! ### Counters (R135, R136) -/

/-- One of FIRE, NOA, NOB, NOC, NOSP, PENN, GATE, MEM, HOLD counts, and stops at its end. -/
def Plane.count (y : Plane) (k : Nat) : Plane :=
  { y with bank := { y.bank with ctr := tput y.bank.ctr k (min 0xFFFFFFFF (tget 0 y.bank.ctr k + 1)) } }
def kFIRE : Nat := 0
def kNOA : Nat := 1
def kNOSP : Nat := 4
def kPENN : Nat := 5
def kGATE : Nat := 6
def kMEM : Nat := 7
def kHOLD : Nat := 8

/-- The acting element counts a stall. DEDUCED: notes/assumptions/61.md. -/
def stallBy (s : State) (k : Nat) : State :=
  s.setPlane s.cur.unit s.cur.elem s.cur.plane
    ((s.planeOf s.cur.unit s.cur.elem s.cur.plane).count k)

/-! ### Slots (R129, R435, R436) -/

/-- The row a running drain may take in this tile cycle (R196, R289). -/
def drainDue (x : Tile) : Option Drain :=
  match x.arr.drains with
  | [] => none
  | d :: _ =>
    if d.next < d.cnt ∧ rowClear x (d.first + d.next) d.ord 0 = true then some d else none

/-- The drain with a row due in the cycle that begins: the row could be read in the tile cycle before it
(R196). -/
def dueDrain (x : Tile) : Option Drain :=
  if x.ran || x.runOn then drainDue x else (drainDue x).filter fun d => x.arr.dueRow == some (d.first + d.next)

/-- Whether the operation is one of the source operations that fire starts (R129, R174). -/
def isSource (y : Plane) : Bool :=
  let op := y.opcode
  (op == 0x02 || op == 0x05) || ((op == 0x3E || op == 0x40) && (srcQ y.eop).isEmpty)

/-- An element has work for a slot in its current plane, at the start of a cycle (R129, R436): tokens in
the queues its operation sources, emissions that remain of a firing, a stream, a held reply, or a due row.
DEDUCED: notes/assumptions/61.md. -/
def elemBusy (s : State) (u e slot p : Nat) : Bool :=
  let x := s.elemOf u e
  let y := x.plane p
  y.trapped || ((srcQ y.eop).any fun q => !(y.queue q).isEmpty)
  || !y.bank.st.outq.isEmpty
  || (isSource y && y.bank.st.on)
  || ((y.opcode == 0x45 || y.opcode == 0x46) && x.inbox.any fun t => t.slot == slot)
  || (y.opcode == 0x44 && decide (u < 64)
      && (match dueDrain (s.tile u) with
          | some d => d.arr == some ((regionOf (s.collar u) e).getD 4, slot)
          | none => false))

/-- Elements of a region that hold a current plane for a slot, with it. -/
def slotElems (c : Collar) (r : Region) (slot : Nat) : List (Nat × Nat) :=
  c.elems.filterMap fun (e, x) => if bit r.emask e then (x.curOf slot).map fun p => (e, p) else none

/-- A slot is idle (R129). -/
def slotIdle (s : State) (u : Nat) (r : Region) (slot : Nat) : Bool :=
  (slotElems (s.collar u) r slot).all fun (e, p) => !elemBusy s u e slot p

/-- The slot a region selects: the first armed slot after the last selected that is not idle, the
last itself last of all; before any selection the order begins at slot 0 (R129). -/
def selectSlot (s : State) (u : Nat) (r : Region) : Option Nat :=
  if r.frozen then none
  else
    ([1, 2, 3, 4].map fun k => (r.last.getD 3 + k) % 4).find? fun sl =>
      r.armed.contains sl && !slotIdle s u r sl

/-! ### Element output (R124) -/

/-- Key of an element's output in `Collar.full`. -/
def outKey (e : Nat) : Nat := 4096 + e

/-- Room for one more result, counting those still in the pipeline, as at the start of the cycle. -/
def outRoom (c : Collar) (e : Nat) : Bool :=
  !c.full.contains (outKey e)
  && decide ((c.elem e).out.length + (c.elem e).pout.length < (elemType e).lat + 2)

end Sys2Proof.Machine
end

