-- ==== Sys2Proof/Machine/Fire.lean ====
section
/-!
DEFINITION. How an element fires: queues, pennants, gates, output space, end of stream, guards,
domains and banners (R119, R120, R124, R135, R140, R143-R147, R176, R381), and how results of
value-wise operations are made (R42, R47-R50, R143, R144).
-/
namespace Sys2Proof.Machine

/-- What a firing sees. -/
structure FCtx where
  s : State
  u : Nat
  e : Nat
  slot : Nat
  p : Nat
  y : Plane
  o : EOp
  /-- Heads of the queues the operation sources. -/
  toks : List (Nat × Tok)
  pen : Option Pen
  /-- Every token to be consumed carries EOS (R145). -/
  eos : Bool
  /-- Input format (R142). -/
  inF : Nat

/-- What a firing does. -/
structure Act where
  use : List Nat
  /-- It consumes the pennant, if the operation has one. -/
  pen : Bool := true
  out : Option Tok := none
  pout : Option Pen := none
  /-- It emits or ends a stream with EOS by another way than `out` and `pout`. -/
  eos : Bool := false
  bank : Bank

inductive Fr where
  | act (a : Act)
  | fault (cause : Nat) (i : FInfo)
  | stall (k : Nat)
  | idle

/-- How an operation takes part in the firing rules. -/
structure FKind where
  /-- It has the gate of R147. -/
  gated : Bool := false
  /-- It has no data result, and no pennant result. -/
  bare : Bool := false
  /-- The pennant is an operand, not a guard (R147, R165). -/
  penArg : Bool := false
  /-- It treats its guard itself. -/
  ownGuard : Bool := false
  /-- It chooses its own queues and matches EOS itself. -/
  own : Bool := false
  /-- EOS is that of queue a, and the other queues' is matched by the operation (R156). -/
  eosA : Bool := false
  /-- It waits for memory, whatever else it lacks (R135, R159). -/
  wait : Bool := false
deriving DecidableEq, Repr

/-! ### Sidebands (R118, R143) -/

/-- The token whose DOM, SEQ and EOS a result takes: of queue a, or of the first sourced queue. -/
def FCtx.like (c : FCtx) : Option Tok := (c.toks.head?).map (·.2)
def FCtx.tok (c : FCtx) (q : Nat) : Option Tok := (c.toks.find? fun x => x.1 == q).map (·.2)
/-- LCNT of a token of `v` values of width `w` (R143). -/
def lcntOf (v w : Nat) : Nat := max 1 (min 16 ((v * w + 31) / 32))

/-- A result token before it enters the pipeline (R118, R143): of values of width `w`. An operation
that consumes no token makes one whose SEQ is a free value. -/
def FCtx.res (c : FCtx) (w v : Nat) (vals : List Nat) (eos : Bool) : Tok :=
  let l := c.like
  { vc := c.o.ovc.toNat, eos := eos, lcnt := lcntOf v w
    dom := (l.map (·.dom)).getD 0
    seq := (l.map (·.seq)).getD (choose c.s 600 16)
    val := lineOf w (vals.take v) }

/-! ### Operands (R140, R142) -/

/-- The select of operand a, b or c. -/
def FCtx.sel (c : FCtx) (which : Nat) : Nat :=
  if which = 0 then c.o.sa.toNat else if which = 1 then c.o.sb.toNat else c.o.sc.toNat

/-- CREG of the token consumed from queue a, or b if a is not sourced, or 0 (R140). -/
def FCtx.creg (c : FCtx) : Nat :=
  match c.tok 0 with
  | some t => vcCreg (c.y.vc t.vc)
  | none => match c.tok 1 with
    | some t => vcCreg (c.y.vc t.vc)
    | none => 0

def FCtx.n (c : FCtx) : Nat := 512 / wOf c.inF
/-- Valid values: from the smallest LCNT among the consumed tokens (R143). -/
def FCtx.v (c : FCtx) : Nat :=
  (c.toks.foldl (fun m t => min m t.2.lcnt) 16) * 32 / wOf c.inF

/-- Format and codes of an operand. -/
def FCtx.operand (c : FCtx) (which : Nat) : Nat × List Nat :=
  let sel := c.sel which
  let w := wOf c.inF
  let n := c.n
  if sel < 3 then
    let f := if qFmt c.y sel = 0 then c.inF else qFmt c.y sel
    (f, valuesOf (wOf f) (((c.tok sel).map (·.val)).getD 0))
  else if sel = 3 then (c.inF, valuesOf w (tget 0 c.y.bank.e c.o.reg.toNat))
  else if sel = 4 then (c.inF, List.replicate n (c.y.const % 2 ^ w))
  else if sel = 5 then
    let l := valuesOf 32 (tget 0 c.y.bank.c c.creg)
    (1, tabulate n fun i => l.getD (16 * i / n) 0)
  else (c.inF, List.replicate n 0)

/-- Value `i` of an operand, as an exact value under the special-value policy (R49). -/
def valAt (x : Nat × List Nat) (flush : Bool) (i : Nat) : Val := decodeSv x.1 flush (x.2.getD i 0)
/-- Value `i` of an operand as an exact integer (R150); a scale has no integer reading, so the value
is free. -/
def FCtx.intAt (c : FCtx) (which : Nat) (x : Nat × List Nat) (i : Nat) : Int :=
  if c.sel which = 5 then sextInt 32 (undef c.s (700 + i))
  else if fmtSigned x.1 then sextInt (wOf x.1) (x.2.getD i 0) else (x.2.getD i 0 : Nat)

/-! ### Draws, flags and traps (R47-R50, R381) -/

def iterate (n : Nat) (x : Nat) : Nat :=
  match n with
  | 0 => x
  | n + 1 => iterate n (lfsrStep x)
/-- The draw of value `i` of `n`: lanes draw in ascending order of value (R48). DEDUCED: notes/assumptions/63.md. -/
def drawAt (gens : List Nat) (n i : Nat) : Nat :=
  let per := if n < 16 then 1 else n / 16
  iterate (i % per + 1) (gens.getD (i / per) 1)
/-- The generators after a firing of `n` values: every lane has drawn (R48). -/
def gensAfter (gens : List Nat) (n : Nat) : List Nat :=
  gens.map (iterate (if n < 16 then 1 else n / 16))

/-- Flags and counters of a bank after a firing (R50). -/
def Bank.addFl (b : Bank) (f : Fl) : Bank :=
  { b with
    iv := b.iv || f.iv, dz := b.dz || f.dz, ovf := b.ovf || f.ovf, uf := b.uf || f.uf
    sclamp := b.sclamp || f.sclamp, sat := min 0xFFFF (b.sat + f.sat), ufl := min 0xFFFF (b.ufl + f.ufl) }

/-- The special-value policy of an operation word (R49). -/
def FCtx.flush (c : FCtx) : Bool := c.o.sv == 1
/-- Rounding mode of value `i` of `n` (R47). -/
def FCtx.rm (c : FCtx) (n i : Nat) : RMode :=
  { rnd := c.y.rnd.rnd, draw := if c.y.sr then some (drawAt c.y.bank.gens n i) else none }

/-- DETAIL of an arithmetic trap: queue a, and for DIV0 the divisor's queue (R374, R437). -/
def FCtx.trapQueue (c : FCtx) (cause divisor : Nat) : Nat :=
  let pick (k : Nat) : Nat := if c.sel k < 3 then c.sel k else 4
  if cause = 0x31 then pick divisor
  else if (c.tok 0).isSome then 0
  else match c.toks with
    | t :: _ => t.1
    | [] => 4

/-- The values of a firing after the policy of R49 and a repair of R377: their codes and flags, or the
trap. `n` values share the 16 lanes; `traps` lists the causes that count here. -/
def FCtx.settle (c : FCtx) (n w divisor : Nat) (on : Bool) (rs : List Rnd) : Except (Nat × FInfo) (List Nat × Fl) :=
  let hits := (List.range rs.length).filterMap fun i =>
    ((rs.getD i { code := 0 }).fl.cause).map fun k => (i, k)
  let clean := (rs.map (·.code), rs.foldl (fun f r => f.or r.fl) {})
  if hits.isEmpty ∨ on = false then .ok clean
  else match c.y.bank.st.grant with
    | some 1 =>
      .ok (rs.map fun r => if r.fl.cause.isSome then c.y.bank.st.value % 2 ^ w else r.code,
           rs.foldl (fun f r => if r.fl.cause.isSome then f else f.or r.fl) {})
    | some _ => .ok clean
    | none =>
      let cause := hits.foldl (fun m h => min m h.2) 0x3F
      let lanes := (hits.map fun h => 16 * h.1 / n).foldl (fun m l => m ||| 2 ^ l) 0
      .error (cause, { detail := c.trapQueue cause divisor, lanes := lanes })

/-! ### Value-wise results (R143, R144) -/

/-- A value-wise operation of one width: `f i` is result value `i` (R143). `draws` says that it draws
under SR (R48). DEDUCED: notes/assumptions/63.md. -/
def FCtx.valueWise (c : FCtx) (fmt divisor : Nat) (draws : Bool) (f : Nat → Rnd) : Fr :=
  let w := if fmt = 0 then wOf c.inF else wOf fmt
  let n := c.n
  match c.settle n w divisor (c.o.sv == 2) (tabulate c.v f) with
  | .error (cause, i) => .fault cause i
  | .ok (vals, fl) =>
    let b := c.y.bank.addFl fl
    let b := if draws && c.y.sr then { b with gens := gensAfter b.gens n } else b
    .act { use := srcQ c.o, out := some (c.res w c.v vals c.eos), bank := b }

/-- Reserved t2 codes among input values `lo` to `lo + n - 1` count (R41, R155). -/
def FCtx.rsvIn (c : FCtx) (b : Bank) (lo n : Nat) : Bank :=
  if c.inF ≠ 13 then b
  else
    let k := (((c.operand 0).2.drop lo).take n).countP (· == 2)
    { b with rsv := min 0xFFFF (b.rsv + k) }

/-- A conversion that may change the width (R144). `f i r` is the result of input value `i`, drawn in
its lane of the wider token; `use` are the queues consumed with the input. -/
def FCtx.rated (c : FCtx) (use : List Nat) (fmt : Nat) (draws : Bool) (f : Nat → RMode → Rnd) : Fr :=
  let win := wOf c.inF
  let wout := wOf fmt
  let st := c.y.bank.st
  let sv2 := c.o.sv == 2
  let adv (b : Bank) (n : Nat) : Bank :=
    if draws && c.y.sr then { b with gens := gensAfter b.gens n } else b
  let rm (n i : Nat) : RMode := if draws then c.rm n i else c.y.rnd
  if wout ≤ win then
    -- one firing per input token; k of them make a result token
    let n := 512 / win
    match c.settle n wout 0 sv2 (tabulate c.v fun i => f i (rm n i)) with
    | .error (cause, i) => .fault cause i
    | .ok (vals, fl) =>
      let b := adv ((c.rsvIn c.y.bank 0 c.v).addFl fl) n
      let all := st.vals ++ vals
      let seq := if st.k = 0 then (c.like.map (·.seq)).getD 0 else st.seq0
      if st.k + 1 ≥ win / wout ∨ c.eos = true then
        .act { use := use, out := some { c.res wout all.length all c.eos with seq := seq }
               bank := { b with st := { st with vals := [], k := 0 } } }
      else
        .act { use := use, bank := { b with st := { st with vals := all, k := st.k + 1, seq0 := seq } } }
  else
    -- k firings per input token
    let n := 512 / wout
    let lo := st.ph * n
    let cnt := min n (c.v - lo)
    let last := decide (lo + n ≥ c.v)
    match c.settle n wout 0 sv2 (tabulate cnt fun i => f (lo + i) (rm n i)) with
    | .error (cause, i) => .fault cause i
    | .ok (vals, fl) =>
      let b := adv ((c.rsvIn c.y.bank lo cnt).addFl fl) n
      .act { use := if last then use else [], pen := last
             out := some (c.res wout cnt vals (last && c.eos))
             bank := { b with st := { st with ph := if last then 0 else st.ph + 1 } } }

/-! ### Firing -/

/-- The result enters the pipeline (R118, R124). -/
def stamp (s : State) (t : Tok) : Tok :=
  { t with rgn := regionNum (s.collar s.cur.unit) s.cur.elem, slot := s.cur.slot, plane := s.cur.plane
           src := s.cur.elem, at' := s.cycle }

/-- The elements of R147 that close gates: some element of the region and slot is TRAPPED. -/
def gateClosed (s : State) (u e slot : Nat) : Bool :=
  let c := s.collar u
  match regionOf c e with
  | none => false
  | some r => (slotElems c (c.region r) slot).any fun (f, p) => ((c.elem f).plane p).trapped

/-- The table as a token is decoded: a memory node's reply brings its format (R105). DEDUCED: notes/assumptions/59.md. -/
def Plane.decodeAs (y : Plane) (t : Tok) : Plane :=
  match t.fmt with
  | some f => { y with vct := y.vct.map fun (v, n) => (v, if v = t.vc then n / 16 * 16 + f % 16 else n) }
  | none => y

/-- What a firing makes of its plane, with the table as the image gave it. -/
def FCtx.keep (c : FCtx) (y : Plane) : Plane := { y with vct := (c.s.planeOf c.u c.e c.p).vct }

/-- Consume the heads of queues, and the pennant. -/
def Plane.consume (y : Plane) (qs : List Nat) (pen : Bool) : Plane :=
  let y1 := qs.foldl (fun y q =>
    { y.setQueue q ((y.queue q).drop 1) with taken := tput y.taken q (tget 0 y.taken q + 1) }) y
  if pen then { y1 with qp := y1.qp.drop 1, taken := tput y1.taken 3 (tget 0 y1.taken 3 + 1) } else y1

/-- A firing that consumes the queues `use` ends the element's stream: EOS on every queue it sources (R130). hinv
takes a segment without rows from queue b alone (R166). -/
def FCtx.endsAt (c : FCtx) (use : List Nat) : Bool :=
  (use.all fun q => ((c.tok q).map (·.eos)).getD false)
    && ((srcQ c.o).all (use.contains ·) || c.y.opcode == 0x3C)

/-- What the stream's last consumption started is all emitted (R130, R209): no token remains, and no triggered
stream goes on. -/
def Plane.emitted (y : Plane) : Bool := y.bank.st.outq.isEmpty && !(y.bank.st.on && (y.opcode == 0x3E || y.opcode == 0x40)
  && !(srcQ y.eop).isEmpty)

/-- A firing takes effect (R124). -/
def applyAct (s : State) (c : FCtx) (a : Act) : State :=
  let x := s.elemOf c.u c.e
  let eosIn := a.use.any fun q => ((c.tok q).map (·.eos)).getD false
  let eosOut := (a.out.map (·.eos)).getD false || (a.pout.map (·.eos)).getD false || a.eos
  let y := c.y.consume a.use (a.pen && c.o.pg)
  let ended := if a.use.isEmpty then (if (srcQ c.o).isEmpty then eosOut else y.ended) else c.endsAt a.use
  let y := { y with bank := { a.bank with st := { a.bank.st with grant := none } }
                    trapped := false, atend := eosIn || eosOut, ended := ended }
  let due := s.cycle + (elemType c.e).lat
  -- its final firing in the old plane of a switch (R130)
  let final := x.switching.contains c.slot && y.ended && y.emitted
  let x := if final then { x with final := tput x.final c.slot s.cycle } else x
  let out := match a.out with
    | some t => x.out ++ [{ tok := stamp s t, ready := due }]
    | none => x.out
  let pout := match a.pout with
    | some t => x.pout ++ [{ pen := { t with rgn := regionNum (s.collar c.u) c.e, slot := c.slot,
                                             plane := c.p, src := c.e, at' := s.cycle }, ready := due }]
    | none => x.pout
  s.setElem c.u c.e { x.setPlane c.p (c.keep (y.count kFIRE)) with out := out, pout := pout }

/-- Discard the tokens in front of a queue's EOS token, counting them (R145). -/
def drainTo (y : Plane) (q : Nat) : Plane :=
  let l := y.queue q
  let rest := l.dropWhile fun t => !t.eos
  let n := l.length - rest.length
  { y.setQueue q rest with
    taken := tput y.taken q (tget 0 y.taken q + n)
    bank := { y.bank with disc := min 0xFFFF (y.bank.disc + n) } }

/-- Operations that take a token of the Haar domain (R176). -/
def domOk (c : FCtx) : Bool :=
  let op := c.y.opcode
  let same := c.toks.all fun t => t.2.dom == (c.like.map (·.dom)).getD 0
  if c.toks.all fun t => t.2.dom == 0 then true
  else if [0x01, 0x06, 0x03, 0x04, 0x28, 0x29, 0x2A, 0x1E, 0x42, 0x44, 0x3F, 0x41, 0x45, 0x3C, 0x3D].contains op
  then true
  else if [0x18, 0x19, 0x08, 0x09].contains op then same
  else if [0x1A, 0x0A, 0x1B].contains op then
    decide (c.sel 1 ≥ 3) && (c.sel 2 == 6 || (decide (c.sel 2 < 3) && same))
  else false

/-- The bank is saved at the next banner (R120, R386). -/
def Plane.saveCut (y : Plane) (b : Bank) : Plane :=
  { y with bnrs := y.bnrs + 1, cuts := y.cuts ++ [(y.bnrs + 1, b)] }

/-- A banner is consumed from every sourced queue: the bank is saved and one banner emitted (R120,
R386). An operation with no data result passes none on. DEDUCED: notes/assumptions/61.md. -/
def bannerCut (s : State) (c : FCtx) (bare : Bool) : State :=
  let y := c.y.consume (srcQ c.o) false
  -- bnr counts its tokens from the last banner (R175)
  let b := if y.opcode = 0x03 then { y.bank with st := { y.bank.st with cnt := 0 } } else y.bank
  let y := { y with bank := b, atend := false, ended := false }.saveCut b
  let t : Tok := { c.res 32 16 [] false with bnr := true, lcnt := 16 }
  let x := (s.elemOf c.u c.e).setPlane c.p (c.keep (y.count kFIRE))
  let x := if bare then x
    else { x with out := x.out ++ [{ tok := stamp s t, ready := s.cycle + (elemType c.e).lat }] }
  s.setElem c.u c.e x

/-- The firing context of the acting element. The format of a reply at a queue's head stands in its entry of the
table (R105). -/
def fctx (s : State) (o : EOp) : FCtx :=
  let u := s.cur.unit
  let e := s.cur.elem
  let y := s.planeOf u e s.cur.plane
  let toks := (srcQ o).filterMap fun q => ((y.queue q).head?).map fun t => (q, t)
  let y := toks.foldl (fun y t => y.decodeAs t.2) y
  { s := s, u := u, e := e, slot := s.cur.slot, p := s.cur.plane, y := y, o := o, toks := toks
    pen := y.qp.head?, eos := !toks.isEmpty && toks.all (·.2.eos), inF := inFmt y o }

/-- An emission that remains of an earlier firing: one token per firing (R152, R166, R207). -/
def emitPending (s : State) (c : FCtx) (t : Tok) (rest : List Tok) : State :=
  if outRoom (s.collar c.u) c.e then
    let b := { c.y.bank with st := { c.y.bank.st with outq := rest } }
    let c := if t.bnr then { c with y := c.y.saveCut b } else c
    applyAct s c { use := [], pen := false, out := some t, bank := b }
  else stallBy s kNOSP

/-- The guard's value: with pg, the pennant XOR pp (R147). -/
def FCtx.guard (c : FCtx) : Bool :=
  !c.o.pg || match c.pen with
    | some t => t.val != c.o.pp
    | none => true

/-- The banner interval of the acting element's region (R386). -/
def FCtx.k (c : FCtx) : Nat :=
  match regionOf (c.s.collar c.u) c.e with
  | some r => ((c.s.collar c.u).region r).k
  | none => 0

/-- A firing whose guard is 0 consumes its tokens and pennant and does nothing else (R147); algn's e[reg] is the
token consumed last, or zero after EOS (R162). -/
def skipFire (s : State) (c : FCtx) : State :=
  let b := { c.y.bank with st := { c.y.bank.st with ph := 0 } }
  let b := match c.y.opcode, c.tok 0 with
    | 0x32, some t => { b with e := tput b.e c.o.reg.toNat (if t.eos then 0 else t.val) }
    | _, _ => b
  applyAct s c { use := srcQ c.o, bank := b }

/-- The guard of a firing that makes its tokens itself (R119, R147): `use` are the queues it consumes. With guard
0 it consumes them and the pennant, and does nothing else. DEDUCED: notes/assumptions/62.md. -/
def guardedSource (s : State) (c : FCtx) (use : List Nat) (k : State) : State :=
  if !c.o.pg then k
  else match c.pen with
    | none => stallBy s kPENN
    | some t =>
      if use.any fun q => (c.tok q).map (·.eos) != some t.eos then
        stallBy (elemFault s c.u c.e c.slot c.p 0x23 { detail := 3 }) kGATE
      else if c.guard then k else applyAct s c { use := use, bank := c.y.bank }

/-- Operations that the gate of R147 closes: they fire after what may open it (R378). -/
def gatedOp (op : Nat) : Bool := op == 0x3F || op == 0x41 || op == 0x45

/-- The counter of a cycle in which nothing but the firing itself is in the way (R135). -/
def FCtx.lacks (c : FCtx) : Nat := if c.o.pg && c.pen.isNone then kPENN else kGATE

/-- Take what the operation makes of the firing. -/
def settleFire (s : State) (c : FCtx) (r : Fr) : State :=
  match r with
  | .act a => applyAct s c a
  | .fault cause i => stallBy (elemFault s c.u c.e c.slot c.p cause i) kGATE
  | .stall k => stallBy s k
  | .idle => s

/-- EOS at the head of some queues only (R145). -/
def eosMismatch (s : State) (c : FCtx) : State :=
  let q := ((c.toks.find? fun t => !t.2.eos).map (·.1)).getD 0
  if c.y.eosp then
    s.setPlane c.u c.e c.p (c.keep (((c.toks.filter fun t => !t.2.eos).map (·.1)).foldl drainTo c.y))
  else stallBy (elemFault s c.u c.e c.slot c.p 0x22 { detail := q }) c.lacks

/-- A token of the Haar domain that the operation does not take (R176). -/
def domFault (s : State) (c : FCtx) : State :=
  let q := ((c.toks.find? fun t => t.2.dom != 0).map (·.1)).getD 4
  stallBy (elemFault s c.u c.e c.slot c.p 0x3A { detail := q }) kGATE

/-- A lut that does not yet hold all lines of its table (R159). -/
def Plane.lacksTable (y : Plane) : Bool := y.opcode == 0x2C && decide (y.bank.st.table.length < 33)

/-- One cycle of an element whose slot is selected (R124, R135): what it does when nothing stops it is
`f`'s, else it stalls or faults. -/
def elemFireWith (s : State) (o : EOp) (k : FKind) (f : FCtx → State) : State :=
  let c := fctx s o
  let c := if k.penArg then { c with o := { c.o with pg := true } } else c
  let o := c.o
  let c := if k.eosA then { c with eos := ((c.tok 0).map (·.eos)).getD false } else c
  let x := s.elemOf c.u c.e
  let qs := srcQ o
  let missing := qs.filter fun q => (c.y.queue q).isEmpty
  match c.y.bank.st.outq with
  | t :: rest => if x.fault.isSome then stallBy s kGATE else emitPending s c t rest
  | [] =>
    if k.wait && (qs.isEmpty || missing != qs) then stallBy s kMEM
    else if !qs.isEmpty && missing == qs && !c.y.trapped then s
    else if x.fault.isSome then (if k.own then stallBy s kGATE else match missing with
      | q :: _ => stallBy s (kNOA + q)
      | [] => stallBy s c.lacks)
    else if !qs.isEmpty && missing.isEmpty && c.toks.all (·.2.bnr) then
      (if k.gated && gateClosed s c.u c.e c.slot then stallBy s kGATE
       else if k.bare || outRoom (s.collar c.u) c.e then bannerCut s c k.bare else stallBy s kNOSP)
    else if k.own then f c
    else match missing with
      | q :: _ => stallBy s (kNOA + q)
      | [] =>
        if c.toks.any (·.2.bnr) then stallBy s c.lacks
        else if !k.eosA && c.toks.any (·.2.eos) && !c.eos then eosMismatch s c
        else if o.pg && c.pen.isNone then stallBy s kPENN
        else if k.gated && gateClosed s c.u c.e c.slot then stallBy s kGATE
        else if !k.bare && !outRoom (s.collar c.u) c.e then stallBy s kNOSP
        else if o.pg && !c.toks.isEmpty && (c.pen.map (·.eos)) != some c.eos then
          stallBy (elemFault s c.u c.e c.slot c.p 0x23 { detail := 3 }) kGATE
        else if !k.penArg && !k.ownGuard && !c.guard then skipFire s c
        else if !domOk c then domFault s c
        else f c

/-- One cycle of an element whose slot is selected: it fires as `f` says. -/
def elemFire (o : EOp) (k : FKind) (f : FCtx → Fr) (s : State) : State :=
  elemFireWith s o k fun c => settleFire s c (f c)

end Sys2Proof.Machine
end

