-- ==== Sys2Proof/Machine/Scalar.lean ====
section
/-!
DEFINITION. Slot A: scalar integer instructions (R251-R255).
-/
namespace Sys2Proof.Machine

/-- Two register sources, one result of latency `L` (R222, R252). -/
def scalar2 (s : State) (d a b : Reg) (L : Nat) (f : W64 → W64 → W64) : Out :=
  writeFixed s (.s d.toNat) (f (s.rdS 1 a) (s.rdS 2 b)).toNat L
/-- One register source (R222, R252). -/
def scalar1 (s : State) (d a : Reg) (L : Nat) (f : W64 → W64) : Out :=
  writeFixed s (.s d.toNat) (f (s.rdS 1 a)).toNat L

/-- An exact integer result modulo 2^64 (R252). -/
def ofInt64 (i : Int) : W64 := BitVec.ofInt 64 i

def execAdd (d a b : Reg) (s : State) : Out := scalar2 s d a b 1 fun x y => x + y
def execSub (d a b : Reg) (s : State) : Out := scalar2 s d a b 1 fun x y => x - y
def execMul (d a b : Reg) (s : State) : Out := scalar2 s d a b 3 fun x y => x * y
/-- mulh: the high half of the exact product, floored (R252). -/
def execMulh (u : Bool) (d a b : Reg) (s : State) : Out :=
  scalar2 s d a b 3 fun x y => ofInt64 (readU u x * readU u y / 2 ^ 64)
/-- div and rem fault on a divisor of 0 (R253). -/
def divRem (s : State) (d a b : Reg) (f : W64 → W64 → W64) : Out :=
  if s.rdS 2 b = 0 then issueFault s 0x31 0 0 else scalar2 s d a b 20 f
def execDiv (u : Bool) (d a b : Reg) (s : State) : Out :=
  divRem s d a b fun x y => ofInt64 (Int.tdiv (readU u x) (readU u y))
def execRem (u : Bool) (d a b : Reg) (s : State) : Out :=
  divRem s d a b fun x y => ofInt64 (Int.tmod (readU u x) (readU u y))
def execAnd (d a b : Reg) (s : State) : Out := scalar2 s d a b 1 fun x y => x &&& y
def execOr (d a b : Reg) (s : State) : Out := scalar2 s d a b 1 fun x y => x ||| y
def execXor (d a b : Reg) (s : State) : Out := scalar2 s d a b 1 fun x y => x ^^^ y
/-- Shift counts are b[5:0] (R252). -/
def execShl (d a b : Reg) (s : State) : Out := scalar2 s d a b 1 fun x y => x <<< (y.toNat % 64)
def execShr (d a b : Reg) (s : State) : Out := scalar2 s d a b 1 fun x y => x >>> (y.toNat % 64)
def execSra (d a b : Reg) (s : State) : Out :=
  scalar2 s d a b 1 fun x y => x.sshiftRight (y.toNat % 64)
def execMin (u : Bool) (d a b : Reg) (s : State) : Out :=
  scalar2 s d a b 1 fun x y => if readU u x ≤ readU u y then x else y
def execMax (u : Bool) (d a b : Reg) (s : State) : Out :=
  scalar2 s d a b 1 fun x y => if readU u x ≤ readU u y then y else x
def execSlt (u : Bool) (d a b : Reg) (s : State) : Out :=
  scalar2 s d a b 1 fun x y => if readU u x < readU u y then 1 else 0
def execSel (d a b c : Reg) (s : State) : Out :=
  scalar2 s d a b 1 fun x y => if s.rdS 3 c ≠ 0 then x else y
def execSadd (d a b : Reg) (sh : BitVec 2) (s : State) : Out :=
  scalar2 s d a b 1 fun x y => x + (y <<< (sh.toNat + 1))

/-- Leading zero bits of the low `w` bits (R252). -/
def leadingZeros (w : Nat) (x : W64) : Nat :=
  let n := x.toNat % 2 ^ w
  if n = 0 then w else w - 1 - Nat.log2 n
/-- One bits among the low `w` bits (R252). -/
def onesOf (w : Nat) (x : Nat) : Nat := ((List.range w).filter fun i => bit x i).length

def execClz (w : Bool) (d a : Reg) (s : State) : Out :=
  scalar1 s d a 1 fun x => BitVec.ofNat 64 (leadingZeros (if w then 32 else 64) x)
def execPopc (w : Bool) (d a : Reg) (s : State) : Out :=
  scalar1 s d a 1 fun x => BitVec.ofNat 64 (onesOf (if w then 32 else 64) x.toNat)

/-- Field position of bext and bins (R254). -/
def fieldPos (b : W64) : Nat := bits b.toNat 5 0
/-- Field length of bext and bins (R254). -/
def fieldLen (b : W64) : Nat := min 64 (bits b.toNat 14 8)

/-- bext (R254). -/
def bextOf (sx : Bool) (a b : W64) : W64 :=
  let len := fieldLen b
  let f := (a.toNat >>> fieldPos b) % 2 ^ len
  if len = 0 then 0 else if sx then ofInt64 (sextInt len f) else BitVec.ofNat 64 f
/-- bins (R254). -/
def binsOf (old a b : W64) : W64 :=
  let pos := fieldPos b
  let mask : W64 := BitVec.ofNat 64 ((2 ^ fieldLen b - 1) <<< pos)
  (old &&& ~~~mask) ||| (BitVec.ofNat 64 (a.toNat <<< pos) &&& mask)

def execBext (sx : Bool) (d a b : Reg) (s : State) : Out := scalar2 s d a b 1 (bextOf sx)
def execBins (d a b : Reg) (s : State) : Out := scalar2 s d a b 1 (binsOf (s.rdS 3 d))

def execAddi (d a : Reg) (imm : BitVec 15) (s : State) : Out := scalar1 s d a 1 fun x => x + sext64 imm
def execMuli (d a : Reg) (imm : BitVec 15) (s : State) : Out := scalar1 s d a 3 fun x => x * sext64 imm
def execAndi (d a : Reg) (imm : BitVec 15) (s : State) : Out :=
  scalar1 s d a 1 fun x => x &&& sext64 imm
def execOri (d a : Reg) (imm : BitVec 15) (s : State) : Out :=
  scalar1 s d a 1 fun x => x ||| sext64 imm
def execXori (d a : Reg) (imm : BitVec 15) (s : State) : Out :=
  scalar1 s d a 1 fun x => x ^^^ sext64 imm
def execShli (d a : Reg) (amt : BitVec 6) (s : State) : Out :=
  scalar1 s d a 1 fun x => x <<< amt.toNat
def execShri (d a : Reg) (amt : BitVec 6) (s : State) : Out :=
  scalar1 s d a 1 fun x => x >>> amt.toNat
def execSrai (d a : Reg) (amt : BitVec 6) (s : State) : Out :=
  scalar1 s d a 1 fun x => x.sshiftRight amt.toNat
def execSlti (d a : Reg) (imm : BitVec 15) (s : State) : Out :=
  scalar1 s d a 1 fun x => if x.toInt < imm.toInt then 1 else 0
def execMini (d a : Reg) (imm : BitVec 15) (s : State) : Out :=
  scalar1 s d a 1 fun x => if x.toInt ≤ imm.toInt then x else sext64 imm
def execMaxi (d a : Reg) (imm : BitVec 15) (s : State) : Out :=
  scalar1 s d a 1 fun x => if x.toInt ≤ imm.toInt then sext64 imm else x

/-- li20 (R255). -/
def execLi20 (d : Reg) (imm : BitVec 20) (s : State) : Out :=
  writeFixed s (.s d.toNat) (sext64 imm).toNat 1
/-- lih reads d (R255). -/
def execLih (d : Reg) (imm : BitVec 20) (s : State) : Out :=
  scalar1 s d d 1 fun x => (x <<< 20) ||| imm.setWidth 64

end Sys2Proof.Machine
end

