-- ==== Sys2Proof/Machine/Vector.lean ====
section
/-!
DEFINITION. Slot A: the side vector unit and the masks (R257-R271), and the landing of results.
-/
namespace Sys2Proof.Machine

/-- A lane read as f32 under the mode (R49, R258). -/
def laneF (m : VMode) (x : Nat) : Val := decodeSv 1 m.flush x

def execVadd (d a b : Reg) (mk : MReg) (s : State) : Out :=
  laneOp s d mk 4 true fun m l dr =>
    let r := m.rmode dr
    vround m 1 dr (Val.add r.down (laneF m (laneAt (s.rdV 1 a) l)) (laneF m (laneAt (s.rdV 2 b) l)))
def execVsub (d a b : Reg) (mk : MReg) (s : State) : Out :=
  laneOp s d mk 4 true fun m l dr =>
    let r := m.rmode dr
    vround m 1 dr
      (Val.add r.down (laneF m (laneAt (s.rdV 1 a) l)) (laneF m (laneAt (s.rdV 2 b) l)).negate)
def execVmul (d a b : Reg) (mk : MReg) (s : State) : Out :=
  laneOp s d mk 4 true fun m l dr =>
    vround m 1 dr (Val.mul (laneF m (laneAt (s.rdV 1 a) l)) (laneF m (laneAt (s.rdV 2 b) l)))
/-- vfma rounds once; d is the addend (R261). -/
def execVfma (d a b : Reg) (mk : MReg) (s : State) : Out :=
  laneOp s d mk 4 true fun m l dr =>
    let r := m.rmode dr
    vround m 1 dr (Val.add r.down
      (Val.mul (laneF m (laneAt (s.rdV 1 a) l)) (laneF m (laneAt (s.rdV 2 b) l)))
      (laneF m (laneAt (s.rdV 4 d) l)))

/-- The smaller or larger of two values of a floating-point format, with −0 < +0; a NaN gives the
canonical NaN and sets IV (R154, R262). -/
def fminmax (f : Nat) (flush mx : Bool) (x y : Nat) : Rnd :=
  let vx := decodeSv f flush x
  let vy := decodeSv f flush y
  let code (c : Nat) (v : Val) : Nat :=
    if flush && isSubnormal f c then (if v.sign then 2 ^ (fmtWidth f - 1) else 0) else c % 2 ^ fmtWidth f
  if vx.isNaN || vy.isNaN then { code := fmtNaN f, fl := Fl.invalid }
  else
    let xLess := match Val.cmp vx vy with
      | .lt => true
      | .gt => false
      | .eq => vx.sign || !vy.sign
    { code := if xLess == mx then code y vy else code x vx }

/-- The smaller or larger of two integers of an integer format (R150, R262). -/
def iminmax (sg : Bool) (w : Nat) (mx : Bool) (x y : Nat) : Rnd :=
  let le := if sg then decide (sextInt w x ≤ sextInt w y) else decide (x % 2 ^ w ≤ y % 2 ^ w)
  { code := if le == mx then y % 2 ^ w else x % 2 ^ w }

def vminmax (mx : Bool) (ty : VTy) (d a b : Reg) (mk : MReg) (s : State) : Out :=
  laneOp s d mk 2 false fun m l _ =>
    let x := laneAt (s.rdV 1 a) l
    let y := laneAt (s.rdV 2 b) l
    match ty with
    | .f32 => fminmax 1 m.flush mx x y
    | .i32 => iminmax true 32 mx x y
    | .n32 => iminmax false 32 mx x y

def execVmin (ty : VTy) (d a b : Reg) (mk : MReg) (s : State) : Out := vminmax false ty d a b mk s
def execVmax (ty : VTy) (d a b : Reg) (mk : MReg) (s : State) : Out := vminmax true ty d a b mk s

/-- Wrap an exact integer to 32 bits, or clamp it and count one saturation (R40, R262, R264). -/
def intResult (f : Nat) (sat : Bool) (v : Int) : Rnd :=
  if sat then
    let (c, cl) := clampInt f v
    { code := wrapInt (fmtWidth f) c, fl := { sat := if cl then 1 else 0 } }
  else { code := wrapInt (fmtWidth f) v }

/-- The format code of a side vector integer type (R257). -/
def vtyInt : VTy → Nat
  | .n32 => 14
  | _ => 10

/-- A lane that only loses or flips its sign; a NaN gives the canonical NaN and no flag (R262). -/
def signLane (f : Nat) (neg : Bool) (x : Nat) : Rnd :=
  let top := 2 ^ (fmtWidth f - 1)
  if (decodeVal f x).isNaN then { code := fmtNaN f }
  else if neg then { code := (x % 2 ^ fmtWidth f) ^^^ top } else { code := x % top }

def execVabs (ty : VTy) (d a : Reg) (mk : MReg) (s : State) : Out :=
  laneOp s d mk 2 false fun m l _ =>
    let x := laneAt (s.rdV 1 a) l
    match ty with
    | .f32 => signLane 1 false x
    | _ => intResult 10 m.sat ((sextInt 32 x).natAbs : Int)
def execVneg (ty : VTy) (d a : Reg) (mk : MReg) (s : State) : Out :=
  laneOp s d mk 2 false fun m l _ =>
    let x := laneAt (s.rdV 1 a) l
    match ty with
    | .f32 => signLane 1 true x
    | _ => intResult 10 m.sat (-(sextInt 32 x))

/-- An exact integer value read from a value of a number format that is one (R51). -/
def valInt : Val → Int
  | .num n m _ _ => if n then -(m : Int) else m
  | _ => 0

/-- Conversion of one value (R51, R265): an integer made narrower keeps its low bits, or clamps under SAT; every
other integer result clamps (R45). `copy` for equal formats is the caller's. -/
def convert (src dst : Nat) (r : RMode) (sat flush : Bool) (x : Nat) : Rnd :=
  let v := decodeSv src flush x
  if fmtInt dst && fmtInt src && decide (fmtWidth dst < fmtWidth src) then intResult dst sat (valInt v)
  else roundTo dst r sat flush v

/-- Whether a conversion draws under stochastic rounding: from or to a floating-point format, and to e8m0 from
any format (R47, R48). DEDUCED: notes/assumptions/78.md. -/
def convDraws (src dst : Nat) : Bool := fmtFloat src || fmtFloat dst || dst == 7

/-- The rounding of a conversion: by its draw only where it draws (R47). -/
def VMode.convMode (m : VMode) (src dst draw : Nat) : RMode :=
  if convDraws src dst then m.rmode draw else { rnd := m.rnd }

/-- vcvt (R265). -/
def execVcvt (dst src : Fmt) (d a : Reg) (mk : MReg) (s : State) : Out :=
  laneOp s d mk 4 (convDraws src.toNat dst.toNat) fun m l dr =>
    let x := laneAt (s.rdV 1 a) l
    if src = dst then { code := x }
    else convert src.toNat dst.toNat (m.convMode src.toNat dst.toNat dr) m.sat m.flush x

/-- The test of a comparison of two codes (R154, R266): the answer, whether either is NaN. -/
def fcmpTest (f : Nat) (flush : Bool) (cond x y : Nat) : Bool × Bool :=
  let vx := decodeSv f flush x
  let vy := decodeSv f flush y
  if vx.isNaN || vy.isNaN then (cond == 1 || cond == 6, true)
  else
    let o := Val.cmp vx vy
    (match cond with
     | 0 => o == .eq
     | 1 => o != .eq
     | 2 => o == .lt
     | 3 => o != .gt
     | 4 => o == .gt
     | 5 => o != .lt
     | _ => false, false)

/-- A comparison of integers by the codes of R150 and R266. -/
def icmpTest (cond : Nat) (x y : Int) : Bool :=
  match cond with
  | 0 => decide (x = y)
  | 1 => decide (x ≠ y)
  | 2 => decide (x < y)
  | 3 => decide (x ≤ y)
  | 4 => decide (x > y)
  | _ => decide (x ≥ y)

/-- vcmp writes the bits of a mask that mk selects (R266). -/
def execVcmp (ty : VTy) (c : VCond) (d : MReg) (a b : Reg) (mk : MReg) (s : State) : Out :=
  taskOnly s fun s =>
    let m := vmode s
    let mask := s.rdM 3 mk
    let one (l : Nat) : Rnd :=
      let x := laneAt (s.rdV 1 a) l
      let y := laneAt (s.rdV 2 b) l
      match ty with
      | .f32 =>
        let (t, nan) := fcmpTest 1 m.flush c.code x y
        { code := t.toNat, fl := { iv := nan && decide (2 ≤ c.code ∧ c.code ≤ 5), inv := nan } }
      | .i32 => { code := (icmpTest c.code (sextInt 32 x) (sextInt 32 y)).toNat }
      | .n32 => { code := (icmpTest c.code x y).toNat }
    let rs := tabulate 32 one
    let old := (s.rdM 4 d).toNat
    let v := natSum (tabulate 32 fun l =>
      (if bit mask.toNat l then (rs.getD l { code := 0 }).code % 2 else (bit old l).toNat) * 2 ^ l)
    let tr := if m.sv = 2 then trapOf mask.toNat rs else none
    let rest : Fl := match tr with
      | some (_, t) => flagsOf (mask.toNat &&& (t ^^^ (2 ^ 32 - 1))) rs
      | none => {}
    .next (s.issueFixed (.m d.toNat) v 2 (flagsOf mask.toNat rs) tr rest).advance

/-- A vector result that no mode touches. -/
def plainV (s : State) (d : Reg) (L : Nat) (v : State → VReg) : Out :=
  taskOnly s fun s => writeFixed s (.v d.toNat) (v s).toNat L

/-- vsel writes every lane (R267). -/
def execVsel (d a b : Reg) (m : MReg) (s : State) : Out :=
  plainV s d 2 fun s => mergeV (s.rdM 3 m) (s.rdV 1 a) (s.rdV 2 b)

/-! #### vred (R268) -/

/-- The identity of an operation (R268). -/
def redIdent (ty : VTy) (op : RedOp) : Nat :=
  match ty, op with
  | .f32, .sum => 0
  | .f32, .max => 0xFF800000
  | .f32, .min => 0x7F800000
  | .i32, .max => 0x80000000
  | .i32, .min => 0x7FFFFFFF
  | .n32, .min => 0xFFFFFFFF
  | _, _ => 0

/-- One combination of the tree. DEDUCED: notes/assumptions/37.md. -/
def redOne (m : VMode) (ty : VTy) (op : RedOp) (draw x y : Nat) : Rnd :=
  match ty, op with
  | .f32, .sum => vround m 1 draw (Val.add (m.rmode draw).down (laneF m x) (laneF m y))
  | .f32, .max => fminmax 1 m.flush true x y
  | .f32, .min => fminmax 1 m.flush false x y
  | .i32, .sum => intResult 10 m.sat (sextInt 32 x + sextInt 32 y)
  | .n32, .sum => intResult 14 m.sat ((x : Int) + y)
  | .i32, .max => iminmax true 32 true x y
  | .i32, .min => iminmax true 32 false x y
  | .n32, .max => iminmax false 32 true x y
  | .n32, .min => iminmax false 32 false x y

/-- What the tree carries: lanes, generators, flags, and the lanes that met a condition with the
cause so far. -/
structure RedSt where
  x : List Nat
  gens : List Nat
  fl : Fl := {}
  mask : Nat := 0
  cause : Option Nat := none
deriving DecidableEq, Repr

def redStep (m : VMode) (ty : VTy) (op : RedOp) (draws : Bool) (k : Nat) (r : RedSt) (l : Nat) : RedSt :=
  if l % 2 ^ (k + 1) = 0 then
    let g := lfsrStep (r.gens.getD l 1)
    let o := redOne m ty op g (r.x.getD l 0) (r.x.getD (l + 2 ^ k) 0)
    -- a NaN counts in the lane whose input it is, not in the sums it enters (R49)
    let old := ty == .f32 && ((laneF m (r.x.getD l 0)).isNaN || (laneF m (r.x.getD (l + 2 ^ k) 0)).isNaN)
    let o := if old then { o with fl := {} } else o
    { x := lset r.x l o.code
      gens := if draws then lset r.gens l g else r.gens
      fl := r.fl.or o.fl
      mask := if o.fl.cause.isSome then r.mask ||| 2 ^ l else r.mask
      cause := match r.cause, o.fl.cause with
        | some a, some b => some (min a b)
        | none, c => c
        | c, none => c }
  else r

/-- The fixed tree of R268. DEDUCED: notes/assumptions/37.md. -/
def redTree (m : VMode) (ty : VTy) (op : RedOp) (draws : Bool) (r : RedSt) : RedSt :=
  (List.range 5).foldl (fun r k => (List.range 32).foldl (redStep m ty op draws k) r) r

/-- The tree's leaves: the lanes of `a` that take part, and the identity for the others. A lane whose input is NaN meets
the condition of R49. -/
def redInit (ty : VTy) (op : RedOp) (m : VMode) (av : VReg) (mask : Nat) (gens : List Nat) : RedSt :=
  let nans := (List.range 32).filter fun l => ty == .f32 && bit mask l && (laneF m (laneAt av l)).isNaN
  { x := tabulate 32 fun l => if bit mask l then laneAt av l else redIdent ty op
    gens := gens
    fl := if nans.isEmpty then {} else Fl.invalid
    mask := nans.foldl (fun k l => k ||| 2 ^ l) 0
    cause := if nans.isEmpty then none else some 0x30 }

def execVred (ty : VTy) (op : RedOp) (d a : Reg) (mk : MReg) (s : State) : Out :=
  taskOnly s fun s =>
    let m := vmode s
    let mask := (s.rdM 3 mk).toNat
    let av := s.rdV 1 a
    let draws := m.sr && ty == .f32 && op == .sum
    let start := redInit ty op m av mask s.me.sys.gens
    let r := redTree m ty op draws start
    let allZero := ty == .f32 && op == .sum && (List.range 32).all fun l =>
      !bit mask l || (laneF m (laneAt av l)).isZero
    let x0 := if allZero && !(m.rmode 0).down then 0 else r.x.getD 0 0
    let tr := if m.sv = 2 then r.cause.map fun c => (c, r.mask) else none
    let s1 := s.issueFixed (.v d.toNat) (x0 % 2 ^ 32) 6 r.fl tr
    let t := s1.me
    .next (s1.setTile s.cur.unit { t with sys := { t.sys with gens := r.gens } }).advance

/-! #### Moving lanes (R269, R270) -/

def execVbcst (f : VBcst) (s : State) : Out :=
  match f with
  | .lane d a l mk => laneOp s d mk 2 false fun _ _ _ => { code := laneAt (s.rdV 1 a) l.toNat }
  | .scalar d a mk => laneOp s d mk 2 false fun _ _ _ => { code := (s.rdS 1 a).toNat % 2 ^ 32 }
def execVshuf (d a b : Reg) (mk : MReg) (s : State) : Out :=
  laneOp s d mk 2 false fun _ l _ =>
    let i := laneAt (s.rdV 2 b) l
    { code := if i < 32 then laneAt (s.rdV 1 a) i else 0 }
def execVmov (f : VMov) (s : State) : Out :=
  match f with
  | .vv d a mk => laneOp s d mk 2 false fun _ l _ => { code := laneAt (s.rdV 1 a) l }
  | .sv d a l => taskOnly s fun s => writeFixed s (.s d.toNat) (laneAt (s.rdV 1 a) l.toNat) 2
  | .vs d a l => plainV s d 2 fun s =>
      vecOf fun i => if i = l.toNat then (s.rdS 1 a).toNat % 2 ^ 32 else laneAt (s.rdV 4 d) i

def bitwise (s : State) (d a b : Reg) (mk : MReg) (f : Nat → Nat → Nat) : Out :=
  laneOp s d mk 2 false fun _ l _ => { code := f (laneAt (s.rdV 1 a) l) (laneAt (s.rdV 2 b) l) }
def execVand (d a b : Reg) (mk : MReg) (s : State) : Out := bitwise s d a b mk (· &&& ·)
def execVor (d a b : Reg) (mk : MReg) (s : State) : Out := bitwise s d a b mk (· ||| ·)
def execVxor (d a b : Reg) (mk : MReg) (s : State) : Out := bitwise s d a b mk (· ^^^ ·)

/-- viadd and vimul (R264). -/
def intLanes (s : State) (u : Bool) (d a b : Reg) (mk : MReg) (f : Int → Int → Int) : Out :=
  laneOp s d mk 4 false fun m l _ =>
    let rd (x : Nat) : Int := if u then x else sextInt 32 x
    intResult (if u then 14 else 10) m.sat
      (f (rd (laneAt (s.rdV 1 a) l)) (rd (laneAt (s.rdV 2 b) l)))
def execViadd (u : Bool) (d a b : Reg) (mk : MReg) (s : State) : Out := intLanes s u d a b mk (· + ·)
def execVimul (u : Bool) (d a b : Reg) (mk : MReg) (s : State) : Out := intLanes s u d a b mk (· * ·)

/-! #### Reciprocal, root, power and logarithm (R263) -/

def execVrcp (d a : Reg) (mk : MReg) (s : State) : Out :=
  laneOp s d mk 8 true fun m l dr =>
    let v := laneF m (laneAt (s.rdV 1 a) l)
    withDz v.isZero (vround m 1 dr (Val.div (.num false 1 0 false) v))
def execVrsq (d a : Reg) (mk : MReg) (s : State) : Out :=
  laneOp s d mk 8 true fun m l dr =>
    let v := laneF m (laneAt (s.rdV 1 a) l)
    withDz v.isZero (vround m 1 dr v.rsqrt)
def execVexp2 (d a : Reg) (mk : MReg) (s : State) : Out :=
  laneOp s d mk 8 true fun m l dr => vround m 1 dr (laneF m (laneAt (s.rdV 1 a) l)).exp2
def execVlog2 (d a : Reg) (mk : MReg) (s : State) : Out :=
  laneOp s d mk 8 true fun m l dr =>
    let v := laneF m (laneAt (s.rdV 1 a) l)
    withDz v.isZero (vround m 1 dr v.log2)

/-! #### Masks (R271) -/

def maskOp (s : State) (d : MReg) (v : State → W32) : Out :=
  taskOnly s fun s => writeFixed s (.m d.toNat) (v s).toNat 1
def execMand (d a b : MReg) (s : State) : Out := maskOp s d fun s => s.rdM 1 a &&& s.rdM 2 b
def execMor (d a b : MReg) (s : State) : Out := maskOp s d fun s => s.rdM 1 a ||| s.rdM 2 b
def execMnot (d a : MReg) (s : State) : Out := maskOp s d fun s => ~~~(s.rdM 1 a)
def execMpop (d : Reg) (a : MReg) (s : State) : Out :=
  taskOnly s fun s => writeFixed s (.s d.toNat) (onesOf 32 (s.rdM 1 a).toNat) 1

/-! #### Landing (R221, R222, R256, R259) -/

/-- FIXED_LATENCY_WRITEBACK: what is due on a tile lands, system register writes before the flags
of results (R256). -/
def execFixedLatencyWriteback (t : Nat) (s : State) : Out :=
  .next (s.setTile t (landPend (landMts s (s.tile t))))

/-- The pending result that traps now: the first issued of those whose bound has come (R259).
DEDUCED: notes/assumptions/36.md. -/
def trapDue (x : Tile) : Option Pend :=
  x.ctx.pend.find? fun p => p.trap.isSome && decide (p.bound ≤ x.tc)

/-- Every other bundle has taken full effect when `p` traps (R259): a result issued after it takes its SV = 0 value,
and all land, but for one issued before it whose own trap is still to come. DEDUCED: notes/assumptions/36.md. -/
def othersLand (x : Tile) (p : Pend) : Tile :=
  let pend := (x.ctx.pend.filter fun q => q.ord != p.ord).map fun q => if q.ord > p.ord then { q with trap := none } else q
  let sys := x.ctx.mts.foldl (fun y w => y.write w.num w.val) x.sys
  landWhere { x with sys := sys, ctx := { x.ctx with pend := pend, mts := [] } } fun q => q.trap.isNone

/-- SIDE_VECTOR_TRAP (R259): the fault is raised before a bundle issues in the cycle. -/
def execSideVectorTrap (t : Nat) (s : State) : Out :=
  let x := s.tile t
  match (if x.held then none else trapDue x) with
  | none => .next s
  | some p =>
    let later := x.ctx.bno - p.bno - 1
    let s1 := s.setTile t (othersLand x p)
    let (c, m) := p.trap.getD (0, 0)
    .next (seqFault s1 t c p.pc 0 m (.vector p) [later])

end Sys2Proof.Machine
end

