-- ==== Sys2Proof/Machine/ElemInt.lean ====
section
/-!
DEFINITION. Integer operations of elements (R40, R150-R152).
-/
namespace Sys2Proof.Machine

/-- The format whose range an integer result has: fmt, or for raw the input format (R150). -/
def FCtx.rangeFmt (c : FCtx) : Nat :=
  if c.o.fmt.toNat != 0 then c.o.fmt.toNat else if c.inF = 0 then 14 else c.inF

/-- The bits of value `i` of an operand; a scale has no integer reading, so they are free. -/
def FCtx.codeAt (c : FCtx) (which : Nat) (x : Nat × List Nat) (i : Nat) : Nat :=
  let w := wOf c.inF
  if c.sel which = 5 then undef c.s (700 + i) % 2 ^ w else x.2.getD i 0 % 2 ^ w

/-- A two-operand integer operation on exact values (R150). -/
def intOp (o : EOp) (s : State) (f : Int → Int → Int) : Out :=
  .next (elemFire o {} (fun c =>
    let a := c.operand 0
    let b := c.operand 1
    c.valueWise o.fmt.toNat 1 false fun i =>
      intResult c.rangeFmt c.y.sat (f (c.intAt 0 a i) (c.intAt 1 b i))) s)

/-- A bitwise operation, or one that moves bits (R150). -/
def bitOp (o : EOp) (s : State) (f : Nat → Nat → Nat → Nat) : Out :=
  .next (elemFire o {} (fun c =>
    let a := c.operand 0
    let b := c.operand 1
    let w := wOf c.inF
    c.valueWise o.fmt.toNat 1 false fun i =>
      { code := f w (c.codeAt 0 a i) (c.codeAt 1 b i) % 2 ^ w }) s)

def execIadd (o : EOp) (s : State) : Out := intOp o s (· + ·)
def execIsub (o : EOp) (s : State) : Out := intOp o s (· - ·)
def execImul (o : EOp) (s : State) : Out := intOp o s (· * ·)
/-- imulh never saturates (R150). -/
def execImulh (o : EOp) (s : State) : Out :=
  .next (elemFire o {} (fun c =>
    let a := c.operand 0
    let b := c.operand 1
    c.valueWise o.fmt.toNat 1 false fun i =>
      intResult c.rangeFmt false (c.intAt 0 a i * c.intAt 1 b i / (2 ^ wOf c.inF : Nat))) s)
def execIand (o : EOp) (s : State) : Out := bitOp o s fun _ x y => x &&& y
def execIor (o : EOp) (s : State) : Out := bitOp o s fun _ x y => x ||| y
def execIxor (o : EOp) (s : State) : Out := bitOp o s fun _ x y => x ^^^ y
/-- ishl: a × 2^s; s is the low log2 w bits of b (R150). -/
def execIshl (o : EOp) (s : State) : Out :=
  .next (elemFire o {} (fun c =>
    let a := c.operand 0
    let b := c.operand 1
    c.valueWise o.fmt.toNat 1 false fun i =>
      intResult c.rangeFmt c.y.sat (c.intAt 0 a i * (2 ^ (c.codeAt 1 b i % wOf c.inF) : Nat))) s)
def execIshr (o : EOp) (s : State) : Out := bitOp o s fun w x y => x >>> (y % w)
/-- isra: floor(a / 2^s) (R150). -/
def execIsra (o : EOp) (s : State) : Out :=
  .next (elemFire o {} (fun c =>
    let a := c.operand 0
    let b := c.operand 1
    c.valueWise o.fmt.toNat 1 false fun i =>
      intResult c.rangeFmt c.y.sat (c.intAt 0 a i / (2 ^ (c.codeAt 1 b i % wOf c.inF) : Nat))) s)
def execImin (o : EOp) (s : State) : Out := intOp o s fun x y => if x ≤ y then x else y
def execImax (o : EOp) (s : State) : Out := intOp o s fun x y => if x ≤ y then y else x
def execIabs (o : EOp) (s : State) : Out := intOp o s fun x _ => (x.natAbs : Int)
/-- icmp: all ones, or 0 (R150). -/
def execIcmp (o : EOp) (s : State) : Out :=
  .next (elemFire o {} (fun c =>
    let a := c.operand 0
    let b := c.operand 1
    c.valueWise o.fmt.toNat 1 false fun i =>
      { code := if icmpTest (c.y.mf 10 8) (c.intAt 0 a i) (c.intAt 1 b i) then 2 ^ wOf c.inF - 1 else 0 }) s)

/-- isat narrows a / 2^SH with rounding, and always clamps (R151). -/
def execIsat (o : EOp) (s : State) : Out :=
  .next (elemFire o {} (fun c =>
    let a := c.operand 0
    c.rated (srcQ o) o.fmt.toNat true fun i r =>
      let v := c.intAt 0 a i
      roundInt o.fmt.toNat r (.num (decide (v < 0)) v.natAbs (-(c.y.mf 12 8 : Int)) false)) s)

/-! ### imac (R152) -/

/-- Where accumulator value `i` lies: register and lane. -/
def accReg (reg i : Nat) : Nat × Nat := ((reg + i / 16) % 8, i % 16)
/-- A 32-bit lane of a register. -/
def lane32 (l : Line) (i : Nat) : Nat := (l.toNat >>> (32 * i)) % 2 ^ 32
def setLane32 (l : Line) (i v : Nat) : Line :=
  BitVec.ofNat 512 (ofFields 32 (lset (valuesOf 32 l) i v))
def eLane (b : Bank) (reg i : Nat) : Nat :=
  let (r, l) := accReg reg i
  lane32 (tget 0 b.e r) l
def setELane (b : Bank) (reg i v : Nat) : Bank :=
  let (r, l) := accReg reg i
  { b with e := tput b.e r (setLane32 (tget 0 b.e r) l v) }

/-- The tokens of an emission: 16 values each, EOS on the last (R152). -/
def emission (c : FCtx) (vals : List Nat) (eos : Bool) : List Tok :=
  let k := (vals.length + 15) / 16
  tabulate k fun j =>
    let part := (vals.drop (16 * j)).take 16
    c.res 32 part.length part (eos && j + 1 == k)

def imacFire (c : FCtx) : Fr :=
  let st := c.y.bank.st
  let a := c.operand 0
  let b := c.operand 1
  let cyc := bit c.y.mode 16
  let reg := c.o.reg.toNat
  let v := c.v
  let bv (i : Nat) : Int :=
    if cyc then sextInt 32 (lane32 (tget 0 c.y.bank.c c.creg) (st.k % 16)) else c.intAt 1 b i
  let step (p : Bank × Nat) (i : Nat) : Bank × Nat :=
    let r := intResult 10 c.y.sat (sextInt 32 (eLane p.1 reg i) + c.intAt 0 a i * bv i)
    (setELane p.1 reg i r.code, p.2 + r.fl.sat)
  let (bank, sats) := (List.range v).foldl step (c.y.bank, 0)
  let bank := bank.addFl { sat := sats }
  let vmax := max st.cnt v
  let k := c.y.mf 15 8
  if st.k + 1 = k ∨ c.eos = true then
    let toks := emission c ((List.range vmax).map (eLane bank reg)) c.eos
    let zeroed := (List.range (32 / wOf c.inF)).foldl
      (fun b r => { b with e := tput b.e ((reg + r) % 8) 0 }) bank
    .act { use := srcQ c.o, out := toks.head?
           bank := { zeroed with st := { st with k := 0, cnt := 0, outq := toks.drop 1 } } }
  else
    .act { use := srcQ c.o, bank := { bank with st := { st with k := st.k + 1, cnt := vmax } } }

def execImac (o : EOp) (s : State) : Out := .next (elemFire o {} imacFire s)

end Sys2Proof.Machine
end

