-- ==== Sys2Proof/Machine/ElemFloat.lean ====
section
/-!
DEFINITION. Floating-point operations, tables, range reduction and reductions of elements
(R44-R49, R153, R154, R159-R161).
-/
namespace Sys2Proof.Machine

/-- A rounding floating-point operation (R153): `f down i` is the exact value and whether it divides a
finite non-zero value by zero. -/
def floatOp (o : EOp) (divisor : Nat) (s : State)
    (f : (a b c : Nat → Val) → (down : Bool) → Nat → Val × Bool) : Out :=
  .next (elemFire o {} (fun c =>
    let xa := c.operand 0
    let xb := c.operand 1
    let xc := c.operand 2
    let fmt := o.fmt.toNat
    c.valueWise fmt divisor true fun i =>
      let r := c.rm c.n i
      let (v, dz) := f (valAt xa c.flush) (valAt xb c.flush) (valAt xc c.flush) r.down i
      let nanIn := v.isNaN
      withDz dz (if nanIn then { code := fmtNaN fmt, fl := Fl.invalid }
                 else roundTo fmt r c.y.sat c.flush v)) s)

def execFadd (o : EOp) (s : State) : Out :=
  floatOp o 1 s fun a b _ down i => (Val.add down (a i) (b i), false)
def execFsub (o : EOp) (s : State) : Out :=
  floatOp o 1 s fun a b _ down i => (Val.add down (a i) (b i).negate, false)
def execFmul (o : EOp) (s : State) : Out := floatOp o 1 s fun a b _ _ i => (Val.mul (a i) (b i), false)
/-- ffma rounds once (R153). -/
def execFfma (o : EOp) (s : State) : Out :=
  floatOp o 1 s fun a b c down i => (Val.add down (Val.mul (a i) (b i)) (c i), false)
def execFdiv (o : EOp) (s : State) : Out :=
  floatOp o 1 s fun a b _ _ i => (Val.div (a i) (b i), Val.div0 (a i) (b i))
/-- frsq of a zero sets DZ, or traps as DIV0 (R153). -/
def execFrsq (o : EOp) (s : State) : Out :=
  floatOp o 0 s fun a _ _ _ i => ((a i).rsqrt, (a i).isZero)

/-- fmin and fmax (R154). -/
def elemMinMax (o : EOp) (mx : Bool) (s : State) : Out :=
  .next (elemFire o {} (fun c =>
    let a := c.operand 0
    let b := c.operand 1
    let fmt := o.fmt.toNat
    c.valueWise fmt 1 false fun i =>
      let pick (x : Nat × List Nat) : Nat :=
        if x.1 = fmt then x.2.getD i 0
        else (roundTo fmt { rnd := 0 } false false (valAt x c.flush i)).code
      let nan := (valAt a c.flush i).isNaN || (valAt b c.flush i).isNaN
      if nan then { code := fmtNaN fmt, fl := Fl.invalid } else fminmax fmt c.flush mx (pick a) (pick b)) s)
def execFmin (o : EOp) (s : State) : Out := elemMinMax o false s
def execFmax (o : EOp) (s : State) : Out := elemMinMax o true s

/-- fneg sets no flag and raises no trap (R154). It flips the sign of a subnormal under sv = 1 too, and does not
flush it. DEDUCED: notes/assumptions/102.md. -/
def execFneg (o : EOp) (s : State) : Out :=
  .next (elemFire o {} (fun c =>
    let a := c.operand 0
    let fmt := if o.fmt = 0 then c.inF else o.fmt.toNat
    c.valueWise fmt 0 false fun i =>
      if a.1 = fmt then signLane fmt true (a.2.getD i 0)
      else { code := (roundTo fmt { rnd := 0 } false false (valAt a false i).negate).code }) s)

/-- fcmp (R154): all ones, or 0. -/
def execFcmp (o : EOp) (s : State) : Out :=
  .next (elemFire o {} (fun c =>
    let a := c.operand 0
    let b := c.operand 1
    let cond := c.y.mf 10 8
    let w := wOf c.inF
    c.valueWise o.fmt.toNat 1 false fun i =>
      let x := valAt a c.flush i
      let y := valAt b c.flush i
      let nan := x.isNaN || y.isNaN
      let t := if nan then cond == 1 || cond == 6
        else match Val.cmp x y, cond with
          | .eq, k => k == 0 || k == 3 || k == 5
          | .lt, k => k == 1 || k == 2 || k == 3
          | .gt, k => k == 1 || k == 4 || k == 5
      { code := if t then 2 ^ w - 1 else 0
        fl := { iv := nan && decide (2 ≤ cond ∧ cond ≤ 5), inv := nan } }) s)

/-! ### lut (R159) -/

/-- A 32-bit word of a table copy. -/
def tblWord (t : Tbl Line) (byte : Nat) : Nat :=
  ((tget 0 t (byte / 64)).toNat >>> (8 * (byte % 64))) % 2 ^ 32

/-- The value of the table at a number: segment by floor((x - x0) × inv), slope and intercept. The table's own words are
no inputs of a lane, and are read unflushed under sv = 1 (R49). DEDUCED: notes/assumptions/102.md. -/
def lutAt (t : Tbl Line) (v : Val) (down : Bool) : Val × Bool :=
  let d := Val.mul (Val.add false v (decodeVal 1 (tblWord t 0)).negate) (decodeVal 1 (tblWord t 4))
  match d with
  | .nan => (.nan, true)
  | _ =>
    let seg : Nat := match d with
      | .nan => 0
      | .inf neg => if neg then 0 else 255
      | .num neg m e _ =>
        if neg then 0
        else
          let k := if 0 ≤ e then (if e > 64 then (if m = 0 then 0 else 255) else m <<< e.toNat)
                   else m >>> (-e).toNat
          min 255 k
    (Val.add down (Val.mul (decodeVal 1 (tblWord t (64 + 8 * seg))) v)
      (decodeVal 1 (tblWord t (68 + 8 * seg))), false)

/-- Bytes 8-63 of a table are zero (R159). -/
def tableOk (t : Tbl Line) : Bool := (tget 0 t 0).toNat >>> 64 == 0

/-- lut waits until it holds all 33 lines of its table (R135, R159). -/
def execLut (o : EOp) (s : State) : Out :=
  .next (elemFire o { wait := (fctx s o).y.lacksTable } (fun c =>
    let t := c.y.bank.st.table
    let fmt := o.fmt.toNat
    if !tableOk t then .fault 0x08 { detail := (c.toks.head?.map (·.1)).getD 4 }
    else
      let a := c.operand 0
      c.valueWise fmt 0 true fun i =>
        let r := c.rm c.n i
        let (v, _) := lutAt t (valAt a c.flush i) r.down
        if v.isNaN then { code := fmtNaN fmt, fl := Fl.invalid }
        else roundTo fmt r c.y.sat c.flush v) s)

/-! ### rred (R160) -/

/-- The nearest integer of a number, ties to even. -/
def nearest (v : Val) : Val :=
  match v with
  | .num neg m e st =>
    if 0 ≤ e then .num neg m e st
    else
      let k := toInteger { rnd := 0 } neg m e st
      .num neg k.natAbs 0 false
  | v => v

def execRred (o : EOp) (s : State) : Out :=
  .next (elemFire o {} (fun c =>
    let a := c.operand 0
    let fmt := o.fmt.toNat
    let cv := decodeSv 1 c.flush (c.y.const % 2 ^ 32)
    let outk := bit c.y.mode 8
    c.valueWise fmt 0 false fun i =>
      let y := Val.mul (valAt a c.flush i) cv
      let r : Val :=
        if y.isNaN then .nan
        else if y.isInf then (if outk then y else .nan)
        else if outk then nearest y
        else Val.add c.y.rnd.down y (nearest y).negate
      if r.isNaN then { code := fmtNaN fmt, fl := Fl.invalid }
      else roundTo fmt c.y.rnd c.y.sat c.flush r) s)

/-! ### rsum, rmax, rmin (R161) -/

/-- The start of an accumulator (R161). -/
def redStart (op : RedOp) (f : Nat) : Nat :=
  match op with
  | .sum => 0
  | .max => if fmtFloat f then 2 ^ (fmtWidth f - 1) + fmtMaxCode f + 1 else wrapInt (fmtWidth f) (intMin f)
  | .min => if fmtFloat f then fmtMaxCode f + 1 else wrapInt (fmtWidth f) (intMax f)

/-- One combination. -/
def redOp (c : FCtx) (op : RedOp) (f x y : Nat) : Rnd :=
  if fmtFloat f then
    match op with
    | .sum =>
      let v := Val.add c.y.rnd.down (decodeSv f c.flush x) (decodeSv f c.flush y)
      if v.isNaN then { code := fmtNaN f, fl := Fl.invalid } else roundFloat f c.y.rnd c.y.sat c.flush v
    | .max => fminmax f c.flush true x y
    | .min => fminmax f c.flush false x y
  else
    let rd (z : Nat) : Int := if fmtSigned f then sextInt (fmtWidth f) z else (z : Nat)
    match op with
    | .sum => intResult f c.y.sat (rd x + rd y)
    | .max => iminmax (fmtSigned f) (fmtWidth f) true x y
    | .min => iminmax (fmtSigned f) (fmtWidth f) false x y

/-- What a reduction of one firing has met so far: flags, lanes and the first cause. -/
structure RedAcc where
  fl : Fl := {}
  lanes : Nat := 0
  cause : Option Nat := none
deriving DecidableEq, Repr

/-- Combine `y` into the accumulator `x`, with the policy of R49 and a repair of R377 applied. `input` says that `y` is an
input value: a NaN that an accumulator holds already is none, and meets no condition again. DEDUCED: notes/assumptions/102.md. -/
def redTake (c : FCtx) (op : RedOp) (f n : Nat) (input : Bool) (x y i : Nat) (a : RedAcc) : Nat × RedAcc :=
  let r := redOp c op f x y
  let nan (z : Nat) : Bool := fmtFloat f && (decodeVal f z).isNaN
  if (nan x && !nan y) || (!input && nan y) then (r.code, a)
  else match r.fl.cause with
  | some k =>
    if c.o.sv ≠ 2 then (r.code, { a with fl := a.fl.or r.fl })
    else match c.y.bank.st.grant with
      | some 1 => (c.y.bank.st.value % 2 ^ fmtWidth f, a)
      | some _ => (r.code, { a with fl := a.fl.or r.fl })
      | none => (r.code, { a with
          lanes := a.lanes ||| 2 ^ (16 * i / n)
          cause := some (match a.cause with | some j => min j k | none => k) })
  | none => (r.code, { a with fl := a.fl.or r.fl })

/-- Reduce a list from the start, value by value. -/
def redWithin (c : FCtx) (op : RedOp) (f n : Nat) (input : Bool) (vals : List Nat) (a : RedAcc) : Nat × RedAcc :=
  (List.range vals.length).foldl (fun (x, a) i => redTake c op f n input x (vals.getD i 0) i a) (redStart op f, a)

/-- Combine a token into the accumulators, value by value. -/
def redAcross (c : FCtx) (op : RedOp) (f n : Nat) (acc vals : List Nat) (a : RedAcc) : List Nat × RedAcc :=
  (List.range vals.length).foldl (fun (l, a) i =>
    let (x, a) := redTake c op f n true (l.getD i 0) (vals.getD i 0) i a
    (lset l i x, a)) (acc, a)

def redFire (op : RedOp) (c : FCtx) : Fr :=
  let f := c.o.fmt.toNat
  let w := fmtWidth f
  let n := 512 / w
  let st := c.y.bank.st
  let reg := c.o.reg.toNat
  let scope := c.y.mf 9 8
  let bc := bit c.y.mode 10
  let k := c.y.mf 23 16
  let vals := (c.operand 0).2.take c.v
  let acc0 := if st.k = 0 then List.replicate n (redStart op f) else valuesOf w (tget 0 c.y.bank.e reg)
  let vmax := max st.cnt c.v
  let single (r : Nat) : Tok :=
    if bc then c.res w n (List.replicate n r) c.eos else { c.res w 1 [r] c.eos with lcnt := 1 }
  let (acc, a) := if scope = 0 then (acc0, {}) else redAcross c op f n acc0 vals {}
  let done := decide (scope = 0) || st.k + 1 == k || c.eos
  let (r, a) :=
    if scope = 0 then redWithin c op f n true vals a
    else if scope = 2 && done then redWithin c op f n false (acc.take vmax) a
    else (0, a)
  match a.cause with
  | some cause => .fault cause { detail := c.trapQueue cause 0, lanes := a.lanes }
  | none =>
    let b := c.y.bank.addFl a.fl
    if scope = 0 then .act { use := srcQ c.o, out := some (single r), bank := b }
    else if done then
      let t := if scope = 1 then c.res w vmax acc c.eos else single r
      .act { use := srcQ c.o, out := some t
             bank := { b with e := tput b.e reg 0, st := { st with k := 0, cnt := 0 } } }
    else
      .act { use := srcQ c.o
             bank := { b with e := tput b.e reg (lineOf w acc), st := { st with k := st.k + 1, cnt := vmax } } }

def execRsum (o : EOp) (s : State) : Out := .next (elemFire o {} (redFire .sum) s)
def execRmax (o : EOp) (s : State) : Out := .next (elemFire o {} (redFire .max) s)
def execRmin (o : EOp) (s : State) : Out := .next (elemFire o {} (redFire .min) s)

end Sys2Proof.Machine
end

