-- ==== Sys2Proof/Machine/ElemConv.lean ====
section
/-!
DEFINITION. Conversion, dequantisation and quantisation (R41, R43, R51, R57, R58, R155-R158, R163).
-/
namespace Sys2Proof.Machine

/-- cvt (R155): ROUND of each value into fmt. -/
def execCvt (o : EOp) (s : State) : Out :=
  .next (elemFire o {} (fun c =>
    let a := c.operand 0
    let fmt := o.fmt.toNat
    c.rated (srcQ o) fmt (convDraws c.inF fmt) fun i r =>
      roundTo fmt r c.y.sat c.flush (valAt a c.flush i)) s)

/-- pack keeps low bits; into t2 it is the sign select (R163). -/
def execPack (o : EOp) (s : State) : Out :=
  .next (elemFire o {} (fun c =>
    let a := c.operand 0
    let fmt := o.fmt.toNat
    c.rated (srcQ o) fmt false fun i _ =>
      if fmt = 13 then toT2 (valAt a c.flush i) else { code := a.2.getD i 0 % 2 ^ wOf fmt }) s)

/-- unpk widens by sign or zero extension; t2 decodes under R41 (R163). -/
def execUnpk (o : EOp) (s : State) : Out :=
  .next (elemFire o {} (fun c =>
    let a := c.operand 0
    let fmt := o.fmt.toNat
    c.rated (srcQ o) fmt false fun i _ =>
      let x := a.2.getD i 0
      let v : Int := if c.inF = 13 then valInt (decodeVal 13 x)
        else if fmtSigned fmt then sextInt (wOf c.inF) x else (x : Nat)
      { code := wrapInt (wOf fmt) v }) s)

/-! ### deq (R156) -/

/-- The values of a data token, whatever the scale token's LCNT. -/
def FCtx.dataOnly (c : FCtx) : FCtx := { c with toks := c.toks.filter fun t => t.1 == 0 }

/-- What one firing of deq takes of its streams: the stream index of its first value, how many values it
makes, whether it is the data token's last firing, and the index at which the head scale token's last block
ends. A firing whose guard is 0 takes the whole rest of its data token (R144, R147, R156). -/
structure DeqSpan where
  g0 : Nat
  cnt : Nat
  last : Bool
  edge : Nat
deriving DecidableEq, Repr

def deqSpan (c : FCtx) : DeqSpan :=
  let st := c.y.bank.st
  let v := c.dataOnly.v
  let n := 512 / wOf c.o.fmt.toNat
  let lo := st.ph * n
  let g0 := st.cnt + lo
  let cnt := if c.guard then min n (v - lo) else v - lo
  { g0 := g0, cnt := cnt, last := decide (lo + cnt ≥ v), edge := (g0 / 2048 + 1) * 2048 }

/-- The firing ends the data (R156). -/
def deqFinal (c : FCtx) : Bool := (deqSpan c).last && ((c.tok 0).map (·.eos)).getD false
def deqHeadEos (c : FCtx) : Bool := ((c.tok 1).map (·.eos)).getD false
/-- It uses the head scale token's last block. The stream's last scale token goes with its last data token. -/
def deqReach (c : FCtx) : Bool :=
  decide ((deqSpan c).g0 + (deqSpan c).cnt ≥ (deqSpan c).edge) && !(deqHeadEos c && ((c.tok 0).map (·.eos)).getD false)
/-- It goes on into the blocks of the scale token after the head. -/
def deqCross (c : FCtx) : Bool :=
  c.sel 1 == 1 && decide ((deqSpan c).g0 + (deqSpan c).cnt > (deqSpan c).edge) && !deqHeadEos c
/-- The scale token after the head of queue b. -/
def deqNext (c : FCtx) : Option Tok := (c.y.queue 1)[1]?

/-- The scale tokens the firing consumes (R156): the head with its last block, and at the end of the data the one
in use. DEDUCED: notes/assumptions/102.md. -/
def deqTaken (c : FCtx) : List (Option Tok) :=
  if c.sel 1 ≠ 1 then []
  else if deqFinal c && deqCross c then [c.tok 1, deqNext c]
  else if deqFinal c || deqReach c then [c.tok 1]
  else []

/-- EOS of the two queues disagree: a scale token consumed before the end of the data has it, or the last one
lacks it (R145, R156). -/
def deqEosBad (c : FCtx) : Bool :=
  let l := (deqTaken c).map fun t => (t.map (·.eos)).getD false
  if deqFinal c then l.dropLast.any id || l.getLast? == some false else l.any id

/-- The scale of value `i` of a token (R156): `pos` is the stream index of the token's first value. A select R156
does not list, and a block past the last scale token of the stream, give free values. -/
def deqScale (c : FCtx) (pos i : Nat) : Val :=
  let free := decodeVal 1 (undef c.s (700 + i) % 2 ^ 32)
  match c.sel 1 with
  | 1 =>
    let t := if pos + i < (deqSpan c).edge then c.tok 1
      else if deqHeadEos c then none else deqNext c
    match t with
    | some t => decodeVal 7 ((valuesOf 8 t.val).getD ((pos + i) / 32 % 64) 0)
    | none => free
  | 4 => decodeSv 1 c.flush (c.y.const % 2 ^ 32)
  | 5 => valAt (c.operand 1) c.flush i
  | 6 => .num false 1 0 false
  | _ => free

/-- A firing of deq. The SEQ of a data token is held to that of the scale token at its first value. -/
def deqFire (c : FCtx) : Fr :=
  let mx := c.sel 1 == 1
  let d := c.dataOnly
  let st := c.y.bank.st
  let pos := st.cnt
  let next := if (deqSpan c).last then (if c.eos then 0 else pos + d.v) else pos
  let scales := (deqTaken c).map fun _ => 1
  let first := decide (st.ph = 0)
  if deqCross c && (deqNext c).isNone then .stall (kNOA + 1)
  else if deqEosBad c then .fault 0x22 { detail := if deqFinal c then 1 else 0 }
  else if !c.guard then
    .act { use := 0 :: scales, bank := { c.y.bank with st := { st with ph := 0, cnt := next } } }
  else if mx && first && (c.tok 0).map (·.seq) != (c.tok 1).map (·.seq) then .fault 0x24 { detail := 0 }
  else
    let a := c.operand 0
    let fmt := c.o.fmt.toNat
    match d.rated [0] fmt true fun i r =>
        roundTo fmt r c.y.sat c.flush (Val.mul (valAt a c.flush i) (deqScale c pos i)) with
    | .act act =>
      .act { act with use := act.use ++ scales
                      bank := { act.bank with st := { act.bank.st with cnt := next } } }
    | r => r

/-- What the end of the stream is judged by: of two scale tokens consumed, the last (R145). -/
def deqView (c : FCtx) : FCtx :=
  if deqFinal c && deqCross c then
    { c with toks := (c.toks.filter fun t => t.1 != 1) ++ ((deqNext c).map fun t => (1, t)).toList }
  else c

/-- deq (R156). With EOSP = 1, the tokens of one queue are discarded up to its EOS where the other queue
ends first (R145). -/
def execDeq (o : EOp) (s : State) : Out :=
  .next (elemFireWith s o { ownGuard := true, eosA := true } fun c =>
    if c.y.eosp && deqEosBad c && !(deqCross c && (deqNext c).isNone) then
      if deqFinal c then s.setPlane c.u c.e c.p (c.keep (drainTo c.y 1))
      else
        let y := drainTo c.y 0
        s.setPlane c.u c.e c.p (c.keep { y with bank := { y.bank with st := { y.bank.st with ph := 0 } } })
    else settleFire s (deqView c) (deqFire c))

/-! ### amax (R158) -/

/-- The larger of two magnitudes given as f32 codes; NaN wins. -/
def magMax (x y : Nat) : Nat :=
  if (decodeVal 1 x).isNaN || (decodeVal 1 y).isNaN then fmtNaN 1 else max x y
/-- The magnitude of a value as an f32 code. -/
def mag32 (f code : Nat) : Nat := (roundTo 1 { rnd := 0 } false false (decodeVal f code).abs).code

/-- Blocks of 32 values taken from the values of a token: finished maxima, and the block in progress. -/
def amaxTake (f : Nat) (done : List Nat) (cur cnt : Nat) : List Nat → List Nat × Nat × Nat
  | [] => (done, cur, cnt)
  | x :: xs =>
    let m := magMax cur (mag32 f x)
    if cnt + 1 = 32 then amaxTake f (done ++ [m]) 0 0 xs else amaxTake f done m (cnt + 1) xs

/-- A firing of amax (R158): 16 maxima make a token, a block in progress goes on, and one cut short by EOS is taken
over what is present; a 17th maximum at EOS makes a token of its own. DEDUCED: notes/assumptions/102.md. -/
def amaxFire (c : FCtx) : Fr :=
  let st := c.y.bank.st
  let a := c.operand 0
  let vals := a.2.take c.v
  let rs : List Rnd := vals.map fun x =>
    { code := x, fl := if (decodeVal a.1 x).isNaN then Fl.invalid else {} }
  match c.settle c.n (wOf c.inF) 0 (c.o.sv == 2) rs with
  | .error (cause, i) => .fault cause i
  | .ok (vals, fl) =>
    let (done, cur, cnt) := amaxTake a.1 st.vals st.thv st.cnt vals
    let done := if c.eos && decide (cnt > 0) then done ++ [cur] else done
    let seq := if st.k = 0 then (c.like.map (·.seq)).getD 0 else st.seq0
    let b := c.y.bank.addFl fl
    let rest := done.drop 16
    let tok (l : List Nat) (eos : Bool) : Tok := { c.res 32 l.length l eos with seq := seq }
    if c.eos || decide (done.length ≥ 16) then
      .act { use := srcQ c.o, out := some (tok (done.take 16) (c.eos && rest.isEmpty))
             bank := { b with st := { st with
               vals := if c.eos then [] else rest, thv := if c.eos then 0 else cur, cnt := if c.eos then 0 else cnt, k := 0
               outq := if c.eos && !rest.isEmpty then [tok rest true] else [] } } }
    else
      .act { use := srcQ c.o
             bank := { b with st := { st with vals := done, thv := cur, cnt := cnt, k := st.k + 1, seq0 := seq } } }

def execAmax (o : EOp) (s : State) : Out := .next (elemFire o {} amaxFire s)

/-! ### qnt (R57, R58, R157) -/

/-- emax of a target format (R57). -/
def emaxOf (f : Nat) : Int := if f = 4 then 8 else if f = 5 then 15 else if f = 6 then 2 else 6

/-- The e8m0 code of a block's scale, and the flags of deriving it (R57). -/
def blockScale (f amax : Nat) : Nat × Fl :=
  match decodeVal 1 amax with
  | .nan => (0xFF, Fl.invalid)
  | .inf _ => (0xFF, Fl.invalid)
  | .num _ m e _ =>
    if m = 0 then (0, { sclamp := true })
    else
      let x : Int := (Nat.log2 m : Int) + e - emaxOf f + 127
      if x < 0 then (0, { sclamp := true }) else (x.toNat, {})

/-- One element quantised under a scale code (R57, R58); the second part is an event of R58. `known` says that
its NaN comes from a value that met its condition when its token was taken. -/
def quantOne (c : FCtx) (f scale : Nat) (carried known : Bool) (r : RMode) (v : Val) : Rnd × Bool :=
  let seen (q : Rnd) : Rnd := if known then q.met else q
  if scale = 0xFF then (seen { code := fmtNaN f, fl := Fl.invalid }, false)
  else
    let q := seen (roundTo f r true c.flush (Val.mul v (.num false 1 (127 - (scale : Int)) false)))
    let zero := decide (q.code % 2 ^ (fmtWidth f - 1) = 0) && (f == 8 || fmtFloat f)
      && (f != 8 || q.code == 0)
    let ufl := carried && zero && !v.isZero && !v.isNaN
    ({ q with fl := { q.fl with ufl := if ufl then 1 else 0 } }, carried && (decide (q.fl.sat > 0) || ufl))

/-- The draws of a block: its values lie over `per` values of each lane of one token, or over the
same lane of several tokens (R48). -/
def blockDraw (c : FCtx) (i : Nat) : RMode :=
  let n := c.n
  let lane := 16 * (i % n) / n
  let k := (i / n) * (n / 16) + i % (n / 16)
  { rnd := c.y.rnd.rnd
    draw := if c.y.sr then some (iterate (k + 1) (c.y.bank.gens.getD lane 1)) else none }

/-- Values gathered so far that fill a block, padded at the end of the stream (R157). -/
def padBlock (l : List Nat) : List Nat := l ++ List.replicate ((32 - l.length % 32) % 32) 0

/-- Quantise whole blocks: codes with their events, and the scale codes. Under flush, amax is taken over the
inputs as the firing reads them, subnormals as zeros. DEDUCED: notes/assumptions/79.md. -/
def quantBlocks (c : FCtx) (f inf : Nat) (carried : Bool) (vals : List Nat) :
    List (Rnd × Bool) × List Nat × Fl :=
  (List.range (vals.length / 32)).foldl (fun (acc : List (Rnd × Bool) × List Nat × Fl) b =>
    let blk := (vals.drop (32 * b)).take 32
    let am := blk.foldl (fun m x => magMax m
      (if c.flush && isSubnormal inf x then 0 else mag32 inf x)) 0
    let (sc, fl) := if carried then ((tget 0 c.y.bank.c c.creg).toNat % 256, ({} : Fl)) else blockScale f am
    let nan := blk.any fun x => (decodeVal inf x).isNaN
    let q := tabulate 32 fun i =>
      let v := decodeSv inf c.flush (blk.getD i 0)
      quantOne c f sc carried (if carried then v.isNaN else nan) (blockDraw c (32 * b + i)) v
    (acc.1 ++ q, acc.2.1 ++ [sc], acc.2.2.or { fl with iv := false, inv := false })) ([], [], {})

/-- The scale tokens due once the blocks from index `b0` on have the scales `l`, and the scales that wait on (R157):
one token for each 64 blocks of the stream, and one for what is left at its end. -/
def qntScales (c : FCtx) (b0 : Nat) (l : List Nat) : List Tok × List Nat :=
  let whole := l.length / 64
  let n := if c.eos then (l.length + 63) / 64 else whole
  let tok (i : Nat) : Tok :=
    let part := (l.drop (64 * i)).take 64
    { c.res 8 (4 * ((part.length + 3) / 4)) part (c.eos && decide (i + 1 = n)) with
      vc := c.y.const % 32, seq := (b0 / 64 + i) % 16 }
  (tabulate n tok, if c.eos then [] else l.drop (64 * whole))

/-- A firing of qnt (R49, R57, R58, R157): a result token after the firings of R144, once a block is complete; its
SEQ is the group of its first block. DEDUCED: notes/assumptions/81.md, 102.md. -/
def qntFire (c : FCtx) : Fr :=
  let st := c.y.bank.st
  let f := c.o.fmt.toNat
  let w := wOf f
  let carried := c.sel 1 == 5
  let sre := bit c.y.mode 8
  let nosc := bit c.y.mode 9
  let a := c.operand 0
  -- values of the block in progress stand in table entries 0 and 1, thv of them
  let wa := wOf a.1
  let held := (valuesOf wa (tget 0 st.table 0) ++ valuesOf wa (tget 0 st.table 1)).take st.thv
  let grant := st.grant
  -- a NaN traps with its token, and REPLACE puts VALUE in its place
  let isNaN (x : Nat) : Bool := c.o.sv == 2 && (decodeVal a.1 x).isNaN
  let mine := a.2.take c.v
  let nans := (List.range mine.length).filter fun i => isNaN (mine.getD i 0)
  let all := held ++ if grant = some 1 then mine.map fun x => if isNaN x then st.value % 2 ^ wOf a.1 else x else mine
  let ready := if c.eos then padBlock all else all.take (all.length / 32 * 32)
  let rest := if c.eos then [] else all.drop ready.length
  let (qs, codes, sfl) := quantBlocks c f a.1 carried ready
  let causeOf (q : Rnd × Bool) : Option Nat :=
    match (if c.o.sv = 2 then q.1.fl.cause else none) with
    | some k => some k
    | none => if sre && q.2 then some 0x33 else none
  let n := c.n
  let hits := (nans.map fun i => (i, 0x30)) ++ (List.range qs.length).filterMap fun i =>
    (causeOf (qs.getD i ({ code := 0 }, false))).map fun k => (i, k)
  if !hits.isEmpty && grant.isNone then
    let cause := hits.foldl (fun m h => min m h.2) 0x3F
    .fault cause { detail := 0, lanes := (hits.map fun h => 16 * (h.1 % n) / n).foldl (fun m l => m ||| 2 ^ l) 0 }
  else
    let rep (q : Rnd × Bool) : Bool := grant == some 1 && (causeOf q).isSome
    let vals := qs.map fun q => if rep q then st.value % 2 ^ w else q.1.code
    let fl := qs.foldl (fun g q => if rep q then g else g.or q.1.fl) sfl
    let b := c.y.bank.addFl fl
    let b := if c.y.sr && !qs.isEmpty then { b with gens := b.gens.map (iterate (qs.length / 16)) } else b
    let out := st.vals ++ vals
    let blocks := st.cnt + codes.length
    let cap := 512 / w
    let at0 := if st.vals.isEmpty then st.cnt else st.seq0
    let done := (decide (st.k + 1 ≥ wOf c.inF / w) && !out.isEmpty) || c.eos
    let dTok (i : Nat) : Tok :=
      let l := (out.drop (cap * i)).take cap
      { c.res w l.length l (c.eos && decide (cap * (i + 1) ≥ out.length)) with seq := ((at0 + cap * i / 32) / 64) % 16 }
    let dToks := if done then tabulate ((out.length + cap - 1) / cap) dTok else []
    let (scToks, scales) := qntScales c (blocks - (st.scales ++ codes).length) (st.scales ++ codes)
    let toks := dToks ++ if nosc then [] else scToks
    let st1 := { st with
      table := tput (tput st.table 0 (lineOf wa (rest.take (512 / wa)))) 1 (lineOf wa (rest.drop (512 / wa))), thv := rest.length
      cnt := if c.eos then 0 else blocks, scales := scales
      vals := if done then [] else out, k := if done then 0 else st.k + 1
      seq0 := at0, outq := toks.drop 1 }
    .act { use := srcQ c.o, out := toks.head?, bank := { b with st := st1 } }

def execQnt (o : EOp) (s : State) : Out := .next (elemFire o {} qntFire s)

end Sys2Proof.Machine
end

