-- ==== Sys2Proof/Machine/ElemMove.lean ====
section
/-!
DEFINITION. Stream, lane and pennant operations of elements (R162, R164, R165, R174, R175).
-/
namespace Sys2Proof.Machine

/-- An operand moved as a whole token: the token itself, or values with the sideband of R143. -/
def FCtx.whole (c : FCtx) (which : Nat) : Tok :=
  let w := wOf c.inF
  match (if c.sel which < 3 then c.tok (c.sel which) else none) with
  | some t => { t with vc := c.o.ovc.toNat }
  | none => c.res w c.v (c.operand which).2 c.eos

/-- pass (R175). -/
def execPass (o : EOp) (s : State) : Out :=
  .next (elemFire o {} (fun c =>
    .act { use := srcQ o, out := some (c.whole 0), bank := c.y.bank }) s)

/-- dup: COUNT copies, EOS on the last (R175). -/
def execDup (o : EOp) (s : State) : Out :=
  .next (elemFire o {} (fun c =>
    let st := c.y.bank.st
    let last := decide (st.ph + 1 ≥ c.y.mf 15 8)
    let t := c.whole 0
    .act { use := if last then srcQ o else [], pen := last, out := some { t with eos := t.eos && last }
           bank := { c.y.bank with st := { st with ph := if last then 0 else st.ph + 1 } } }) s)

/-- bnr: a banner after every K data tokens (R175). -/
def execBnr (o : EOp) (s : State) : Out :=
  .next (elemFire o {} (fun c =>
    let st := c.y.bank.st
    let t := c.whole 0
    let due := decide (st.cnt + 1 ≥ c.y.mf 23 8) && !t.eos
    let b : Tok := { c.res 32 16 [] false with bnr := true, lcnt := 16 }
    .act { use := srcQ o, out := some t
           bank := { c.y.bank with st := { st with
             cnt := if due || t.eos then 0 else st.cnt + 1, outq := if due then [b] else [] } } }) s)

/-- eos: EOS on every K-th token (R175). -/
def execEos (o : EOp) (s : State) : Out :=
  .next (elemFire o {} (fun c =>
    let st := c.y.bank.st
    let t := c.whole 0
    let e := t.eos || decide (st.cnt + 1 ≥ c.y.mf 23 8)
    .act { use := srcQ o, out := some { t with eos := e }
           bank := { c.y.bank with st := { st with cnt := if e then 0 else st.cnt + 1 } } }) s)

/-! ### Sources (R174, R386) -/

/-- The end of a stream: a held start is applied, unless the element is switching (R130, R288). -/
def streamEnd (s : State) (c : FCtx) (st : OpState) : OpState :=
  let sw := (s.elemOf c.u c.e).switching.contains c.slot
  match st.held with
  | some d =>
    if sw then { st with on := false, t := 0, cnt := 0 }
    else { st with on := true, dom := d, held := none, t := 0, cnt := 0, ready := s.cycle + 1
                   desc := none, wantDesc := st.desc.isSome }
  | none => { st with on := false, t := 0, cnt := 0 }

/-- One cycle of a source with a stream: a banner after every K tokens, else under its guard the token `mk` gives
and whether it is the last. DEDUCED: notes/assumptions/62.md. -/
def sourceFire (s : State) (c : FCtx) (mk : Nat → Nat × List Nat) (last : Nat → Bool) : Fr :=
  let st := c.y.bank.st
  let t : Tok := { vc := c.o.ovc.toNat, dom := st.dom, seq := st.t % 16, lcnt := 16 }
  let full := !outRoom (s.collar c.u) c.e
  if !st.on || decide (st.ready > s.cycle) then .idle
  else if c.k ≠ 0 ∧ st.cnt ≥ c.k then
    (if full then .stall kNOSP
     else .act { use := [], pen := false, out := some { t with bnr := true, seq := 0 }
                 bank := { c.y.bank with st := { st with cnt := 0 } } })
  else if c.o.pg && c.pen.isNone then .stall kPENN
  else if full then .stall kNOSP
  else if !c.guard then .act { use := [], bank := c.y.bank }
  else
      let (w, vals) := mk st.t
      let e := last st.t
      let st1 := { st with t := st.t + 1, cnt := st.cnt + 1 }
      .act { use := [], out := some { t with val := lineOf w vals, eos := e }
             bank := { c.y.bank with st := if e then streamEnd s c st1 else st1 } }

/-- A source's banner saves its bank with it (R386). DEDUCED: notes/assumptions/62.md. -/
def sourceElem (o : EOp) (s : State) (mk : FCtx → Nat → Nat × List Nat) (last : FCtx → Nat → Bool) : State :=
  let c := fctx s o
  let st := c.y.bank.st
  let bnrDue := st.on && decide (st.ready ≤ s.cycle) && decide (c.k ≠ 0) && decide (st.cnt ≥ c.k)
    && outRoom (s.collar c.u) c.e && (s.elemOf c.u c.e).fault.isNone
  let s1 := if bnrDue then
      s.setPlane c.u c.e c.p (c.y.saveCut { c.y.bank with st := { st with cnt := 0 } })
    else s
  elemFire o { own := true } (fun c => sourceFire s1 c (mk c) (last c)) s1

/-- The end of a const or cnt stream: after COUNT tokens, or with COUNT = 0 once a switch request has
reached the element (R174). -/
def countLast (s : State) (c : FCtx) (t : Nat) : Bool :=
  let n := c.y.mf 31 16
  if n = 0 then (s.elemOf c.u c.e).switching.contains c.slot else decide (t + 1 ≥ n)

def execConst (o : EOp) (s : State) : Out :=
  .next (sourceElem o s
    (fun c _ =>
      let w := wOf o.fmt.toNat
      (w, List.replicate (512 / w) (c.y.const % 2 ^ w)))
    (countLast s))
/-- cnt: the constant word plus (j × n + i) × STEP (R174). -/
def execCnt (o : EOp) (s : State) : Out :=
  .next (sourceElem o s
    (fun c j =>
      let w := wOf o.fmt.toNat
      let n := 512 / w
      (w, tabulate n fun i =>
        wrapInt w ((c.y.const : Int) + ((j * n + i : Nat) : Int) * sextInt 8 (c.y.mf 15 8))))
    (countLast s))

/-! ### Lane operations (R162) -/

def execShuf (o : EOp) (s : State) : Out :=
  .next (elemFire o {} (fun c =>
    let a := c.operand 0
    let b := c.operand 1
    c.valueWise (if o.fmt = 0 then c.inF else o.fmt.toNat) 1 false fun i =>
      let k := b.2.getD i 0
      { code := if k < c.n then a.2.getD k 0 else 0 }) s)
def execBcst (o : EOp) (s : State) : Out :=
  .next (elemFire o {} (fun c =>
    let a := c.operand 0
    c.valueWise (if o.fmt = 0 then c.inF else o.fmt.toNat) 1 false fun _ =>
      { code := a.2.getD (c.y.mf 15 8) 0 }) s)

/-- algn: the stream delayed by SH values; with SWEEP, by 0 to SH in turn (R162, R436). -/
def execAlgn (o : EOp) (s : State) : Out :=
  .next (elemFire o {} (fun c =>
    let st := c.y.bank.st
    let w := wOf c.inF
    let a := (c.operand 0).2
    let prev := valuesOf w (tget 0 c.y.bank.e o.reg.toNat)
    let sh := c.y.mf 15 8
    let sweep := bit c.y.mode 16
    let d := if sweep then st.ph else sh
    let last := !sweep || decide (st.ph ≥ sh)
    let vals := tabulate c.v fun i => if i < d then prev.getD (c.n + i - d) 0 else a.getD (i - d) 0
    let b := if last then { c.y.bank with e := tput c.y.bank.e o.reg.toNat (if c.eos then 0 else lineOf w a) }
             else c.y.bank
    .act { use := if last then srcQ o else [], pen := last
           out := some { c.res w c.v vals (c.eos && last) with lcnt := (c.like.map (·.lcnt)).getD 16 }
           bank := { b with st := { st with ph := if last then 0 else st.ph + 1 } } }) s)

/-! ### Pennants (R164, R165) -/

/-- The format in which pgen reads values; raw lanes are read as unsigned. -/
def numFmt (f : Nat) : Nat := if fmtWidth f = 0 then 14 else f

/-- The test of pgen (R164). -/
def pgenTest (test : Nat) (vals : List Val) (k : Val) : Bool :=
  let v0 := vals.headD .nan
  let ne (v : Val) : Bool := !v.isNaN && !v.isZero
  let ok := !v0.isNaN && !k.isNaN
  match test with
  | 0 => ne v0
  | 1 => vals.any ne
  | 2 => vals.all ne
  | 3 => ok && Val.cmp v0 k == .lt
  | 4 => ok && Val.cmp v0 k != .lt
  | _ => ok && Val.cmp v0 k == .eq

def execPgen (o : EOp) (s : State) : Out :=
  .next (elemFire o {} (fun c =>
    let f := numFmt c.inF
    let a := c.operand 0
    let codes := a.2.take c.v
    let rs : List Rnd := codes.map fun x =>
      { code := x, fl := if (decodeVal f x).isNaN then Fl.invalid else {} }
    match c.settle c.n (wOf f) 0 (o.sv == 2) rs with
    | .error (cause, i) => .fault cause i
    | .ok (_, fl) =>
      let t := pgenTest (c.y.mf 10 8) (codes.map (decodeSv f c.flush))
        (decodeSv f c.flush (c.y.const % 2 ^ wOf f))
      .act { use := srcQ o, pout := some { vc := o.ovc.toNat, val := t, eos := c.eos }
             bank := c.y.bank.addFl fl }) s)

/-- The pennant of an operation that takes one as an operand, inverted by pp (R165). -/
def FCtx.p1 (c : FCtx) : Bool := ((c.pen.map (·.val)).getD false) != c.o.pp

def execSteer (o : EOp) (s : State) : Out :=
  .next (elemFire o { penArg := true } (fun c =>
    let t := c.whole 0
    .act { use := srcQ o, out := some (if c.p1 then t else { t with vc := c.y.const % 32 })
           bank := c.y.bank }) s)
def execGate (o : EOp) (s : State) : Out :=
  .next (elemFire o { penArg := true } (fun c =>
    .act { use := srcQ o, out := if c.p1 then some (c.whole 0) else none, bank := c.y.bank }) s)
def execElemSel (o : EOp) (s : State) : Out :=
  .next (elemFire o { penArg := true } (fun c =>
    .act { use := srcQ o, out := some (c.whole (if c.p1 then 0 else 1)), bank := c.y.bank }) s)

/-- merge takes its pennant first, then the queue it names; EOS must stand at both (R165). -/
def execMerge (o : EOp) (s : State) : Out :=
  .next (elemFire o { penArg := true, own := true } (fun c =>
    match c.pen with
    | none =>
      -- an empty queue counts before the pennant (R135)
      .stall (match (srcQ o).find? fun q => (c.tok q).isNone with
        | some q => kNOA + q
        | none => kPENN)
    | some t =>
      let which := if c.p1 then 0 else 1
      let want := ((if t.eos then [c.sel 0, c.sel 1] else [c.sel which]).filter (· < 3)).eraseDups
      match want.find? fun q => (c.tok q).isNone with
      | some q => .stall (kNOA + q)
      | none =>
        let d := { c with toks := c.toks.filter fun x => want.contains x.1 }
        if c.toks.any (·.2.bnr) then .stall kGATE
        else if !outRoom (s.collar c.u) c.e then .stall kNOSP
        else if d.toks.any fun x => x.2.eos != t.eos then .fault 0x23 { detail := 3 }
        else if !domOk d then
          .fault 0x3A { detail := ((d.toks.find? fun x => x.2.dom != 0).map (·.1)).getD 4 }
        else .act { use := want, out := some { d.whole which with eos := t.eos }, bank := c.y.bank }) s)

end Sys2Proof.Machine
end

