-- ==== Sys2Proof/Machine/Window.lean ====
section
/-!
DEFINITION. Plane windows, accesses by physical address, retry logs, and the grants of scratchpad and
strip banks (R24, R63, R64, R100, R101, R104, R126, R136, R369, R370, R440).
-/
namespace Sys2Proof.Machine

/-! ### Plane windows (R136) -/

/-- EFLAGS of a plane (R136). -/
def eflags (x : Elem) (p : Nat) : Nat :=
  let y := x.plane p
  let b := y.bank
  let cur := x.cur.any fun c => c.2 == p
  boolNat b.iv + 2 * boolNat b.dz + 4 * boolNat b.ovf + 8 * boolNat b.uf + 16 * boolNat b.sclamp
  + 2 ^ 8 * y.qa.length + 2 ^ 12 * y.qb.length + 2 ^ 16 * y.qc.length + 2 ^ 20 * y.qp.length
  + 2 ^ 24 * boolNat cur + 2 ^ 25 * boolNat y.trapped + 2 ^ 26 * boolNat y.atend
/-- ECNT of a plane (R136). -/
def ecnt (y : Plane) : Nat :=
  y.bank.sat + 2 ^ 16 * y.bank.ufl + 2 ^ 32 * y.bank.rsv + 2 ^ 48 * y.bank.disc

/-- The 256 bytes of a plane window (R136). -/
def planeWindow (x : Elem) (p : Nat) : List Byte :=
  let y := x.plane p
  bytesOfNat 4 y.op ++ bytesOfNat 4 y.mode ++ bytesOfNat 4 y.const ++ bytesOfNat 4 0
  ++ (tabulate 32 fun v => bytesOfNat 2 (y.vc v)).flatten
  ++ bytesOfNat 8 (eflags x p) ++ bytesOfNat 8 (ecnt y)
  ++ (tabulate 9 fun k => bytesOfNat 4 (tget 0 y.bank.ctr k)).flatten
  ++ List.replicate 124 0

/-- Bytes of a unit's plane windows from a byte offset on. DESIGN CHOICE: notes/assumptions/12.md. -/
def windowRead (s : State) (u off n : Nat) : List Byte :=
  tabulate n fun i =>
    let o := off + i
    (planeWindow (s.elemOf u (o / 0x400 % 256)) (o / 0x100 % 4)).getD (o % 0x100) 0

/-- ECLR: bit 0 clears ECNT, bit 1 the counters (R136). -/
def eclrDo (s : State) (u e p v : Nat) : State :=
  let y := s.planeOf u e p
  let y := if bit v 0 then { y with bank := { y.bank with sat := 0, ufl := 0, rsv := 0, disc := 0 } } else y
  s.setPlane u e p (if bit v 1 then { y with bank := { y.bank with ctr := [] } } else y)
/-- A write of ones to EFLAGS clears the sticky flags (R136). -/
def eflagsClear (s : State) (u e p v : Nat) : State :=
  let y := s.planeOf u e p
  let b := y.bank
  s.setPlane u e p { y with bank := { b with
    iv := b.iv && !bit v 0, dz := b.dz && !bit v 1, ovf := b.ovf && !bit v 2
    uf := b.uf && !bit v 3, sclamp := b.sclamp && !bit v 4 } }

/-- A write of bytes to plane windows: configuration words and counters are read-only (R136). -/
def windowWrite (s : State) (u : Nat) : Nat → List Byte → State
  | _, [] => s
  | off, b :: bs =>
    let e := off / 0x400 % 256
    let p := off / 0x100 % 4
    let s1 :=
      if off % 0x100 = 0x50 then eflagsClear s u e p b.toNat
      else if off % 0x100 = 0x88 then eclrDo s u e p b.toNat
      else s
    windowWrite s1 u (off + 1) bs

/-! ### Accesses by physical address -/

/-- What an agent reads at a physical address that is no device register. -/
def physRead (s : State) (a : AgentId) (pa n unit : Nat) (atomic : Bool := false) : List Byte × State :=
  match place pa with
  | .planes u off => (windowRead s u off n, s)
  | .hbm | .spm _ _ | .sram _ _ => memRead s a pa n unit atomic
  | _ => (s.bytes pa n, s)

/-- Bytes written at a physical address, in atomic units; they may be releases. -/
def physWrite (s : State) (a : AgentId) (pa : Nat) (bs : List Byte) (unit : Nat) (rels : List Rel := []) : State :=
  match place pa with
  | .planes u off => windowWrite s u off bs
  | _ => memWrite s a pa bs rels false (if unit = 0 then 1 else unit)

/-! ### Retry logs (R369, R370) -/

/-- The task an element serves. -/
def taskOf (s : State) (u e : Nat) : Option Nat :=
  let c := s.collar u
  (regionOf c e).bind fun r => (c.region r).task

/-- FLAGS.RETRY of a task (R357, R369). -/
def Task.retry (k : Task) : Bool := bit k.trec.flags 0
/-- Lines the task's log holds: its buffer's size over 128 (R369). -/
def Task.logCap (k : Task) : Nat :=
  match k.plan.find? fun b => b.kind == 3 with
  | some b => b.size / 128
  | none => 0
/-- Writes to this address are staged in the task's log (R369). DEDUCED: notes/assumptions/40.md. -/
def Task.staged (k : Task) (pa : Nat) : Bool :=
  k.retry && (match place pa with
    | .hbm => true
    | .spm t _ => t != k.tile
    | _ => false)

/-- The bytes a task reads at an address, its logged bytes in place of memory's (R369). -/
def Task.logView (k : Task) (pa : Nat) (bs : List Byte) : List Byte :=
  if k.log.isEmpty then bs
  else tabulate bs.length fun i =>
    let a := pa + i
    match k.log.find? fun l => l.1 == a / 64 * 64 with
    | some l => (l.2.getD (a % 64) none).getD (bs.getD i 0)
    | none => bs.getD i 0

/-- The log after a write, none where it needs a line more than the log holds (R369).
DEDUCED: notes/assumptions/40.md. -/
def Task.logPut (k : Task) : Nat → List Byte → Option Task
  | _, [] => some k
  | pa, b :: bs =>
    let line := pa / 64 * 64
    if k.log.any fun l => l.1 == line then
      Task.logPut { k with log := k.log.map fun l =>
        if l.1 = line then (l.1, lset l.2 (pa % 64) (some b)) else l } (pa + 1) bs
    else if k.log.length ≥ k.logCap then none
    else Task.logPut { k with log := k.log ++ [(line, lset (List.replicate 64 none) (pa % 64) (some b))] }
      (pa + 1) bs

/-! ### Lines on their way to memory (R101, R104, R170, R440) -/

/-- RMWOP on a 32-bit value, with its flags, under SAT and the flush of the element's words (R40, R44, R49, R154,
R170). DEDUCED: notes/assumptions/80.md. -/
def rmwOf (op fmt : Nat) (sat flush : Bool) (old x : Nat) : Rnd :=
  if fmt = 1 ∧ op < 3 then
    if op = 0 then
      roundFloat 1 { rnd := 0 } sat flush (Val.add false (decodeSv 1 flush old) (decodeSv 1 flush x))
    else fminmax 1 flush (op == 2) old x
  else
    let sg := fmt == 10
    let rd (v : Nat) : Int := if sg then sextInt 32 v else (v : Nat)
    match op with
    | 0 => intResult (if sg then 10 else 14) sat (rd old + rd x)
    | 1 => iminmax sg 32 false old x
    | 2 => iminmax sg 32 true old x
    | 3 => { code := old &&& x }
    | 4 => { code := old ||| x }
    | 5 => { code := old ^^^ x }
    | _ => { code := x }

/-- Word `i` of bytes. -/
def wordAt (l : List Byte) (i : Nat) : Nat := natOfBytes ((l.drop (4 * i)).take 4)

/-- What an agrmw makes of a line's old bytes and its token's, value by value (R170). -/
def rmwLine (op fmt : Nat) (sat flush : Bool) (old new : List Byte) : List Rnd :=
  tabulate (new.length / 4) fun i => rmwOf op fmt sat flush (wordAt old i) (wordAt new i)

/-- The codes and flags of a line's values, a repair's value in the place of those that met a condition (R377). -/
def rmwTake (r : RmwOp) (rs : List Rnd) : List Nat × Fl :=
  match r.value with
  | some v => (rs.map fun x => if x.fl.cause.isSome then v else x.code,
               rs.foldl (fun f x => if x.fl.cause.isSome then f else f.or x.fl) {})
  | none => (rs.map (·.code), rs.foldl (fun f x => f.or x.fl) {})

/-- The old line takes its place in the first result that awaits one (R170). -/
def fillRet (l : List ORes) (v : Line) : List ORes :=
  match l with
  | [] => []
  | r :: t => if r.need then { r with tok := { r.tok with val := v }, need := false } :: t else r :: fillRet t v

/-- A line is written, or an agrmw performs its operation on it whole (R101, R170, R334). -/
def landFly (s : State) (u : Nat) (w : Fly) : State :=
  let a : AgentId := .stream w.str
  match w.rmw with
  | none => physWrite s a w.pa w.bytes 4
  | some r =>
    let (old, s1) := memRead s a w.pa 64 4 true
    let (codes, fl) := rmwTake r (rmwLine r.op r.fmt r.sat r.flush old w.bytes)
    let s2 := memWrite s1 a w.pa (codes.map (bytesOfNat 4)).flatten [] true 4
    let x := s2.elemOf u w.elem
    let y := x.plane r.plane
    s2.setElem u w.elem { x.setPlane r.plane { y with bank := y.bank.addFl fl } with
      out := if r.ret then fillRet x.out (lineOfBytes (old.take w.bytes.length)) else x.out }

/-- A line leaves the list of those on their way, and is written. -/
def landOne (s : State) (u : Nat) (w : Fly) : State :=
  let c := s.collar u
  landFly (s.setCollar u { c with fly := c.fly.erase w }) u w

/-- Lines granted at a bank before an access of one of them are written before it (R101). -/
def landLine (s : State) (u pa : Nat) : State :=
  ((s.collar u).fly.filter fun w => w.direct && w.pa / 64 == pa / 64).foldl (fun s w => landOne s u w) s

/-! ### Banks (R24, R100, R101, R104, R440) -/

/-- The bank an address lies in: unit and bank. -/
def bankAt (pa : Nat) : Option (Nat × Nat) :=
  match place pa with
  | .spm t off => some (t, off / 0x100000)
  | .sram u off => some (u, off / 0x40000)
  | _ => none

/-- The requester number of an element, in the miss file and at a bank; and that of its lines on their way. -/
def elemReq (u e : Nat) : Nat := reqId 1 (u * 256 + e)
def flyReq (u e : Nat) : Nat := reqId 20 (u * 256 + e)

/-- The port by which an element of a unit reaches a bank: 0 and 1 its local AGs, 2 the switch
network, 3 the mesh. DEDUCED: notes/assumptions/33.md. -/
def agPort (u e : Nat) (b : Nat × Nat) : Nat :=
  if b.1 ≠ u then 3
  else if elemType e == .G && localBank u e == b.2 then (if e % 8 < 4 then 0 else 1)
  else 2

/-- The same for a request that has come the whole way (R104). -/
def agWay (u e : Nat) (b : Nat × Nat) : Nat × Nat := (agPort u e b, 0)

/-- An element's own bank: it reaches it directly (R24, R104). -/
def agDirect (u e : Nat) (pa : Nat) : Bool :=
  match bankAt pa with
  | some b => b.1 == u && (decide (agPort u e b < 2) || (decide (u ≥ 64) && localBank u e == b.2))
  | none => false

/-- Place of a port in the rotating order after the port granted last (R440). DEDUCED: notes/assumptions/33.md. -/
def portRank (last port : Nat) : Nat := (port + 6 - last) % 7

/-- The physical address an element's plane would access in this cycle, translated where the cache
holds its page. -/
def cachedPa (s : State) (u e : Nat) (loc : Bool) (va : Nat) : Option Nat :=
  if loc then (if va < 0x100000 then some (localAddr u va) else none)
  else ((s.xu u).tlb.find? fun t => t.hits (elemAsid s u e) va).map fun t => t.pa + (va - t.va)

/-- Iteration indices of a pattern, level 0 innermost (R168). -/
def Desc.idx (d : Desc) (t : Nat) : List Nat :=
  ((d.cnt.take (bits d.ctl 2 0)).foldl (fun (acc : List Nat × Nat) c =>
    let n := if c = 0 then 1 else c
    (acc.1 ++ [acc.2 % n], acc.2 / n)) ([], t)).1
/-- Iterations of a pattern (R168). -/
def Desc.len (d : Desc) : Nat := (d.cnt.take (bits d.ctl 2 0)).foldl (· * ·) 1
/-- The line address of iteration `t` (R168). -/
def Desc.va (d : Desc) (t : Nat) : Nat :=
  let i := d.idx t
  wrapInt 64 ((List.range i.length).foldl (fun a k =>
    a + (i.getD k 0 : Int) * sextInt 32 (d.str.getD k 0)) (d.base : Int))
def Desc.trig (d : Desc) : Bool := bit d.ctl 3
def Desc.node (d : Desc) : Bool := bit d.ctl 4
def Desc.ret (d : Desc) : Bool := bit d.ctl 8
def Desc.rmw (d : Desc) : Nat := bits d.ctl 7 5
/-- LOC of a strip's descriptor (R24). -/
def Desc.loc (d : Desc) (u : Nat) : Bool := bit d.ctl 13 && decide (u ≥ 64)
/-- The pattern as a token that triggers it gives it: its bytes 0 to 7, where they are not zero, replace BASE
(R168). -/
def Desc.under (d : Desc) (t : Tok) : Desc :=
  let b8 := t.val.toNat % 2 ^ 64
  if d.trig && b8 != 0 then { d with base := b8 } else d

/-- Where a plane's descriptor lies. -/
def descPa (u : Nat) (y : Plane) : Nat := localAddr u (y.mode / 256 % 2 ^ 24)

/-- A banner of the stream is due (R386). -/
def bannerDue (c : FCtx) (d : Desc) : Bool :=
  let st := c.y.bank.st
  c.y.opcode == 0x3E && !d.trig && c.k != 0 && decide (st.cnt ≥ c.k)

/-- The firing's pennant is there, matches the token's EOS and opens its guard (R147). -/
def FCtx.guardOpen (c : FCtx) (eos : Option Bool) : Bool :=
  !c.o.pg || match c.pen with
    | some t => eos.all (· == t.eos) && c.guard
    | none => false

/-- The address of the line that the firing of an AG operation would access in this cycle (R440). -/
def nextLine (s : State) (c : FCtx) (d : Desc) : Option Nat :=
  let st := c.y.bank.st
  let op := c.y.opcode
  let room := outRoom (s.collar c.u) c.e
  let data := (c.tok 0).filter fun t => !t.bnr
  if op = 0x3E then
    if d.node || !room then none
    else if st.on then
      if st.ready > s.cycle || bannerDue c d || !(d.trig || c.guardOpen none) then none else some (d.va st.t)
    else match data with
      | some t => if d.trig && c.guardOpen (some t.eos) && domOk c then some ((d.under t).va 0) else none
      | none => none
  else if op = 0x3F ∨ op = 0x41 then
    match data with
    | some t =>
      if st.ready > s.cycle || (op == 0x3F && c.k != 0) || !c.guardOpen (some t.eos) || gateClosed s c.u c.e c.slot
        || !domOk c || (op == 0x41 && d.ret && !room) || st.grant == some 3 then none
      else some ((d.under t).va st.t)
    | none => none
  else none

/-- The physical addresses at which an element asks a bank of its unit in this cycle: its descriptors', and that of
the line its firing would access; a store to another bank asks for it once it is there (R104, R435, R440). -/
def agWants (s : State) (u e : Nat) : List Nat :=
  let c := s.collar u
  let x := c.elem e
  if x.fault.isSome then []
  else
    (x.planes.filterMap fun (_, y) => if y.bank.st.wantDesc then some (descPa u y) else none)
    ++ match (regionOf c e).bind fun r => (c.region r).sel with
      | none => []
      | some slot => match x.curOf slot with
        | none => []
        | some p =>
          let s := { s with cur := { s.cur with unit := u, elem := e, slot := slot, plane := p } }
          let f := fctx s (x.plane p).eop
          match f.y.bank.st.wantDesc, f.y.bank.st.desc with
          | false, some d =>
            (((nextLine s f d).bind fun va => cachedPa s u e (d.loc u) va).filter fun pa =>
              f.y.opcode == 0x3E || agDirect u e pa).toList
          | _, _ => []

def State.bank (s : State) (b : Nat × Nat) : BankSt := tget {} (s.collar b.1).banks b.2
def State.setBank (s : State) (b : Nat × Nat) (k : BankSt) : State :=
  let c := s.collar b.1
  s.setCollar b.1 { c with banks := tput c.banks b.2 k }

/-- The turn of a port in a bank's rotating order, and of an element among those that share the switch-network
port (R100, R440). -/
def bankRank (k : BankSt) (port e : Nat) : Nat :=
  portRank k.lastPort port * 256 + (if port = 2 then (e + 255 - k.lastElem) % 256 else 0)

/-- A request of a port at a bank has not been passed over in this cycle: no grant is given yet, and no AG of the
unit that could ask for the bank comes before it (R100, R440). -/
def bankFirst (s : State) (b : Nat × Nat) (port e : Nat) : Bool :=
  let k := s.bank b
  k.grant != some s.cycle
  && (s.collar b.1).elems.all fun (f, _) =>
      (f == e && decide (port < 3)) || decide (bankRank k port e < bankRank k (agPort b.1 f b) f)
      || (agWants s b.1 f).all fun pa => bankAt pa != some b

/-- A bank's grant is taken by a port. -/
def BankSt.give (k : BankSt) (now port e : Nat) : BankSt :=
  { k with lastPort := port, lastElem := if port = 2 then e else k.lastElem, grant := some now }

def grantBank (s : State) (b : Nat × Nat) (port e : Nat) : State := s.setBank b ((s.bank b).give s.cycle port e)

/-- The access of an AG to a bank of its unit asks in each cycle in which the element could fire: `none` says it
waits (R440). -/
def takeBank (s : State) (pa port e : Nat) : Option State :=
  match bankAt pa with
  | none => some s
  | some b => if bankFirst s b port e then some (landLine (grantBank s b port e) b.1 pa) else none

/-- The line accesses of pieces: a piece in a bank is cut at the bank's lines (R100). -/
def lineCuts (ps : List (Nat × Nat)) : List (Nat × Nat) :=
  (ps.map fun (pa, n) => if (bankAt pa).isSome then cutUnits 64 (n / 64 + 2) pa n else [(pa, n)]).flatten

/-- A request is that of a line access. -/
def BReq.is (r : BReq) (who : Nat) (p : Nat × Nat) : Bool := r.who == who && r.pa == p.1 && r.n == p.2

/-- The request of a line access that pends at its bank. -/
def reqAt (s : State) (who : Nat) (p : Nat × Nat) : Option BReq :=
  (bankAt p.1).bind fun b => (s.bank b).pend.find? fun r => r.is who p

/-- A request joins those pending in the order in which they reach the bank (R100). -/
def joinReq (r : BReq) : List BReq → List BReq
  | [] => [r]
  | q :: t => if r.at' < q.at' then r :: q :: t else q :: joinReq r t

/-- A line access joins those pending at its port, once; `port` gives the port, and the least cycles to the bank
(R104). -/
def enlist (s : State) (port : Nat × Nat → Nat × Nat) (who e : Nat) (p : Nat × Nat) : State :=
  match bankAt p.1 with
  | none => s
  | some b =>
    let k := s.bank b
    if k.pend.any fun r => r.is who p then s
    else
      let r : BReq := { port := (port b).1, who := who, elem := e, pa := p.1, n := p.2, at' := s.cycle + (port b).2 }
      s.setBank b { k with pend := joinReq r k.pend }

/-- A line access has been granted; one to memory asks no bank. -/
def served (s : State) (who : Nat) (p : Nat × Nat) : Bool :=
  (bankAt p.1).isNone || (reqAt s who p).any (·.granted)

/-- A line access leaves its port; lines granted before it are written before it (R101). -/
def delist (s : State) (who : Nat) (p : Nat × Nat) : State :=
  match bankAt p.1 with
  | none => s
  | some b =>
    let k := s.bank b
    landLine (s.setBank b { k with pend := k.pend.filter fun r => !r.is who p }) b.1 p.1

/-- Accesses that are performed together: the port by which each reaches a bank with the least cycles to it, its
requester, and its pieces. -/
abbrev BankAsk := (Nat × Nat → Nat × Nat) × Nat × List (Nat × Nat)

/-- Accesses ask their banks, each line of them to be granted: whether all have been (R100). -/
def askAll (s : State) (e : Nat) (l : List BankAsk) : Bool × State :=
  let s1 := l.foldl (fun s a => (lineCuts a.2.2).foldl (fun s p => enlist s a.1 a.2.1 e p) s) s
  if l.all fun a => (lineCuts a.2.2).all (served s1 a.2.1) then
    (true, l.foldl (fun s a => (lineCuts a.2.2).foldl (fun s p => delist s a.2.1 p) s) s1)
  else (false, s1)

def askBanks (s : State) (port : Nat × Nat → Nat × Nat) (who e : Nat) (ps : List (Nat × Nat)) : Bool × State :=
  askAll s e [(port, who, ps)]

/-- Requests of units that are gone no longer wait at any bank. -/
def dropBanks (s : State) (p : Nat → Bool) : State :=
  { s with collars := s.collars.map fun (u, c) =>
      (u, { c with banks := c.banks.map fun (b, k) => (b, { k with pend := k.pend.filter fun r => !p r.who }) }) }

/-- The bank's grant of a cycle among what pends at its ports, and the AGs that could ask for it: the port that
follows the one granted last; a port presents its requests in the order in which they reach it, the
switch-network port in the order of their elements (R100, R440). -/
def arbitrate (s : State) (u b : Nat) (k : BankSt) : BankSt :=
  let ready := k.pend.filter fun r => !r.granted && decide (r.at' ≤ s.cycle)
  let heads := ready.filter fun r => r.port == 2 || (ready.find? fun q => q.port == r.port) == some r
  match heads.find? fun r =>
      heads.all (fun q => decide (bankRank k r.port r.elem ≤ bankRank k q.port q.elem)) && bankFirst s (u, b) r.port r.elem with
  | none => k
  | some r =>
    let k' := k.give s.cycle r.port r.elem
    { k' with pend := k.pend.map fun q => if q == r then { r with granted := true } else q }

/-- The banks that something pends at choose, once the cycle's tokens have arrived (R100, R440). -/
def arbitrateAll (s : State) : State :=
  { s with collars := s.collars.map fun (u, c) =>
      if c.banks.all fun (_, k) => k.pend.isEmpty then (u, c)
      else (u, { c with banks := c.banks.map fun (b, k) => (b, if k.pend.isEmpty then k else arbitrate s u b k) }) }

/-- Requesters whose accesses have been granted: they are performed in the cycle of the grant (R101). -/
def grantedReqs (s : State) : List Nat :=
  (s.collars.map fun (_, c) => (c.banks.map fun (_, k) =>
    k.pend.filterMap fun r => if r.granted then some r.who else none).flatten).flatten

/-! ### Distances (R104) -/

/-- Steps from a box to a box along a ring of 32, both counted. -/
def boxesBetween (a b : Nat) : Nat :=
  let d := (b + 32 - a) % 32
  min d (32 - d) + 1

/-- Boxes an AG's request crosses to another bank of its unit (R104). -/
def boxesTo (u e bank : Nat) : Nat :=
  let from' := e / 64 * 8 + e % 32 / 4
  let homes := if u < 64 then [bank / 4 * 8 + bank % 4 * 2, bank / 4 * 8 + bank % 4 * 2 + 1]
    else tabulate 8 fun i => bank * 8 + i
  homes.foldl (fun m h => min m (boxesBetween from' h)) 32

/-- Hops between two tiles of a die, along X then Y (R17, R104). -/
def meshHops (t u : Nat) : Nat :=
  let d (a b : Nat) : Nat := if a ≤ b then b - a else a - b
  d (t % 4) (u % 4) + d (t / 4 % 4) (u / 4 % 4)

/-- The least cycles from a tile to another tile's slice (R104). -/
def sliceLat (t u : Nat) : Nat := 6 + 2 * meshHops t u + 4 + (if u / 16 = t / 16 then 0 else 40)

/-- Cycles from an AG's firing to its line: the minimum of R104, and outside the local bank a free
wait beyond it. -/
def agLat (s : State) (u e pa : Nat) : Nat :=
  if agDirect u e pa then 6
  else match bankAt pa with
    | some b => (if b.1 ≠ u then sliceLat u b.1 else 6 + 2 * boxesTo u e b.2) + undef s 640
    | none => 6 + undef s 640

/-- The least cycles to a bank from a die, for a unit that R104 gives no other minimum: to another die's slice. -/
def dieLat (d : Nat) (b : Nat × Nat) : Nat := if b.1 / 16 = d ∨ b.1 ≥ 64 then 0 else 40

/-- The port by which a tile's own unit reaches a bank: its own, or the mesh, with R104's least cycles for the
sequencer's accesses (R100). -/
def portTo (t own : Nat) (b : Nat × Nat) : Nat × Nat :=
  if b.1 = t then (own, 0) else (3, if own = 5 ∧ b.1 < 64 then sliceLat t b.1 else dieLat (t / 16) b)

/-- The mesh port, for a unit whose way there R104 does not give. -/
def meshPort (_b : Nat × Nat) : Nat × Nat := (3, 0)

/-! ### Mesh attachments (R104) -/

/-- An address that a tile reaches through its mesh attachments. -/
def beyond (t pa : Nat) : Bool :=
  match bankAt pa with
  | some b => b.1 != t
  | none => place pa == .hbm

/-- Lines that the eight mesh attachments of a tile can still carry in this cycle, out or in (R104). -/
def meshRoom (s : State) (t : Nat) (out : Bool) : Nat :=
  let m := (s.collar t).mesh
  if m.1 = s.cycle then 8 - (if out then m.2.1 else m.2.2) else 8

/-- The mesh attachments carry lines in this cycle. -/
def meshTake (s : State) (t n : Nat) (out : Bool) : State :=
  let c := s.collar t
  let m := if c.mesh.1 = s.cycle then c.mesh else (s.cycle, 0, 0)
  s.setCollar t { c with mesh := if out then (m.1, m.2.1 + n, m.2.2) else (m.1, m.2.1, m.2.2 + n) }

/-- Lines of a tile's access that its mesh attachments carry. -/
def meshLines (t : Nat) (ps : List (Nat × Nat)) : Nat :=
  natSum (ps.map fun p => if beyond t p.1 then (p.2 + 63) / 64 else 0)

/-! ### Accesses line by line (R100, R101) -/

/-- A line access is performed once its bank has granted it, and not again; a tile's own unit waits for its mesh
attachments too (R101, R104). `f` gives each byte it reads with its poison. -/
def performLine (f : Nat → Nat → State → List (Byte × Bool) × State) (own : Option Nat) (out : Bool) (who : Nat)
    (s : State) (p : Nat × Nat) : State :=
  match bankAt p.1, reqAt s who p with
  | some b, some r =>
    let n := (own.map fun t => meshLines t [p]).getD 0
    if !r.granted || r.got.isSome || decide (n > meshRoom s (own.getD 0) out) then s
    else
      let s1 := landLine (if n = 0 then s else meshTake s (own.getD 0) n out) b.1 p.1
      let (d, s2) := f p.1 p.2 s1
      let k := s2.bank b
      s2.setBank b { k with pend := k.pend.map fun q => if q.is who p then { q with got := some d } else q }
  | _, _ => s

/-- What a line access has read, or reads now where it asks no bank. -/
def takeLine (f : Nat → Nat → State → List (Byte × Bool) × State) (who : Nat) (acc : List (Byte × Bool) × State)
    (p : Nat × Nat) : List (Byte × Bool) × State :=
  match bankAt p.1 with
  | some _ => (acc.1 ++ ((reqAt acc.2 who p).bind (·.got)).getD [], delist acc.2 who p)
  | none =>
    let (d, s) := f p.1 p.2 acc.2
    (acc.1 ++ d, s)

/-- An access is performed line by line, each when its bank grants it (R100, R101): what its lines gave once the last
has been performed. -/
def lineAccess (s : State) (port : Nat × Nat → Nat × Nat) (who e : Nat) (own : Option Nat) (out : Bool) (ps : List (Nat × Nat))
    (f : Nat → Nat → State → List (Byte × Bool) × State) : Option (List (Byte × Bool)) × State :=
  let ls := lineCuts ps
  let s1 := ls.foldl (performLine f own out who) (ls.foldl (fun s p => enlist s port who e p) s)
  let free := ls.filter fun p => (bankAt p.1).isNone
  let n := (own.map fun t => meshLines t free).getD 0
  if !(ls.all fun p => (bankAt p.1).isNone || ((reqAt s1 who p).bind (·.got)).isSome)
      || decide (n > meshRoom s1 (own.getD 0) out) then (none, s1)
  else
    let (d, s2) := ls.foldl (takeLine f who) ([], if n = 0 then s1 else meshTake s1 (own.getD 0) n out)
    (some d, s2)

/-- Bytes of the pieces before the one at an address. -/
def piecesBefore (pa : Nat) : List (Nat × Nat) → Nat
  | [] => 0
  | (q, n) :: t => if q = pa then 0 else n + piecesBefore pa t

/-- Bytes are written line by line, each when its bank grants it (R100, R101): what `f` gives of its lines. -/
def linesWrite (s : State) (port : Nat × Nat → Nat × Nat) (who e : Nat) (own : Option Nat) (ps : List (Nat × Nat))
    (f : Nat → Nat → Nat → State → List (Byte × Bool) × State) : Option (List (Byte × Bool)) × State :=
  let ls := lineCuts ps
  lineAccess s port who e own true ps fun pa n s => f (piecesBefore pa ls) pa n s

/-- A line as an agent reads it, each byte with its poison. -/
def lineRead (a : AgentId) (unit : Nat) (pa n : Nat) (s : State) : List (Byte × Bool) × State :=
  let (b, s1) := physRead s a pa n unit
  (tabulate n fun i => (b.getD i 0, isPoisoned s (pa + i)), s1)

/-! ### Lines that AGs have fired on (R104) -/

/-- The lines of a unit that may be written now are: one to an element's own bank in its cycle, any other when its
bank, if it lies in one, grants it; those of one element to one bank stay in their order (R101, R104, R440). -/
def landDue (s : State) (u : Nat) : State :=
  ((s.collar u).fly.foldl (fun (acc : State × List Fly) w =>
    let s := acc.1
    let behind := acc.2.any fun v => v.elem == w.elem && (bankAt v.pa == bankAt w.pa)
    if !(s.collar u).fly.contains w then acc
    else if behind || decide (w.due > s.cycle) then (s, acc.2 ++ [w])
    else if w.direct then (landOne s u w, acc.2)
    else match askBanks s (agWay u w.elem) (flyReq u w.elem) w.elem [(w.pa, w.bytes.length)] with
      | (true, s) => (landOne s u w, acc.2)
      | (false, s) => (s, acc.2 ++ [w])) (s, [])).1

/-- Every line of some elements of a unit that is still to be written is written now. -/
def landElems (s : State) (u : Nat) (p : Fly → Bool) : State :=
  ((s.collar u).fly.filter p).foldl (fun s w => landOne s u w) s

/-! ### AG streams as agents (R329, R335, R339) -/

/-- The agent of the stream an element has in a slot. -/
def streamOf (s : State) (u e slot : Nat) : AgentId := .stream (tget 0 (s.elemOf u e).strm slot)

/-- A stream of an element in a slot begins: a new agent of the task the element serves, which sees what a fence
with col ordered before it. -/
def newStream (s : State) (u e slot : Nat) : State :=
  let k := s.mem.nextStr
  let n := taskOf s u e
  let x := s.elemOf u e
  let s1 := { s with mem := { s.mem with nextStr := k + 1 } }
  (s1.setAg (.stream k) { task := n, floor := (n.map fun n => (s.task n).colFloor).getD [], str := some (u, e, slot) }).setElem
    u e { x with strm := tput x.strm slot k }

/-- The stream an element accesses memory by: another task's is over. -/
def useStream (s : State) (u e slot : Nat) : State :=
  if thas (s.elemOf u e).strm slot && (s.ag (streamOf s u e slot)).task == taskOf s u e then s else newStream s u e slot

/-! ### Ranges of addresses (R67) -/

/-- A range of addresses, translated page by page: the pieces in physical memory (R67). -/
inductive VRes where
  | ok (ps : List (Nat × Nat))
  | wait
  | fail (cause addr : Nat)
deriving DecidableEq, Repr

/-- Translate `n` bytes from `va` on, in pieces that no 256 KiB boundary crosses. -/
def vaPieces (u asid root : Nat) (en : Bool) (req need : Nat) (reg : Bool) :
    Nat → Nat → Nat → State → VRes × State
  | 0, _, _, s => (.ok [], s)
  | _, _, 0, s => (.ok [], s)
  | fuel + 1, va, n, s =>
    let k := min n (2 ^ 18 - va % 2 ^ 18)
    match xlate s u asid root en req va need reg with
    | (.ok pa, s) =>
      match vaPieces u asid root en req need reg fuel (va + k) (n - k) s with
      | (.ok ps, s) => (.ok ((pa, k) :: ps), s)
      | r => r
    | (.wait, s) => (.wait, s)
    | (.fail c, s) => (.fail c va, s)

/-- The first piece with poisoned bytes. -/
def poisonedPiece (s : State) (ps : List (Nat × Nat)) : Bool := ps.any fun (pa, n) => anyPoison s pa n

/-- What an agent reads of the pieces. -/
def readPieces (a : AgentId) (unit : Nat) : List (Nat × Nat) → State → List Byte × State
  | [], s => ([], s)
  | (pa, n) :: t, s =>
    let (b, s) := physRead s a pa n unit
    let (bs, s) := readPieces a unit t s
    (b ++ bs, s)

end Sys2Proof.Machine
end

