-- ==== Sys2Proof/Machine/Route.lean ====
section
/-!
DEFINITION. Switch words and the routes they give (R121, R122, R123, R177).
-/
namespace Sys2Proof.Machine

/-! ### The fields of a switch word (R177) -/
def swOut (w : Nat) : Nat := bits w 15 12
def swIn (w : Nat) : Nat := bits w 11 8
def swVc (w : Nat) : Nat := bits w 7 3
def swPen (w : Nat) : Bool := bit w 2
def swDepth (w : Nat) : Nat := bits w 1 0

/-- Entries a buffer-depth class adds (R123). -/
def depthExtra (k : Nat) : Nat := if k = 0 then 0 else if k = 1 then 2 else if k = 2 then 6 else 14

/-- The route set of a box for a region and a plane (R122). -/
def Box.words (b : Box) (r p : Nat) : List Nat := tget [] b.routes (r * 4 + p)

/-- Output ports of a token or pennant (R122). -/
def outsFor (words : List Nat) (inp vc : Nat) (pen : Bool) : List Nat :=
  (words.filter fun w => swIn w == inp && swVc w == vc && swPen w == pen).map swOut

/-- The class the words of a lane name for an output port (R123): pennants are at 8 + port. -/
def Box.class (b : Box) (key : Nat) : Nat :=
  b.routes.foldl (fun m (_, ws) => ws.foldl (fun m w =>
    if swOut w + (if swPen w then 8 else 0) == key then max m (swDepth w) else m) m) 0

/-- The class in force: of the deepest class named, or the earlier one while the buffer holds more than
the new capacity (R123). -/
def Box.force (b : Box) (key : Nat) : Nat :=
  let len := if key < 8 then (tget [] b.dbuf key).length else (tget [] b.pbuf (key - 8)).length
  let new := b.class key
  let old := tget 0 b.cls key
  if new < old ∧ len > 2 + depthExtra new then old else new
/-- Entries of an output buffer (R123). -/
def Box.cap (b : Box) (key : Nat) : Nat := 2 + depthExtra (b.force key)
/-- The box with the classes now in force noted. -/
def Box.settle (b : Box) : Box :=
  { b with cls := (List.range 16).foldl (fun t k =>
      if b.force k = 0 then tdel t k else tput t k (b.force k)) b.cls }

/-- Every box a token would cross has a word for it (R122). -/
def pathOk (c : Collar) (r p vc : Nat) (pen : Bool) : Nat → Nat → Nat → Bool
  | 0, _, _ => true
  | fuel + 1, b, port =>
    let outs := outsFor ((c.box b).words r p) port vc pen
    if outs.isEmpty then vc == 31 && !pen
    else outs.all fun o =>
      if 4 ≤ o ∧ o < 7 then
        let (b', port') := neighbour b o
        pathOk c r p vc pen fuel b' port'
      else true

/-- The box of a mesh attachment whose words take a token in, the first in ascending order.
DEDUCED: notes/assumptions/59.md. -/
def meshBox (c : Collar) (r p vc : Nat) : Option Nat :=
  (List.range 64).find? fun b => hasMesh b && !(outsFor ((c.box b).words r p) 7 vc false).isEmpty

/-- A token arrives at a collar from the mesh. -/
def meshArrive (s : State) (u b : Nat) (t : Tok) : State :=
  let c := s.collar u
  let x := c.box b
  s.setCollar u (c.setBox b { x with mesh := x.mesh ++ [t] })

end Sys2Proof.Machine
end

