-- ==== Sys2Proof/Machine/ElemMem.lean ====
section
/-!
DEFINITION. Memory operations of elements: descriptors, agld, agst, agreq, agrmw, memory nodes and the
tables of lut elements (R24, R63, R71, R100-R105, R154, R159, R168-R171, R210, R369, R386, R387).
-/
namespace Sys2Proof.Machine

/-! ### Descriptors (R168) -/

/-- The descriptor in 64 bytes. -/
def descOf (b : List Byte) : Desc :=
  let n (o k : Nat) : Nat := natOfBytes ((b.drop o).take k)
  { base := n 0 8, cnt := tabulate 6 fun i => n (8 + 4 * i) 4
    str := tabulate 6 fun i => n (32 + 4 * i) 4, ctl := n 56 8 }

/-- A malformed descriptor, by the operation that reads it (R168); a memory node ignores the pattern (R169). -/
def descBad (u op : Nat) (d : Desc) : Bool :=
  let lev := bits d.ctl 2 0
  let node := op == 0x3E && d.node
  let rsv := bits d.ctl 63 27 != 0 || bits d.ctl 15 14 != 0 || (decide (u < 64) && bit d.ctl 13)
  let rlen := bits d.ctl 26 16
  rsv
  || (!node && (lev == 0 || lev == 7 || (List.range 6).any fun i =>
        if i < lev then d.cnt.getD i 0 == 0 else d.cnt.getD i 0 != 0 || d.str.getD i 0 != 0))
  || (op == 0x40 && (rlen == 0 || decide (rlen > 1024)))
  || (op == 0x41 && d.rmw == 7)

/-- TRIG of the descriptor a plane names, as memory holds it. DEDUCED: notes/assumptions/65.md. -/
def descTrig (s : State) (u : Nat) (y : Plane) : Bool :=
  bit (descOf (s.bytes (descPa u y) 64)).ctl 3
def descNode (s : State) (u : Nat) (y : Plane) : Bool :=
  bit (descOf (s.bytes (descPa u y) 64)).ctl 4

/-- A plane awaits its descriptor read. DEDUCED: notes/assumptions/65.md. -/
def needDesc (s : State) (c : FCtx) : State :=
  s.setPlane c.u c.e c.p (c.keep { c.y with bank := { c.y.bank with st := { c.y.bank.st with wantDesc := true } } })

/-! ### Line accesses -/

inductive LineRes where
  | ok (pa : Nat)
  | stall
  | fault (cause : Nat)
deriving DecidableEq, Repr

/-- The root and the enable under which an element translates. -/
def elemRoot (s : State) (u asid : Nat) : Nat × Bool :=
  let x := s.xu u
  if u < 64 ∧ x.asid = asid then (x.root, x.en)
  else ((tget {} s.asids asid).root, decide (u ≥ 64) || x.en)

/-- An element reaches a line: alignment, translation, permission, room at its tile's mesh attachments, and its bank's
grant. `stream` says that a bank of its unit looks at the element itself in each cycle (R440); a store to another bank
than the element's own asks for it once it is there (R104). -/
def agLine (s : State) (u e va need : Nat) (loc : Bool) (stream : Bool := true) (store : Bool := false) : LineRes × State :=
  if va % 64 ≠ 0 then (.fault 0x13, s)
  else
    let r : LineRes × State :=
      if loc then (if va ≥ 0x100000 then (.fault 0x10, s) else (.ok (localAddr u va), s))
      else
        let asid := elemAsid s u e
        let (root, en) := elemRoot s u asid
        match xlate s u asid root en (elemReq u e) va need false with
        | (.ok pa, s) => (.ok pa, s)
        | (.wait, s) => (.stall, s)
        | (.fail k, s) => (.fault k, s)
    match r with
    | (.ok pa, s) =>
      let far := decide (u < 64) && beyond u pa
      let go (s : State) : LineRes × State := (.ok pa, if far then meshTake s u 1 store else s)
      if far && meshRoom s u store == 0 then (.stall, s)
      else if store && !agDirect u e pa then go s
      else if stream && (bankAt pa).all fun b => b.1 == u then
        match takeBank s pa (((bankAt pa).map (agPort u e)).getD 3) e with
        | some s => go s
        | none => (.stall, s)
      else match askBanks s (agWay u e) (elemReq u e) e [(pa, 64)] with
        | (true, s) => go s
        | (false, s) => (.stall, s)
    | r => r

/-- What a faulting iteration records (R374). -/
def lineInfo (d : Desc) (t detail : Nat) : FInfo :=
  { detail := detail, addr := d.va t, pos := some t, idx := d.idx t }

/-- An element reads a line under its task's log (R369). -/
def agRead (s : State) (a : AgentId) (u e pa : Nat) (atomic : Bool) : List Byte × State :=
  let (b, s) := physRead s a pa 64 4 atomic
  match taskOf s u e with
  | some n => ((s.task n).logView pa b, s)
  | none => (b, s)

/-- An element's bytes of a line go into its task's log (R369): `none` where the log is full, and the state as it is
where the task stages nothing there. -/
def agLog (s : State) (u e pa : Nat) (b : List Byte) : Option (Bool × State) :=
  match taskOf s u e with
  | some n =>
    if (s.task n).staged pa then ((s.task n).logPut pa b).map fun k => (true, s.setTask n k) else some (false, s)
  | none => some (false, s)

/-- A line an element has fired on goes on its way to memory, where it is written no sooner than R104 gives. A stream of
lines that were buffered asks for each bank when it performs them (R387). -/
def agFly (s : State) (str u e pa : Nat) (b : List Byte) (rmw : Option RmwOp := none) (buffered : Bool := false) : State :=
  let c := s.collar u
  let w : Fly :=
    { elem := e, str := str, pa := pa, bytes := b, rmw := rmw
      due := s.cycle + (if buffered && agDirect u e pa then 0 else agLat s u e pa), direct := !buffered && agDirect u e pa }
  s.setCollar u { c with fly := c.fly ++ [w] }

/-- An element writes bytes of a line, or stages them (R369); `none` where the log is full. -/
def agWrite (s : State) (str u e pa : Nat) (b : List Byte) (buffered : Bool := false) : Option State :=
  (agLog s u e pa b).map fun (staged, s) => if staged then s else agFly s str u e pa b none buffered

/-- The stream's number (R329). -/
def streamNo (s : State) (u e slot : Nat) : Nat := tget 0 (s.elemOf u e).strm slot

/-- A line with what an agst of the plane has buffered for it (R387). -/
def Plane.overlay (y : Plane) (pa : Nat) (b : List Byte) : List Byte :=
  y.lines.foldl (fun b l => if l.pa = pa then l.bytes ++ b.drop l.bytes.length else b) b

/-- AG_DESCRIPTOR_READ: one access of the bank that holds the descriptor, by the stream that it starts (R168, R329,
R387, R435). -/
def execAgDescriptorRead (u e p : Nat) (s : State) : Out :=
  let y := s.planeOf u e p
  let st := y.bank.st
  let pa := descPa u y
  let slot := ((s.elemOf u e).cur.find? fun c => c.2 == p).map (·.1)
  if !st.wantDesc || (s.elemOf u e).fault.isSome then .next s
  else match takeBank s pa (((bankAt pa).map (agPort u e)).getD 3) e with
    | none => .next s
    | some s =>
      let sl := slot.getD 0
      if anyPoison s pa 64 then .next (elemFault s u e sl p 0x14 { detail := 4, pos := some 0 })
      else
        let s := useStream s u e sl
        let (b, s) := agRead s (streamOf s u e sl) u e pa false
        let d := descOf (y.overlay pa b)
        if descBad u y.opcode d then .next (elemFault s u e sl p 0x08 { detail := 4, pos := some 0 })
        else
          let trig := d.trig || (y.opcode == 0x3E && d.node)
          let st' := { st with desc := some d, wantDesc := false, ready := s.cycle + 1
                               on := st.on && !trig }
          .next (s.setPlane u e p { y with bank := { y.bank with st := st' } })

/-- A result leaves its element no earlier than a cycle, and not before an agrmw has read its value. -/
def lateOut (s : State) (u e ready : Nat) (need : Bool := false) : State :=
  let x := s.elemOf u e
  match x.out.reverse with
  | r :: rest => s.setElem u e { x with out := (({ r with ready := ready, need := need } : ORes) :: rest).reverse }
  | [] => s

/-! ### agld and agreq (R169, R171) -/

/-- The request token of an iteration (R105, R171). -/
def requestLine (y : Plane) (d : Desc) (t : Nat) : Line :=
  let k := y.const
  lineOfBytes (bytesOfNat 8 (d.va t) ++ bytesOfNat 4 (bits d.ctl 26 16 * 64)
    ++ bytesOfNat 1 (bits k 5 0) ++ bytesOfNat 1 (bits k 13 6) ++ bytesOfNat 1 (bits k 18 14)
    ++ bytesOfNat 1 (bits k 22 19) ++ bytesOfNat 4 t)

/-- The stream's next token: consumed trigger, value, lateness. -/
def streamToken (s : State) (c : FCtx) (d : Desc) (use : List Nat) (val : Line) (lat : Nat) : State :=
  let st := c.y.bank.st
  let last := decide (st.t + 1 ≥ d.len)
  let seq := if c.y.opcode = 0x40 then st.t % 16 else st.t / 2 ^ bits d.ctl 12 9 % 16
  let t : Tok := { vc := c.o.ovc.toNat, eos := last, dom := st.dom, seq := seq, lcnt := 16, val := val }
  let st1 := { st with t := st.t + 1, cnt := st.cnt + 1 }
  let st2 := if !last then st1
    else if d.trig then { st1 with on := false, t := 0, cnt := 0, desc := none }
    else
      let st3 := streamEnd s c st1
      if st3.on then st3 else { st3 with desc := none }
  let s1 := applyAct s c { use := use, pen := !d.trig || !use.isEmpty, out := some t, bank := { c.y.bank with st := st2 } }
  lateOut s1 c.u c.e (s.cycle + lat)

/-- A translation that an element asked for is on its way (R74, R135). -/
def agAwaits (s : State) (u e : Nat) : Bool :=
  (s.xu u).miss.any fun m => m.failed.isNone && m.reqs.contains (elemReq u e)

/-- One iteration of agld or agreq. A triggered stream counts stalls only while its queue holds a token (R129,
R135). -/
def streamStep (s : State) (c : FCtx) (d : Desc) (use : List Nat) : State :=
  let st := c.y.bank.st
  let va := d.va st.t
  let stall (s : State) (k : Nat) : State := if d.trig && (c.tok 0).isNone then s else stallBy s k
  let fault (s : State) (k : Nat) : State :=
    stall (elemFault s c.u c.e c.slot c.p k (lineInfo d st.t 4)) kGATE
  if agAwaits s c.u c.e then stall s kMEM
  else if !outRoom (s.collar c.u) c.e then stall s kNOSP
  else if c.y.opcode = 0x40 then
    if va % 64 ≠ 0 then fault s 0x13
    else if d.loc c.u && decide (va ≥ 0x100000) then fault s 0x10
    else streamToken s c d use (requestLine c.y d st.t) 6
  else if st.grant = some 3 then streamToken s c d use 0 6
  else match agLine s c.u c.e va pRD (d.loc c.u) with
    | (.stall, s) => stall s kMEM
    | (.fault k, s) => fault s k
    | (.ok pa, s) =>
      if anyPoison s pa 64 then fault s 0x14
      else
        let s := useStream s c.u c.e c.slot
        let (b, s) := agRead s (streamOf s c.u c.e c.slot) c.u c.e pa false
        streamToken s c d use (lineOfBytes b) (agLat s c.u c.e pa)

/-! ### Memory nodes (R105) -/

/-- A request's fields: address, bytes left, tile, element, VC, format, TAG; none where it is malformed (R35,
R105), as a DTILE above 63 is. DEDUCED: notes/assumptions/59.md. -/
def requestOf (v : Line) : Option (List Nat) :=
  let b := lineBytes v
  let n (o k : Nat) : Nat := natOfBytes ((b.drop o).take k)
  let addr := n 0 8
  let len := n 8 4
  if addr % 64 ≠ 0 ∨ addr ≥ 2 ^ 52 ∨ len = 0 ∨ len > 65536 ∨ len % 64 ≠ 0 ∨ n 12 1 > 63
    ∨ n 14 1 > 31 ∨ n 15 1 > 14 ∨ n 20 44 ≠ 0
  then none else some [addr, len, n 12 1, n 13 1, n 14 1, n 15 1, n 16 4]

/-- A consumer's task is the requesting task, or on another tile, where that task has no region, one that runs the same
node of the same graph. DEDUCED: notes/assumptions/59.md. -/
def sameKernel (s : State) (a b : Option Nat) : Bool :=
  match a, b with
  | some m, some n =>
    let x := (s.task m).trec
    let y := (s.task n).trec
    m == n || (x.asid == y.asid && x.template == y.template && x.node == y.node && (s.task m).tile != (s.task n).tile)
  | _, _ => false

/-- One reply of a memory node; the request token and its pennant are consumed with the last. The reply goes on in
the plane its consumer holds for the slot; where a box on its way has no word for it the node withholds it (R122). Replies are
numbered on from one request to the next. DEDUCED: notes/assumptions/59.md. DESIGN CHOICE: notes/assumptions/104.md. -/
def nodeStep (s : State) (c : FCtx) (tk : Tok) : State :=
  let st := c.y.bank.st
  let raw := lineBytes tk.val
  let tag := natOfBytes ((raw.drop 16).take 4)
  let fault (s : State) (k detail addr : Nat) : State :=
    stallBy (elemFault s c.u c.e c.slot c.p k { detail := detail, addr := addr, pos := some tag }) kGATE
  match st.req.orElse fun _ => requestOf tk.val with
  | some [addr, left, tile, elem, vc, fmt, _] =>
    let dc := s.collar tile
    let rgn := regionOf dc elem
    let owner := (rgn.bind fun r => (dc.region r).task)
    let r := rgn.getD 0
    let p := ((dc.elem elem).curOf c.slot).getD c.p
    if !(sameKernel s owner (taskOf s c.u c.e)) then fault s 0x21 4 addr
    else match (meshBox dc r p vc).filter fun b => pathOk dc r p vc false 64 b 7 with
      | none => fault s 0x21 4 addr
      | some b =>
        let deliver (s : State) (val : Line) (lat : Nat) : State :=
          let last := decide (left ≤ 64)
          let req := if last then none else some [addr + 64, left - 64, tile, elem, vc, fmt, tag]
          let st' := { st with req := req, t := st.t + 1 }
          let s1 := applyAct s c { use := if last then [0] else [], pen := last, eos := last
                                   bank := { c.y.bank with st := st' } }
          meshArrive s1 tile b
            { vc := vc, eos := last, dom := tk.dom, seq := st.t % 16, lcnt := 16, val := val, rgn := r
              slot := c.slot, plane := p, src := c.e, at' := s.cycle + lat, fmt := some fmt }
        let far := decide (tile ≠ c.u) && decide (c.u < 64)
        if far && meshRoom s c.u true == 0 then stallBy s kMEM
        else
        let s := if far then meshTake s c.u 1 true else s
        if st.grant = some 3 then deliver s 0 6
        else match agLine s c.u c.e addr pRD false false with
          | (.stall, s) => stallBy s kMEM
          | (.fault k, s) => fault s k 4 addr
          | (.ok pa, s) =>
            if anyPoison s pa 64 then fault s 0x14 4 addr
            else
              -- each reply stream is an agent of the requesting task (R329)
              let mine := taskOf s c.u c.e
              let seen := ((mine.map fun n => (s.task n).colFloor)).getD []
              let s := if st.req.isNone || (s.ag (.reply c.u c.e)).task != mine
                then s.newAgent (.reply c.u c.e) mine seen else s
              let (bs, s) := agRead s (.reply c.u c.e) c.u c.e pa false
              deliver s (lineOfBytes bs) (agLat s c.u c.e pa + 1)
  | _ => fault s 0x08 0 0

/-- The stream's banner: the bank is saved with it (R386). -/
def streamBanner (s : State) (c : FCtx) : State :=
  if !outRoom (s.collar c.u) c.e then stallBy s kNOSP
  else
    let st := c.y.bank.st
    let b := { c.y.bank with st := { st with cnt := 0 } }
    let c' := { c with y := c.y.saveCut b }
    let t : Tok := { vc := c.o.ovc.toNat, dom := st.dom, seq := 0, lcnt := 16, bnr := true }
    applyAct s c' { use := [], pen := false, out := some t, bank := b }

/-- One cycle of agld or agreq. A triggered stream and a request each take one pennant, with the token that starts
them (R147). DEDUCED: notes/assumptions/62.md. -/
def agSource (o : EOp) (s : State) : State :=
  let c := fctx s o
  let st := c.y.bank.st
  let head := if (srcQ o).isEmpty then none else c.tok 0
  if (s.elemOf c.u c.e).fault.isSome then
    if head.isNone && !st.on then s else stallBy s kGATE
  else if st.on && st.begun == s.cycle then s
  else if st.wantDesc then stallBy s kMEM
  else
    let fresh (s : State) : State :=
      match head with
      | none => s
      | some t =>
        if t.bnr then (if outRoom (s.collar c.u) c.e then bannerCut s c false else stallBy s kNOSP)
        else if descTrig s c.u c.y || (c.y.opcode == 0x3E && descNode s c.u c.y) then
          stallBy (needDesc s c) kMEM
        else stallBy s kGATE
    match st.desc with
    | none => fresh s
    | some d =>
      if c.y.opcode = 0x3E ∧ d.node = true then
        match head with
        | none => s
        | some t =>
          if t.bnr then (if outRoom (s.collar c.u) c.e then bannerCut s c false else stallBy s kNOSP)
          else if agAwaits s c.u c.e then stallBy s kMEM
          else guardedSource s c [0] (if domOk c then nodeStep s c t else domFault s c)
      else if st.on then
        if st.ready > s.cycle then stallBy s kMEM
        else if bannerDue c d then streamBanner s c
        else if d.trig || agAwaits s c.u c.e then streamStep s c d []
        else guardedSource s c [] (streamStep s c d [])
      else if d.trig then
        match head with
        | none => s
        | some t =>
          if t.bnr then fresh s
          else
            let d := d.under t
            let st' := { st with on := true, t := 0, cnt := 0, dom := t.dom, desc := some d }
            let c' := { c with y := { c.y with bank := { c.y.bank with st := st' } } }
            if agAwaits s c.u c.e then stallBy s kMEM
            else guardedSource s c [0] (if domOk c then streamStep (newStream s c.u c.e c.slot) c' d [0] else domFault s c)
      else fresh s

def execAgld (o : EOp) (s : State) : Out := .next (agSource o s)
def execAgreq (o : EOp) (s : State) : Out := .next (agSource o s)

/-! ### agst and agrmw (R170) -/

/-- The pattern's place after an iteration, or back at its start after EOS (R170). A stream ends at its
EOS, and a held start is applied there (R288). -/
def storeNext (s : State) (c : FCtx) (d : Desc) (eos wrote : Bool) : OpState :=
  let st := c.y.bank.st
  let t := if wrote then (if st.t + 1 ≥ d.len then 0 else st.t + 1) else st.t
  let st1 := { st with t := t, on := true }
  if d.trig then { st1 with desc := none, t := 0, on := false }
  else if !eos then st1
  else
    let st2 := streamEnd s c { st1 with t := 0 }
    { st2 with t := 0, desc := if st2.wantDesc then none else some d }

/-- A line an agst writes while its region has banners is buffered (R387). -/
def bufferLine (c : FCtx) (y : Plane) (str pa : Nat) (b : List Byte) : Plane :=
  if c.k = 0 then y else { y with lines := y.lines ++ [{ ivl := y.bnrs + 1, str := str, pa := pa, bytes := b }] }

/-- Buffered lines are performed in their order: those left where the log is full. -/
def sendLines (u e : Nat) : List BufLine → State → List BufLine × State
  | [], s => ([], s)
  | l :: t, s => match agWrite s l.str u e l.pa l.bytes true with
    | some s => sendLines u e t s
    | none => (l :: t, s)

/-- The lines of the intervals up to one are performed in iteration order; those that the log has no room for stay for
the attempt after a repair (R369, R387). -/
def performLines (s : State) (u e slot p : Nat) (upto : Nat) : State :=
  let y := s.planeOf u e p
  if (s.elemOf u e).fault.isSome then s
  else
    let (rest, s1) := sendLines u e (y.lines.filter fun l => decide (l.ivl ≤ upto)) s
    let s2 := s1.setPlane u e p { s1.planeOf u e p with lines := rest ++ y.lines.filter fun l => !decide (l.ivl ≤ upto) }
    match rest with
    | [] => s2
    | _ :: _ => elemFault s2 u e slot p 0x1A { detail := 4 }

/-- The oldest interval of a full buffer is performed at once, and the slot cannot roll back (R387). -/
def flushOldest (s : State) (c : FCtx) : State :=
  let y := s.planeOf c.u c.e c.p
  match y.lines with
  | [] => s
  | l :: _ =>
    let s1 := performLines (s.setPlane c.u c.e c.p { y with lineTo := max y.lineTo l.ivl }) c.u c.e c.slot c.p l.ivl
    let co := s1.collar c.u
    match regionOf co c.e with
    | none => s1
    | some r =>
      let rg := co.region r
      s1.setCollar c.u (co.setRegion r
        { rg with broken := if rg.broken.contains c.slot then rg.broken else rg.broken ++ [c.slot] })

/-- One cycle of agst or agrmw. -/
def agStore (o : EOp) (rmw : Bool) (s0 : State) : State :=
  let c0 := fctx s0 o
  let st0 := c0.y.bank.st
  let ret := rmw && (match st0.desc with
    | some d => d.ret
    | none => false)
  -- a triggered stream reads its descriptor when a token is there
  let s := match c0.tok 0, st0.desc with
    | some t, none =>
      if !t.bnr && !st0.wantDesc && (s0.elemOf c0.u c0.e).fault.isNone && descTrig s0 c0.u c0.y then
        needDesc s0 c0 else s0
    | _, _ => s0
  let wait := st0.wantDesc || (st0.desc.isSome && decide (st0.ready > s.cycle)) || agAwaits s c0.u c0.e
  elemFireWith s o { gated := true, bare := !ret, ownGuard := true, wait := wait } fun c =>
    let st := c.y.bank.st
    match c.tok 0 with
    | none => stallBy s kNOA
    | some tk =>
      if st.wantDesc then stallBy s kMEM
      else match st.desc with
        | none => stallBy s kGATE
        | some d0 =>
          if st.ready > s.cycle then stallBy s kMEM
          else
          let d := d0.under tk
          let act (s : State) (y : Plane) (wrote : Bool) (out : Option Tok) : State :=
            let s1 := applyAct s { c with y := y } { use := [0], out := out
                                                     bank := { y.bank with st := storeNext s c d0 tk.eos wrote } }
            if tk.eos || d0.trig then newStream s1 c.u c.e c.slot else s1
          let fault (s : State) (k : Nat) : State :=
            stallBy (elemFault s c.u c.e c.slot c.p k (lineInfo d st.t 0)) kGATE
          if !c.guard then act s c.y false none
          else if st.grant = some 3 then act s c.y true none
          else match agLine s c.u c.e (d.va st.t) (if rmw then pRD + pWR else pWR) (d.loc c.u) true true with
            | (.stall, s) => stallBy s kMEM
            | (.fault k, s) => fault s k
            | (.ok pa, s) =>
              let s := if d0.trig then newStream s c.u c.e c.slot else useStream s c.u c.e c.slot
              let str := streamNo s c.u c.e c.slot
              let bs := (lineBytes tk.val).take (4 * tk.lcnt)
              if rmw then
                if anyPoison s pa 64 then fault s 0x14
                else
                  let (old, s1) := agRead s (.stream str) c.u c.e pa true
                  match c.settle 16 32 1 (o.sv == 2) (rmwLine d.rmw o.fmt.toNat c.y.sat c.flush old bs) with
                  | .error (k, i) => stallBy (elemFault s c.u c.e c.slot c.p k i) kGATE
                  | .ok (codes, fl) =>
                    let out (v : Line) : Option Tok := if ret then some { tk with vc := o.ovc.toNat, val := v } else none
                    let late (s' : State) (need : Bool) : State :=
                      if ret then lateOut s' c.u c.e (s.cycle + agLat s c.u c.e pa) need else s'
                    match agLog s1 c.u c.e pa (codes.map (bytesOfNat 4)).flatten with
                    | none => fault s 0x1A
                    | some (true, s2) =>
                      late (act s2 { c.y with bank := c.y.bank.addFl fl } true (out (lineOfBytes (old.take bs.length)))) false
                    | some (false, _) =>
                      let r : RmwOp :=
                        { op := d.rmw, fmt := o.fmt.toNat, sat := c.y.sat, flush := c.flush, plane := c.p, ret := ret
                          value := if st.grant = some 1 then some (st.value % 2 ^ 32) else none }
                      agFly (late (act s c.y true (out 0)) true) str c.u c.e pa bs (some r)
              else if c.k ≠ 0 then
                let s1 := act s (bufferLine c c.y str pa bs) true none
                if (s1.planeOf c.u c.e c.p).lines.length > 64 then flushOldest s1 c else s1
              else match agWrite s str c.u c.e pa bs with
                | none => fault s 0x1A
                | some s => act s c.y true none

def execAgst (o : EOp) (s : State) : Out := .next (agStore o false s)
def execAgrmw (o : EOp) (s : State) : Out := .next (agStore o true s)

/-! ### Tables of lut elements (R159) -/

/-- LUT_TABLE_READ: the next of the 33 lines, one request at its bank's switch-network port (R100, R159). R63 names no
such requester: a poisoned line is read as it stands. DESIGN CHOICE: notes/assumptions/85.md. -/
def execLutTableRead (u e p : Nat) (s : State) : Out :=
  let y := s.planeOf u e p
  let st := y.bank.st
  let k := st.table.length
  if y.opcode ≠ 0x2C ∨ k ≥ 33 ∨ y.loaded = false ∨ (s.elemOf u e).cur.all (fun c => c.2 != p) = true
    ∨ st.ready > s.cycle then .next s
  else
    let pa := localAddr u (y.const + 64 * k)
    match askBanks s (fun _ => (2, 0)) (elemReq u e) e [(pa, 64)] with
    | (false, s) => .next s
    | (true, s) =>
      let v := lineOfBytes (s.bytes pa 64)
      .next (s.setPlane u e p { y with bank := { y.bank with st := { st with table := tput st.table k v } } })

end Sys2Proof.Machine
end

