-- ==== Sys2Proof/Machine/Engine.lean ====
section
/-!
DEFINITION. Engine queues, command blocks, shape records, check values and dependence tokens
(R63, R75, R76, R81-R93, R95, R100, R111, R293, R340, R341).
-/
namespace Sys2Proof.Machine

/-! ### Engines (R81) -/

def engKey : Eng → Nat
  | .tile t => t
  | .link d k => 64 + 2 * d + k
  | .eth => 72
/-- Queue entries of an engine, and commands it runs (R81). -/
def engCap : Eng → Nat
  | .tile _ => 16
  | .link _ _ => 32
  | .eth => 64
/-- ENG of a token status (R93). -/
def engCode : Eng → Nat
  | .tile _ => 0
  | .link _ _ => 1
  | .eth => 2
def State.eng (s : State) (e : Eng) : Engine := tget {} s.engines (engKey e)
def State.setEng (s : State) (e : Eng) (x : Engine) : State :=
  { s with engines := tput s.engines (engKey e) x }
/-- A free queue entry stands (R81). -/
def engFree (s : State) (e : Eng) : Bool := decide ((s.eng e).q.length < engCap e)
def cmdOf (s : State) (e : Eng) (id : Nat) : Option Cmd := (s.eng e).q.find? fun c => c.id == id
def setCmd (s : State) (e : Eng) (c : Cmd) : State :=
  let x := s.eng e
  s.setEng e { x with q := x.q.map fun d => if d.id = c.id then c else d }

/-! ### Command blocks (R83) -/

/-- `n` bytes of a block from byte `o`, as a number. -/
def blk (b : List Byte) (o n : Nat) : Nat := natOfBytes ((b.drop o).take n)
def Cmd.opc (c : Cmd) : Nat := blk c.block 0 1
def Cmd.chkMode (c : Cmd) : Nat := bits (blk c.block 1 1) 1 0
def Cmd.carry (c : Cmd) : Bool := bit (blk c.block 1 1) 2
def Cmd.cmp (c : Cmd) : Bool := bit (blk c.block 1 1) 3
def Cmd.peer (c : Cmd) : Nat := blk c.block 24 8
def Cmd.handle (c : Cmd) : Nat := bits c.peer 7 0
def Cmd.remoteVa (c : Cmd) : Nat := blk c.block 32 8

/-- Tokens a block consumes (R83). -/
def blockTkcs (b : List Byte) : List Nat :=
  ([3, 4, 5].map fun i => blk b i 1).filterMap fun x => if bit x 6 then some (x % 64) else none

/-- The check of R84 on a block alone: reserved fields and values, its OPC among those admitted, its
peer and its handle. DEDUCED: notes/assumptions/93.md. -/
def blockBad (s : State) (b : List Byte) (opcs : List Nat) : Bool :=
  let opc := blk b 0 1
  let chk := blk b 1 1
  let peer := blk b 24 8
  let link := opc == 2 || opc == 3
  let net := opc == 4 || opc == 5
  let stg := opc == 6 || opc == 7
  let (dx, dy, dz) := s.mod.dims
  let x := bits peer 4 0
  let y := bits peer 12 8
  let z := bits peer 19 16
  let peerBad :=
    if link then
      bits peer 7 5 != 0 || bits peer 15 13 != 0 || bits peer 31 20 != 0 || bits peer 63 44 != 0
      || (x, y, z) == s.mod.coord || decide (x ≥ dx) || decide (y ≥ dy) || decide (z ≥ dz)
    else if net || stg then
      bits peer 63 8 != 0 || (tget {} s.handles (bits peer 7 0)).kind != (if net then 1 else 2)
    else peer != 0
  !opcs.contains opc || bits chk 7 4 != 0 || chk % 4 == 3
  || (chk % 4 == 0 && bits chk 3 2 != 0)
  || (bit chk 2 && !bit (blk b 3 1) 6)
  || bits (blk b 2 1) 7 6 != 0 || ([3, 4, 5].any fun i => bit (blk b i 1) 7)
  || bits (blk b 6 1) 6 5 != 0 || bits (blk b 7 1) 7 1 != 0
  || blk b 20 4 != 0 || blk b 40 24 != 0
  || (opc == 1 && blk b 32 8 != 0)
  || blk b 8 8 % 128 != 0
  || peerBad

/-! ### Shape records (R86-R88) -/

structure Shape where
  src : Nat
  dst : Nat
  size : List Nat
  sstr : List Int
  dstr : List Int
  perm : List Nat
  esz : Nat
  ndim : Nat
deriving DecidableEq, Repr

def shapeOf (b : List Byte) : Shape :=
  let n := blk b
  { src := n 0 8, dst := n 8 8
    size := tabulate 7 fun i => n (16 + 4 * i) 4
    sstr := tabulate 7 fun i => sextInt 32 (n (44 + 4 * i) 4)
    dstr := tabulate 7 fun i => sextInt 32 (n (72 + 4 * i) 4)
    perm := tabulate 7 fun i => bits (n 100 4) (3 * i + 2) (3 * i)
    esz := bits (n 104 4) 2 0, ndim := bits (n 104 4) 6 4 }

def Shape.sizes (h : Shape) : List Nat := h.size.take h.ndim
/-- Elements a command moves. -/
def Shape.count (h : Shape) : Nat := h.sizes.foldl (· * ·) 1
def Shape.bytes (h : Shape) : Nat := 2 ^ h.esz * h.count

/-- A malformed record (R86, R87); `opc` says which side is remote. -/
def shapeBad (b : List Byte) (opc : Nat) : Bool :=
  let h := shapeOf b
  let perm := h.perm.take h.ndim
  let remoteDst := opc == 2 || opc == 5 || opc == 7
  let remoteSrc := opc == 3 || opc == 4 || opc == 6
  bits (blk b 100 4) 31 21 != 0 || bits (blk b 104 4) 31 7 != 0 || bit (blk b 104 4) 3
  || blk b 108 20 != 0 || h.esz == 7 || h.ndim == 0
  || !((List.range h.ndim).all fun k => perm.contains k)
  || ((List.range 7).any fun i => decide (i ≥ h.ndim)
        && (h.size.getD i 0 != 0 || h.sstr.getD i 0 != 0 || h.dstr.getD i 0 != 0 || h.perm.getD i 0 != 0))
  || decide (h.bytes > 2 ^ 36)
  || (remoteDst && h.dst != 0) || (remoteSrc && h.src != 0)

/-- The addresses of element `k` in visit order, as signed sums (R88). -/
def Shape.addrs (h : Shape) (k : Nat) : Int × Int :=
  let go := (List.range h.ndim).foldl (fun (acc : Nat × Int × Int) j =>
    let p := h.perm.getD j 0
    let n := max 1 (h.size.getD p 1)
    let x : Int := (acc.1 % n : Nat)
    (acc.1 / n, acc.2.1 + x * h.sstr.getD p 0, acc.2.2 + x * h.dstr.getD j 0))
    (k, ((h.src : Nat) : Int), ((h.dst : Nat) : Int))
  go.2

/-! ### Check values (R91) -/

/-- One byte of CRC-32C, least significant bit first. -/
def crcByte (crc b : Nat) : Nat :=
  (List.range 8).foldl (fun c _ => if c % 2 = 1 then (c / 2) ^^^ 0x82F63B78 else c / 2) (crc ^^^ b)

/-- The running value after more bytes; CSUM32 keeps the bytes of a word that is not whole yet.
DEDUCED: notes/assumptions/43.md. -/
def chkStep (mode chk : Nat) (tail : List Byte) (bs : List Byte) : Nat × List Byte :=
  if mode = 2 then
    ((bs.foldl (fun c b => crcByte c b.toNat) (chk ^^^ 0xFFFFFFFF)) ^^^ 0xFFFFFFFF, [])
  else if mode = 1 then
    bs.foldl (fun (acc : Nat × List Byte) b =>
      let t := acc.2 ++ [b]
      if t.length = 4 then (csum32 acc.1 [natOfBytes t], []) else (acc.1, t)) (chk, tail)
  else (0, [])
/-- The final value: a partial word is padded with zeros (R91). DEDUCED: notes/assumptions/43.md. -/
def chkEnd (mode chk : Nat) (tail : List Byte) : Nat :=
  if mode = 1 ∧ tail ≠ [] then csum32 chk [natOfBytes tail] else chk

/-! ### Tokens (R92, R93) -/

def State.token (s : State) (n k : Nat) : Token := tget {} (s.task n).tokens k
def State.setToken (s : State) (n k : Nat) (t : Token) : State :=
  let x := s.task n
  s.setTask n { x with tokens := tput x.tokens k t }
/-- STATE of a token: 0 FREE, 1 PENDING, 2 DONE, 3 FAILED. -/
def Token.st (t : Token) : Nat := t.word.toNat % 4

/-- A status word (R93). -/
def statusWord (st eng cause : Nat) (prop rmt : Bool) (detail chkv : Nat) : W64 :=
  BitVec.ofNat 64 (st + 2 ^ 8 * cause + 2 ^ 16 * eng + 2 ^ 19 * boolNat prop + 2 ^ 20 * boolNat rmt
    + 2 ^ 21 * detail + 2 ^ 32 * chkv)
/-- CHKV of a command that ends without a final check value: 0 in check mode 0, and the initial 0 where it has moved
nothing and carries no value (R91, R294), else no rule gives it. DEDUCED: notes/assumptions/43.md. -/
def openChk (s : State) (c : Cmd) : Nat :=
  if c.chkMode = 0 ∨ (c.carry = false ∧ c.pos = 0 ∧ c.sent = 0 ∧ c.hold = none ∧ c.ahead = []) then 0 else choose s 911 (2 ^ 32)
def failedWord (s : State) (e : Eng) (c : Cmd) (cause : Nat) : W64 :=
  statusWord 3 (engCode e) cause false false 0 (openChk s c)

/-! ### Fault injection (R98) -/

/-- The bit LCINJ flips of data that has been received (R98). -/
def flipAt (off bitn base : Nat) (b : List Byte) : List Byte :=
  if base ≤ off ∧ off < base + b.length then
    lset b (off - base) (b.getD (off - base) 0 ^^^ BitVec.ofNat 8 (2 ^ bitn))
  else b

def lcinjOf (s : State) (d : Nat) : W64 := (s.eng (.link d 0)).lcinj
/-- LCINJ is written: the commands to pass are counted anew. -/
def setLcinj (s : State) (d : Nat) (v : W64) : State :=
  let x := s.eng (.link d 0)
  s.setEng (.link d 0) { x with lcinj := v, skip := bits v.toNat 7 4, tgt := none }

/-- The names of the commands LCINJ may have as its target: a pull of this module, a push of a peer. -/
def pullKey (id : Nat) : Nat := 2 * id
def pushKey (id : Nat) : Nat := 2 * id + 1

/-- A command begins to be received: LCINJ passes it by, or has it as its target (R98): it is received by the engine
of the port its first packet arrives at (R438). DEDUCED: notes/assumptions/86.md. -/
def injBegin (s : State) (d en key : Nat) : State :=
  let x := s.eng (.link d 0)
  let n := x.lcinj.toNat
  if !bit n 0 || bits n 9 9 != en || x.tgt.isSome then s
  else if x.skip > 0 then s.setEng (.link d 0) { x with skip := x.skip - 1 }
  else s.setEng (.link d 0) { x with tgt := some key }

/-- A command that is over is no target: LCINJ stays armed for the next (R98). -/
def injEnd (s : State) (key : Nat) : State :=
  [0, 1, 2, 3].foldl (fun s d =>
    let x := s.eng (.link d 0)
    if x.tgt = some key then s.setEng (.link d 0) { x with tgt := none } else s) s

/-- Bytes that a command has received from place `base` on: LCINJ flips its bit where it lies among the target's, and
is disarmed (R98). -/
def injData (s : State) (d key base : Nat) (b : List Byte) : List Byte × State :=
  let x := s.eng (.link d 0)
  let n := x.lcinj.toNat
  let off := bits n 47 16
  if bit n 0 && x.tgt == some key && decide (base ≤ off) && decide (off < base + b.length) then
    (flipAt off (bits n 12 10) base b, s.setEng (.link d 0) { x with lcinj := x.lcinj &&& ~~~(1 : W64), tgt := none })
  else (b, s)

/-- The die of a link engine. -/
def engDie (e : Eng) : Nat := match e with
  | .link d _ => d
  | _ => 0
def engNum (e : Eng) : Nat := match e with
  | .link _ k => k
  | _ => 0

/-! ### Acceptance (R84, R85, R293) -/

/-- The unit by whose cache a command's addresses are translated: its tile's, where a task has issued it (R82); the
link and Ethernet engines have their own for what no task of a tile has issued (R75).
DEDUCED: notes/assumptions/95.md. -/
def cmdUnit (e : Eng) (c : Cmd) : Nat :=
  if c.task.isSome then c.tile
  else match e with
  | .tile _ => c.tile
  | .link d k => 68 + 2 * d + k
  | .eth => 76

/-- Translate bytes of a command; an address outside 0 to 2^52 - 1 is not mapped (R82, R88). -/
def cmdXlate (s : State) (e : Eng) (c : Cmd) (va : Int) (n need : Nat) (reg : Bool := false) : VRes × State :=
  if va < 0 ∨ va ≥ (2 ^ 52 : Nat) then (.fail 0x10 (wrapInt 64 va), s)
  else
    let u := cmdUnit e c
    vaPieces u c.asid c.root (decide (u ≥ 64) || (s.xu u).en) (reqId 7 c.id) need reg 3 va.toNat n s

/-- Every access is over: the status to be recorded (R92, R93). DEDUCED: notes/assumptions/22.md. -/
def endCmd (s : State) (e : Eng) (c : Cmd) (w : W64) : State := setCmd (injEnd s (pullKey c.id)) e { c with st := .ending w }
/-- The command pauses and is reported to the CP (R76, R92). -/
def pauseCmd (s : State) (e : Eng) (c : Cmd) (cause addr : Nat) : State :=
  (setCmd s e { c with st := .paused cause addr }).reportF cause c.tile 0 (bytesOfNat 8 addr)

/-- A storage command's length must be whole blocks within the largest transfer (R97). -/
def lengthBad (s : State) (c : Cmd) (h : Shape) : Bool :=
  let k := tget {} s.handles c.handle
  (c.opc == 6 || c.opc == 7) && (h.bytes % k.block != 0 || decide (h.bytes > k.maxLen))

/-- A retry-eligible task's command may write its own slice only (R84, R369): what its destination maps to, whatever
the leaf grants; a page that nothing maps lies nowhere else. `none` while a page waits.
DEDUCED: notes/assumptions/40.md. -/
def ownSlice (s : State) (e : Eng) (c : Cmd) (h : Shape) : Option Bool × State :=
  (List.range h.count).foldl (fun (acc : Option Bool × State) k =>
    match acc with
    | (some true, s) =>
      match cmdXlate s e c (h.addrs k).2 (2 ^ h.esz) 0 true with
      | (.wait, s) => (none, s)
      | (.ok ps, s) => (some (ps.all fun (pa, _) => match place pa with
          | .spm t _ => t == c.tile
          | _ => false), s)
      | (.fail _ _, s) => (some true, s)
    | a => a) (some true, s)

/-- The port by which an engine reaches a bank (R100). -/
def cmdPort (e : Eng) (c : Cmd) (b : Nat × Nat) : Nat × Nat :=
  match e with
  | .tile _ => portTo c.tile 4 b
  | .link d _ => (3, dieLat d b)
  | .eth => meshPort b

/-- The tile whose mesh attachments carry an engine's lines (R104). -/
def cmdTile (e : Eng) (c : Cmd) : Option Nat :=
  match e with
  | .tile _ => some c.tile
  | _ => none

/-- A command's shape record is read, in the issuing agent's own view; what it reads so is not added to its floor.
A malformed one ends the command; a failure of the read pauses it (R84, R85, R87, R92, R97). -/
def readShape (s : State) (e : Eng) (c : Cmd) : State :=
  let va := blk c.block 8 8
  let ag := match c.task with
    | some n => AgentId.task n
    | none => .sched
  match cmdXlate s e c (va : Int) 128 pRD with
  | (.wait, s) => s
  | (.fail k a, s) => pauseCmd s e c k a
  | (.ok ps, s) => match lineAccess s (cmdPort e c) (reqId 7 c.id) 256 (cmdTile e c) false ps fun pa n s => ((lineRead ag 4 pa n s).1, s) with
    | (none, s) => s
    | (some d, s) =>
      if d.any (·.2) then pauseCmd s e c 0x14 va
      else
        let b := d.map (·.1)
        let c := { c with read := c.read ++ ps.map fun p => (p.1, s.bytes p.1 p.2) }
        if shapeBad b c.opc || lengthBad s c (shapeOf b) then endCmd s e c (failedWord s e c 0x16)
        else if c.retryOnly then
          match ownSlice s e c (shapeOf b) with
          | (none, s) => s
          | (some false, s) => endCmd s e c (failedWord s e c 0x16)
          | (some true, s) => setCmd s e { c with shape := some b }
        else setCmd s e { c with shape := some b }

/-- An engine accepts a command (R81, R84, R92): it takes a queue entry, its token becomes PENDING, its shape record
is read (R85), and one that R84 rejects will end FAILED without moving data. DEDUCED: notes/assumptions/22.md. -/
def acceptCmd (s : State) (e : Eng) (task : Option Nat) (tile asid root : Nat) (block : List Byte)
    (opcs : List Nat) (reply : Option (Nat × Nat × Nat)) (packet : Option (Nat × Nat) := none)
    (read : List (Nat × List Byte) := []) : State :=
  let id := s.mod.nextCmd
  let opc := blk block 0 1
  let tkp := blk block 2 1 % 64
  let k := s.task (task.getD 0)
  let bad := blockBad s block opcs
    || (task.isSome && k.retry && (opc == 5 || opc == 7 || opc == 2))
  let counted := task.isSome && opc == 1 && k.stepGroup.isSome
  let c : Cmd :=
    { id := id, task := task, packet := packet, tile := tile, asid := asid, root := root, block := block
      tkp := tkp, tkcs := blockTkcs block, floor := if task.isSome then k.engFloor else []
      retryOnly := task.isSome && k.retry, reply := reply, read := read }
  let x := s.eng e
  let s1 := { s.setEng e { x with q := x.q ++ [c] } with mod := { s.mod with nextCmd := id + 1 } }
  let s2 := match task with
    | none => s1
    | some n =>
      let k1 := if counted then { k with countedCmds := k.countedCmds ++ [id] } else k
      (s1.setTask n k1).setToken n tkp { word := 1 }
  if bad then endCmd s2 e c (failedWord s e c 0x16) else readShape s2 e c

end Sys2Proof.Machine
end

