-- ==== Sys2Proof/Machine/ElemPort.lean ====
section
/-!
DEFINITION. Array and port operations of elements (R30, R31, R95, R172, R173, R180, R189, R196, R285,
R289, R426).
-/
namespace Sys2Proof.Machine

/-! ### feed, wld, drn (R172) -/

/-- The FEED that supplies bytes 64j to 64j + 63 of a row (R172). -/
def feedElem (j : Nat) : Nat := 4 * j + 3
/-- The WLD of lane j. -/
def wldElem (j : Nat) : Nat := 64 + 8 * j
/-- The DRN of columns 16j to 16j + 15. -/
def drnElem (j : Nat) : Nat := 192 + 4 * j

/-- Row parts a FEED holds toward the array for a slot, oldest first (R28, R189). -/
def feedHeld (x : Elem) (slot : Nat) : List Tok := x.inbox.filter fun t => t.slot == slot

/-- feed: the token enters the FEED's pipeline toward the array (R28, R189). -/
def execFeed (o : EOp) (s : State) : Out :=
  .next (elemFireWith s o { bare := true } fun c =>
    let x := s.elemOf c.u c.e
    if (feedHeld x c.slot).length ≥ 4 then
      stallBy s (if (s.tile c.u).held then kHOLD else kNOSP)
    else
      let s1 := applyAct s c { use := srcQ o, bank := c.y.bank }
      let x1 := s1.elemOf c.u c.e
      match c.tok 0 with
      | some t => s1.setElem c.u c.e { x1 with inbox := x1.inbox ++
          [{ t with rgn := regionNum (s.collar c.u) c.e, slot := c.slot, plane := c.p, src := c.e
                    at' := s.cycle + 2 }] }
      | none => s1)

/-- Lane of a WLD. -/
def wldLane (e : Nat) : Nat := (e - 64) / 8

/-- Image tokens of a lane that some wtl still awaits, beyond those on their way (R285). -/
def wldAwaited (a : Array) (lane : Nat) : Bool :=
  let ends := (a.deliv.filter fun d => d.lane == lane && d.slot.isNone && d.eos).length
  let open' := (a.wtls.filter fun w => tget 0 (tget {} a.slots w.1).eos lane == 0).length
  decide (open' > ends)

/-- wld: the token goes to the wtl next in order, two cycles on (R180, R285). -/
def execWld (o : EOp) (s : State) : Out :=
  .next (elemFireWith s o { bare := true } fun c =>
    let a := s.arr c.u
    let lane := wldLane c.e
    if !wldAwaited a lane then stallBy s kGATE
    else
      match c.tok 0 with
      | some t =>
        let s1 := applyAct s c { use := srcQ o, bank := c.y.bank }
        s1.setArr c.u { s1.arr c.u with
          deliv := a.deliv ++ [{ lane := lane, val := t.val, eos := t.eos, due := s.cycle + 2 }] }
      | none => s)

/-- A DRN can take a row for a slot: it has room, and its pennant if it is guarded (R31, R119, R196). -/
def drnRoom (s : State) (u e slot : Nat) : Bool :=
  let c := s.collar u
  let x := c.elem e
  outRoom c e && x.fault.isNone && (match x.curOf slot with
    | some p => !(x.plane p).eop.pg || !(x.plane p).qp.isEmpty
    | none => true)

/-- drn: all eight take the drain's due row in one cycle, and the last row carries EOS (R172, R196). -/
def execDrn (o : EOp) (s : State) : Out :=
  let c := fctx s o
  let x := s.tile c.u
  let j := (c.e - 192) / 4
  let next (s : State) : Out := .next s
  match (if c.u < 64 then drainDue x else none) with
  | none => next s
  | some d =>
    if x.arr.dueRow ≠ some (d.first + d.next) then next s
    else if d.arr ≠ some (regionNum (s.collar c.u) c.e, c.slot) ∨ x.arr.took.contains j = true then next s
    else if (s.elemOf c.u c.e).fault.isSome then next (stallBy s kGATE)
    else if o.pg && c.pen.isNone then next (stallBy s kPENN)
    else if !outRoom (s.collar c.u) c.e then next (stallBy s kNOSP)
    else if x.still || (x.arr.took.isEmpty && !(List.range 8).all fun i => drnRoom s c.u (drnElem i) c.slot) then
      next (stallBy s kHOLD)
    else if x.arr.accBad.any (fun k => k / 128 == d.first + d.next) then
      -- a parity error in the row (R373)
      next (if x.shadow.queue.any fun f => f.fr.cause == 0x34 then s else seqFault s c.u 0x34 x.ctx.pc 0 0 .parity)
    else
      let row := d.first + d.next
      let vals := tabulate 16 fun i => (x.arr.word row (16 * j + i)).toNat
      let last := decide (d.next + 1 ≥ d.cnt)
      let t : Tok := { vc := o.ovc.toNat, eos := last, dom := boolNat d.dom, seq := d.next % 16, lcnt := 16
                       val := lineOf 32 vals }
      let s1 := applyAct s c { use := [], out := if c.guard then some t else none, eos := last, bank := c.y.bank }
      let s1 := if c.guard then lateOut s1 c.u c.e (s.cycle + 3) else s1
      let a := (s1.arr c.u).readStage row (tabulate 16 fun i => 16 * j + i)
      let took := a.took ++ [j]
      if took.length < 8 then next (s1.setArr c.u { a with took := took })
      else
        let rest := a.drains.drop 1
        let drains := if last then rest else { d with next := d.next + 1 } :: rest
        next (s1.setArr c.u { a with took := [], drains := drains })

/-! ### emit and recv (R95, R173, R426) -/

/-- A reply or a message a PORT holds for a slot leaves on its VC (R95, R173). -/
def portReply (s : State) (c : FCtx) (vc : Nat) (t : Tok) (pen : Bool := false) : State :=
  if !outRoom (s.collar c.u) c.e then stallBy s kNOSP
  else
    let x := s.elemOf c.u c.e
    let s0 := s.setElem c.u c.e { x with inbox := x.inbox.erase t }
    applyAct s0 c { use := [], pen := pen, out := if pen && !c.guard then none else some { t with vc := vc }
                    bank := c.y.bank }

/-- The engine a PORT is bound to, with the OPCs it admits (R83, R173). -/
def portEngine (u eng : Nat) (block : List Byte) : Option (Eng × List Nat) :=
  if eng = 0 ∧ u < 64 then some (.tile u, [1])
  else if eng = 1 ∧ u ≥ 64 then some (.link (u - 64) (blk block 7 1 % 2), [2, 3])
  else if eng = 2 ∧ u ≥ 64 then some (.eth, [4, 5, 6, 7])
  else none

/-- emit: a command block for an engine, or a message for the CP (R95, R426). A PORT looks at the lane count, then waits
for a full queue, then at the token it produces. DESIGN CHOICE: notes/assumptions/104.md. -/
def execEmit (o : EOp) (s : State) : Out :=
  let c0 := fctx s o
  let x := s.elemOf c0.u c0.e
  match x.inbox.find? fun t => t.slot == c0.slot with
  | some t =>
    if x.fault.isSome then .next (stallBy s kGATE) else .next (portReply s c0 t.vc t)
  | none =>
    .next (elemFireWith s o { gated := true, bare := true } fun c =>
      let eng := c.y.mf 10 8
      match c.tok 0 with
      | none => s
      | some t =>
        let fault (k : Nat) : State :=
          stallBy (elemFault s c.u c.e c.slot c.p k { detail := 0 }) kGATE
        let done (s : State) : State := applyAct s c { use := srcQ o, bank := c.y.bank }
        if eng = 3 then
          if s.mod.inbox.length ≥ 64 ∨ s.mod.waiting ≠ [] then stallBy s kNOSP
          else done (s.report { kind := 0, src := c.u, unit := c.e, cause := 0, bytes := lineBytes t.val })
        else
          let block := lineBytes t.val
          match portEngine c.u eng block with
          | none => fault 0x16
          | some (en, opcs) =>
            let task := taskOf s c.u c.e
            let tkp := blk block 2 1 % 64
            if t.lcnt < 16 then fault 0x16
            else if !engFree s en then stallBy s kNOSP
            else if task.isSome && (s.token (task.getD 0) tkp).st == 1 then fault 0x0D
            else
              let asid := elemAsid s c.u c.e
              let reply := if bit (blk block 6 1) 7 then some (c.u, c.e, blk block 6 1 % 32 + 32 * c.slot)
                else none
              done (acceptCmd s en task (if c.u < 64 then c.u else 16 * (c.u - 64)) asid
                (elemRoot s c.u asid).1 block opcs reply))

/-- recv: each message its source delivers leaves on ovc in raw, under its guard (R147, R173). -/
def execRecv (o : EOp) (s : State) : Out :=
  let c := fctx s o
  let x := s.elemOf c.u c.e
  match x.inbox.find? fun t => t.slot == c.slot with
  | none => .next s
  | some t =>
    if x.fault.isSome then .next (stallBy s kGATE)
    else if o.pg && c.pen.isNone then .next (stallBy s kPENN)
    else .next (portReply s c o.ovc.toNat t true)

end Sys2Proof.Machine
end

