-- ==== Sys2Proof/Machine/Hop.lean ====
section
/-!
DEFINITION. Hops of tokens and pennants, and how an element takes them in (R117, R119, R121-R124, R130,
R146).
-/
namespace Sys2Proof.Machine

/-! ### Buffers (R123) -/

def boxKey (b key : Nat) : Nat := b * 32 + key
def queueKey (e p q : Nat) : Nat := 8192 + (e * 4 + p) * 4 + q

/-- Keys of the buffers that hold no free entry now (R123, R124). -/
def fullKeys (c : Collar) : List Nat :=
  let boxes := (c.boxes.map fun (b, x) =>
    (x.dbuf.filterMap fun (k, l) =>
      let cap := if k < 16 then x.cap k else 2
      if l.length ≥ cap then some (boxKey b k) else none)
    ++ (x.pbuf.filterMap fun (k, l) => if l.length ≥ x.cap (8 + k) then some (boxKey b (8 + k)) else none)).flatten
  let elems := (c.elems.map fun (e, x) =>
    (if x.out.length + x.pout.length ≥ (elemType e).lat + 2 then [outKey e] else [])
    ++ (x.planes.map fun (p, y) =>
        ([0, 1, 2].filter fun q => decide ((y.queue q).length ≥ 4)).map (queueKey e p)
        ++ (if y.qp.length ≥ 4 then [queueKey e p 3] else [])).flatten).flatten
  boxes ++ elems

/-- An output buffer takes one token in a cycle, where it had room at the cycle's start. -/
def boxRoom (c : Collar) (now b key : Nat) (last : Option Nat) : Bool :=
  !c.full.contains (boxKey b key) && last != some now
  && decide ((if 8 ≤ key ∧ key < 16 then (tget [] (c.box b).pbuf (key - 8)).length
      else (tget [] (c.box b).dbuf key).length) < (if key < 16 then (c.box b).cap key else 2))

/-- The lane of a data token toward a port: vc31 has a buffer of its own. -/
def dataKey (vc port : Nat) : Nat := if vc = 31 then 16 + port else port

/-! ### Intake (R117, R130, R146) -/

/-- The plane that a token for a slot enters where the current one does not take it: that of the switch requested,
else, for an element without a current plane, the staged one (R130). -/
def Elem.nextOf (x : Elem) (slot : Nat) : Option Nat :=
  if x.switching.contains slot then x.goesTo slot else (x.goesTo slot).or (x.stagedOf slot)

/-- The plane whose queues a token for a slot enters (R130): on a closed VC of a switching element the staged
plane's; none where R130 gives FORMAT_EDGE. -/
def intakePlane (x : Elem) (slot vc : Nat) : Option Nat :=
  match x.curOf slot with
  | none => x.nextOf slot
  | some p =>
    if x.switching.contains slot
        && (!vcV ((x.plane p).vc vc) || (tget [] x.closed p).contains vc) then x.nextOf slot
    else some p

/-- What becomes of a token at an element: a fault names the plane and the token's place (R374). -/
inductive Intake where
  | ok (s : State)
  | refuse
  | fault (p at' : Nat)

/-- The place of a token that an element withholds at its input: of the queue its VC's entry names where the operation
sources one, else 4 (R374). DEDUCED: notes/assumptions/97.md. -/
def edgePlace (y : Plane) (vc : Nat) : Nat := if (srcQ y.eop).isEmpty then 4 else min 2 (vcQ (y.vc vc))

/-- A data token arrives at an element. -/
def intake (s : State) (u e : Nat) (t : Tok) : Intake :=
  let c := s.collar u
  let x := c.elem e
  match intakePlane x t.slot t.vc with
  | none => .fault t.plane 4
  | some p =>
    let y := x.plane p
    let n := y.vc t.vc
    if !vcV n then .fault p (edgePlace y t.vc)
    else
      let q := vcQ n
      let old := tget [] x.closed p
      let cl := if t.eos then (if old.contains t.vc then old else old ++ [t.vc])
        else old.filter (· != t.vc)
      let put (y : Plane) : State :=
        s.setElem u e { x.setPlane p y with closed := tput x.closed p cl }
      if q = 2 && !(srcQ y.eop).contains 2 then
        -- a scale load: consumed as it arrives (R146)
        .ok (put (if t.bnr then y else { y with cload := y.cload ++ [(vcCreg n, t.val, s.cycle)] }))
      else
        let l := y.queue q
        let busy := (l.getLast?).map (·.at') == some s.cycle
        if l.length ≥ 4 ∨ busy ∨ c.full.contains (queueKey e p q) then .refuse
        else .ok (put (y.setQueue q (l ++ [{ t with at' := s.cycle }])))

/-- A pennant arrives at an element. -/
def intakePen (s : State) (u e : Nat) (t : Pen) : Intake :=
  let c := s.collar u
  let x := c.elem e
  let pl := match x.curOf t.slot with
    | some p =>
      -- pennants follow the element's data: a switching element whose VCs have closed takes them in q
      if x.switching.contains t.slot && thas x.final t.slot then (x.nextOf t.slot).getD p else p
    | none => (x.nextOf t.slot).getD 4
  if pl ≥ 4 then .fault t.plane 4
  else
    let y := x.plane pl
    if y.qp.length ≥ 4 ∨ (y.qp.getLast?).map (·.at') = some s.cycle ∨ c.full.contains (queueKey e pl 3) = true
    then .refuse
    else .ok (s.setElem u e (x.setPlane pl { y with qp := y.qp ++ [{ t with at' := s.cycle }] }))

/-- A token on a VC the element's plane does not know is withheld (R117, R130). -/
def edgeFault (s : State) (u e slot p at' : Nat) : State := elemFault s u e slot p 0x20 { detail := at' }

/-! ### Entering boxes -/

/-- A token enters a box by a port: every named output takes it, or none does (R122). -/
def enterBox (s : State) (u b port : Nat) (t : Tok) : Option State :=
  let c := s.collar u
  let x := c.box b
  let outs := outsFor (x.words t.rgn t.plane) port t.vc false
  if outs.isEmpty then none
  else if outs.all fun o =>
      let k := dataKey t.vc o
      boxRoom c s.cycle b k (((tget [] x.dbuf k).getLast?).map (·.at')) then
    let d := outs.foldl (fun d o =>
      let k := dataKey t.vc o
      tput d k (tget [] d k ++ [{ t with at' := s.cycle }])) x.dbuf
    some (s.setCollar u (c.setBox b { x with dbuf := d }))
  else none

def enterBoxPen (s : State) (u b port : Nat) (t : Pen) : Option State :=
  let c := s.collar u
  let x := c.box b
  let outs := outsFor (x.words t.rgn t.plane) port t.vc true
  if outs.isEmpty then none
  else if outs.all fun o =>
      boxRoom c s.cycle b (8 + o) (((tget [] x.pbuf o).getLast?).map (·.at')) then
    let d := outs.foldl (fun d o => tput d o (tget [] d o ++ [{ t with at' := s.cycle }])) x.pbuf
    some (s.setCollar u (c.setBox b { x with pbuf := d }))
  else none

/-- The record 64 bytes on vc31 carry (R374). -/
def frecOf (b : List Byte) : FRec :=
  let n (o k : Nat) : Nat := natOfBytes ((b.drop o).take k)
  { cause := n 0 1 % 64, tile := n 1 1, unit := n 2 2, ctx := n 4 1, fseq := n 5 1, lanes := n 6 2
    addr := n 8 8, pos := n 16 8, asid := n 24 2, detail := n 28 4
    idx := tabulate 6 fun i => n (32 + 4 * i) 4 }

/-! ### Fault tokens and repair tokens on their way (R25, R375, R376, R379, R380) -/

/-- The record outstanding at the unit a repair names (R375). -/
def outstanding (s : State) (r : Repair) : Option FRec :=
  if r.tile ≥ 68 then none
  else if r.unit < 256 then (s.elemOf r.tile r.unit).fault
  else if r.unit = 256 ∧ r.tile < 64 then (s.tile r.tile).wd.readFault
  else none

def repairNames (r : Repair) (f : FRec) : Bool :=
  f.unit == r.unit && f.fseq == r.fseq.toNat && f.ctx % 64 == r.ctx.toNat

/-- The strip that answers for a unit. -/
def repairStrip (r : Repair) : Nat := if r.tile < 68 then stripOf r.tile else 64

/-- The first eight bytes of a repair token (R376). -/
def repairHead (r : Repair) (act : Nat) : List Byte :=
  bytesOfNat 1 (act + 8 * r.rsvAct.toNat) ++ bytesOfNat 1 r.tile ++ bytesOfNat 2 r.unit
  ++ bytesOfNat 1 (r.ctx.toNat + 64 * r.rsvCtx.toNat) ++ [r.fseq] ++ bytesOfNat 2 r.rsv.toNat

/-- RBAD counts a token that is discarded (R380). -/
def countRbad (s : State) (st : Nat) : State :=
  let c := s.collar st
  s.setCollar st { c with rbad := min 0xFFFF (c.rbad + 1) }

/-- The token is for a region that has been aborted since its unit's fault: a record of that unit and region stood when it
was, and no fault has followed that the token could be for (R379). DEDUCED: notes/assumptions/97.md. -/
def toAborted (s : State) (r : Repair) : Bool :=
  let g := (s.collar r.tile).gone.filter fun f => f.unit == r.unit && f.ctx % 4 == r.ctx.toNat % 4
  decide (r.tile < 68) && !g.isEmpty && ((outstanding s r).isNone || g.any fun f => f.fseq == r.fseq.toNat)

/-- A repair token is discarded: REPAIR_BAD, or RBAD alone where the region has been aborted since the
fault (R379). -/
def repairBad (s : State) (act : Nat) (r : Repair) : State :=
  let s1 := countRbad s (repairStrip r)
  if toAborted s r then s1 else s1.reportF 0x29 (repairStrip r) 0 (repairHead r act)

/-- The step by which a repair token of 64 bytes acts on its unit; action 7 is none (R376, R377). -/
def repairStep (b : List Byte) : Option Instr :=
  let r : Repair :=
    { tile := blk b 1 1, unit := blk b 2 2, ctx := BitVec.ofNat 6 (blk b 4 1), fseq := BitVec.ofNat 8 (blk b 5 1)
      value := BitVec.ofNat 32 (blk b 8 4), rsvAct := BitVec.ofNat 5 (blk b 0 1 / 8), rsvCtx := BitVec.ofNat 2 (blk b 4 1 / 64)
      rsv := BitVec.ofNat 16 (blk b 6 2) }
  match blk b 0 1 % 8 with
  | 0 => some (.repairRetry r)
  | 1 => some (.repairReplace r)
  | 2 => some (.repairDefault r)
  | 3 => some (.repairZero r)
  | 4 => some (.repairDiscard r)
  | 5 => some (.repairRollback r)
  | 6 => some (.repairEscalate r)
  | _ => none

/-- A repair token goes on its way from a strip to its unit (R376, R380). DEDUCED: notes/assumptions/74.md. -/
def sendRepair (s : State) (strip : Nat) (b : List Byte) : State :=
  match repairStep b with
  | some i => { s with inputs := s.inputs ++ [i] }
  | none => (countRbad s strip).reportF 0x29 strip 0 (b.take 8)

/-- A vc31 token without a word leaves its collar: a repair token that an element of a corner emits goes to its unit, any
other to the corner of the die's strip (R25, R122, R375, R376). DEDUCED: notes/assumptions/96.md. -/
def leaveCollar (s : State) (u : Nat) (t : Tok) : State :=
  if u ≥ 64 ∧ t.src / 64 = 2 ∧ t.flt = false then sendRepair s u (lineBytes t.val) else toStrip s u t

/-- A strip's corner holds a configuration (R25, R373). DEDUCED: notes/assumptions/96.md. -/
def cornerUp (s : State) (u : Nat) : Bool :=
  !s.mod.retired.contains u && (s.collar u).elems.any fun (e, x) => e / 64 == 2 && !x.cur.isEmpty

/-- Where a fault token enters a corner's graph: a mesh attachment of the E arc whose words take vc31 in, with the region,
slot and plane of the graph (R25, R121). DEDUCED: notes/assumptions/96.md. -/
def cornerDoor (c : Collar) : Option (Nat × Nat × Nat × Nat) :=
  [40, 47].findSome? fun b => c.elems.findSome? fun (e, x) =>
    if e / 64 != 2 then none
    else x.cur.findSome? fun (sl, p) =>
      let r := regionNum c e
      if (outsFor ((c.box b).words r p) 7 31 false).isEmpty then none else some (b, r, sl, p)

/-- A token without a word on its way is refused at its producer (R122). -/
def refused (s : State) (u e slot p : Nat) : State := elemFault s u e slot p 0x21 { detail := 4 }

/-- TOKEN_HOP: the token at the head of an element's output, of a box output buffer, or of a mesh
attachment passes on if what lies ahead has room (R122-R124). -/
def execTokenHop (u : Nat) (h : HopSrc) (s : State) : Out :=
  let c := s.collar u
  match h with
  | .elem e =>
    let x := c.elem e
    match x.out with
    | [] => .next s
    | r :: rest =>
      let t := r.tok
      let b := boxOf e
      if r.ready > s.cycle || r.need then .next s
      else if !pathOk c t.rgn t.plane t.vc false 64 b (portOf e) then .next (refused s u e t.slot t.plane)
      else
        let popped (s : State) : State := s.setElem u e { s.elemOf u e with out := rest }
        if (outsFor ((c.box b).words t.rgn t.plane) (portOf e) t.vc false).isEmpty then
          .next (leaveCollar (popped s) u t)
        else match enterBox s u b (portOf e) t with
          | some s => .next (popped s)
          | none => .next s
  | .box b port =>
    let x := c.box b
    match tget [] x.dbuf port with
    | [] => .next s
    | t :: rest =>
      if t.at' ≥ s.cycle then .next s
      else
        let popped (s : State) : State :=
          let c := s.collar u
          let y := c.box b
          s.setCollar u (c.setBox b { y with dbuf := tput y.dbuf port rest }.settle)
        let o := port % 8
        if o < 4 then
          let e := elemAt b o
          match intake s u e t with
          | .ok s => .next (popped s)
          | .refuse => .next s
          | .fault p k => .next (edgeFault s u e t.slot p k)
        else if o < 7 then
          let (b', port') := neighbour b o
          if (outsFor ((c.box b').words t.rgn t.plane) port' t.vc false).isEmpty then
            if t.vc = 31 then .next (leaveCollar (popped s) u t) else .next s
          else match enterBox s u b' port' t with
            | some s => .next (popped s)
            | none => .next s
        else .next s
  | .mesh b =>
    let x := c.box b
    match x.mesh with
    | [] => .next s
    | t :: rest =>
      if t.at' > s.cycle then .next s
      else match enterBox s u b 7 t with
        | some s =>
          let c := s.collar u
          .next (s.setCollar u (c.setBox b { c.box b with mesh := rest }))
        | none => .next s
  | .flt e =>
    match (c.elem e).flt with
    | [] => .next s
    | t :: rest =>
      let b := boxOf e
      let popped (s : State) : State := s.setElem u e { s.elemOf u e with flt := rest }
      if (outsFor ((c.box b).words t.rgn t.plane) (portOf e) 31 false).isEmpty then .next (leaveCollar (popped s) u t)
      else match enterBox s u b (portOf e) t with
        | some s => .next (popped s)
        | none => .next s
  | .corner =>
    match c.faultIn.find? fun t => decide (t.at' ≤ s.cycle) with
    | none => .next s
    | some t =>
      let f := frecOf (lineBytes t.val)
      let s0 := s.setCollar u { c with faultIn := c.faultIn.erase t }
      let received (s : State) : State :=
        let c := s.collar u
        s.setCollar u { c with corner := c.corner ++ [f], fin := (c.fin + 1) % 65536 }
      if !cornerUp s u then .next (s0.reportF 0x2D f.tile f.unit (lineBytes t.val))
      else match cornerDoor c with
        | none => .next (received s0)
        | some (b, r, sl, p) => match enterBox s0 u b 7 { t with rgn := r, slot := sl, plane := p } with
          | some s => .next (received s)
          | none => .next s

/-- PENNANT_HOP: the same on the pennant network (R119). -/
def execPennantHop (u : Nat) (h : HopSrc) (s : State) : Out :=
  let c := s.collar u
  match h with
  | .elem e =>
    let x := c.elem e
    match x.pout with
    | [] => .next s
    | r :: rest =>
      let t := r.pen
      let b := boxOf e
      if r.ready > s.cycle then .next s
      else if !pathOk c t.rgn t.plane t.vc true 64 b (portOf e) then .next (refused s u e t.slot t.plane)
      else match enterBoxPen s u b (portOf e) t with
        | some s => .next (s.setElem u e { s.elemOf u e with pout := rest })
        | none => .next s
  | .box b port =>
    let x := c.box b
    match tget [] x.pbuf port with
    | [] => .next s
    | t :: rest =>
      if t.at' ≥ s.cycle then .next s
      else
        let popped (s : State) : State :=
          let c := s.collar u
          let y := c.box b
          s.setCollar u (c.setBox b { y with pbuf := tput y.pbuf port rest }.settle)
        if port < 4 then
          let e := elemAt b port
          match intakePen s u e t with
          | .ok s => .next (popped s)
          | .refuse => .next s
          | .fault p k => .next (edgeFault s u e t.slot p k)
        else if port < 7 then
          let (b', port') := neighbour b port
          match enterBoxPen s u b' port' t with
          | some s => .next (popped s)
          | none => .next s
        else .next s
  | .mesh b =>
    let x := c.box b
    match x.meshPen with
    | [] => .next s
    | t :: rest =>
      if t.at' > s.cycle then .next s
      else match enterBoxPen s u b 7 t with
        | some s =>
          let c := s.collar u
          .next (s.setCollar u (c.setBox b { c.box b with meshPen := rest }))
        | none => .next s
  | .flt _ => .next s
  | .corner => .next s

end Sys2Proof.Machine
end

