-- ==== Sys2Proof/Machine/Load.lean ====
section
/-!
DEFINITION. Configuration loads, wavefront switches, starts and cuts (R23, R116, R120, R126-R132, R137,
R142, R148-R175, R177, R288, R291, R386, R387, R435).
-/
namespace Sys2Proof.Machine

/-! ### What R142 allows an operation (R148-R175, R207) -/

/-- Element types that accept an opcode, none for an undefined one; `nop` and `pass` suit all (R148). -/
def opTypes (op : Nat) : Option (List EType) :=
  let all : List EType := [.A, .F, .C, .L, .D, .H, .G, .S, .P, .E, .W, .X]
  let as' : List EType := [.A, .S]
  let af : List EType := [.A, .F]
  let ac : List EType := [.A, .C]
  if op = 0 ∨ op = 1 then some all
  else if [0x03, 0x04, 0x06, 0x39].contains op then some as'
  else if [0x02, 0x05, 0x31, 0x32, 0x33].contains op then some [.A]
  else if [0x0A, 0x0B, 0x17, 0x18, 0x19, 0x1A, 0x1B, 0x1F, 0x20].contains op then some [.F]
  else if (0x08 ≤ op ∧ op ≤ 0x16) ∨ op = 0x1C ∨ op = 0x1D ∨ op = 0x21 then some af
  else if op = 0x1E then some [.A, .F, .C]
  else if 0x28 ≤ op ∧ op ≤ 0x2A then some [.C]
  else if op = 0x2B then some [.C, .D]
  else if op = 0x2C ∨ op = 0x2D then some [.L]
  else if 0x2E ≤ op ∧ op ≤ 0x30 then some [.D]
  else if op = 0x34 ∨ op = 0x35 then some ac
  else if [0x36, 0x37, 0x38, 0x3A].contains op then some [.S]
  else if 0x3B ≤ op ∧ op ≤ 0x3D then some [.H]
  else if 0x3E ≤ op ∧ op ≤ 0x41 then some [.G]
  else if op = 0x42 then some [.E]
  else if op = 0x43 then some [.W]
  else if op = 0x44 then some [.X]
  else if op = 0x45 ∨ op = 0x46 then some [.P]
  else none

/-- Operands an operation uses, of a, b and c. -/
def opUses (op mode : Nat) : Nat :=
  if [0x00, 0x02, 0x05, 0x44, 0x46].contains op then 0
  else if op = 0x1B then 3
  else if [0x08, 0x09, 0x0A, 0x0B, 0x0C, 0x0D, 0x0E, 0x0F, 0x10, 0x11, 0x12, 0x13, 0x15, 0x17, 0x18, 0x19,
           0x1A, 0x1C, 0x1D, 0x1F, 0x21, 0x31, 0x37, 0x3A].contains op then 2
  else if op = 0x3C then (if bit mode 19 then 2 else 1)
  else 1

def floats : List Nat := [1, 2, 3]
def ints : List Nat := [8, 9, 10, 11, 12, 14]
/-- Formats of fmin, fmax, fneg and the inputs of fcmp: every floating-point format with a sign (R154). -/
def minmaxFmts : List Nat := [1, 2, 3, 4, 5, 6]

/-- Formats of queue tokens an operation accepts for an operand, given its `fmt` (R142, R150-R166, R443); raw
suits all. The relations of the rules between `fmt` and the input format are read here, and the fixed sets of
`fmt` in `opFmtOk` (notes/assumptions/18.md). DEDUCED: notes/assumptions/18.md. -/
def opAccepts (op which fmt inF f : Nat) : Bool :=
  let any := decide (f < 15)
  let w := if fmt = 0 then fmtWidth inF else fmtWidth fmt
  let same := w == 0 || fmtWidth f == w
  f == 0 ||
  (if (0x08 ≤ op ∧ op ≤ 0x15) then ints.contains f && same
   else if op = 0x16 then [10, 9, 14, 12].contains f && decide (w ≤ fmtWidth f)
   else if op = 0x17 then [8, 9, 10].contains f
   else if 0x1C ≤ op ∧ op ≤ 0x1E then f == fmt
   else if op = 0x21 then minmaxFmts.contains f && same
   else if (0x18 ≤ op ∧ op ≤ 0x20) ∨ op = 0x2C ∨ op = 0x2D then floats.contains f && same
   else if op = 0x28 then any
   else if op = 0x29 then (if which = 0 then [4, 5, 6, 8, 13].contains f else f == 7)
   else if op = 0x2A ∨ op = 0x2B then floats.contains f
   else if (0x2E ≤ op ∧ op ≤ 0x30) then [1, 2, 3, 10, 9, 14, 12].contains f && same && floats.contains f == floats.contains fmt
   else if op = 0x31 then any && (if which = 0 then f == fmt else same)
   else if op = 0x32 ∨ op = 0x33 then f == fmt
   else if op = 0x34 then any && decide (w ≤ fmtWidth f)
   else if op = 0x35 then any && decide (fmtWidth f ≤ w)
   else if op = 0x3B then floats.contains f
   else if op = 0x3C then which == 0 && floats.contains f
   else if op = 0x3D then f == fmt
   else if op = 0x41 then fmtWidth f == 32
   else if [0x01, 0x03, 0x04, 0x06, 0x36, 0x37, 0x38, 0x3A].contains op then any && same
   else any)

/-- Formats an operation's `fmt` may name (R142, R150-R173). DEDUCED: notes/assumptions/18.md. -/
def opFmtOk (op f : Nat) : Bool :=
  if f = 15 then false
  else if [0x00, 0x39, 0x3F, 0x42, 0x43, 0x45, 0x40, 0x46].contains op then f == 0
  else if op = 0x05 then ints.contains f
  else if [0x0C, 0x0D, 0x0E, 0x0F, 0x10].contains op then f == 0 || ints.contains f
  else if (0x08 ≤ op ∧ op ≤ 0x16) ∨ op = 0x21 ∨ op = 0x35 then ints.contains f
  else if op = 0x17 then f == 10
  else if 0x1C ≤ op ∧ op ≤ 0x1E then minmaxFmts.contains f
  else if (0x18 ≤ op ∧ op ≤ 0x20) ∨ op = 0x29 ∨ op = 0x2C ∨ op = 0x2D ∨ (0x3B ≤ op ∧ op ≤ 0x3D) then floats.contains f
  else if op = 0x28 then f != 0 && f != 13
  else if op = 0x2A then [4, 5, 6, 8].contains f
  else if op = 0x2B then f == 1
  else if (0x2E ≤ op ∧ op ≤ 0x30) then [1, 2, 3, 10, 9, 14, 12].contains f
  else if op = 0x34 then f != 0
  else if op = 0x41 then [0, 1, 10, 14].contains f
  else if op = 0x44 then f == 0 || f == 1 || f == 10
  else true

/-- Operations without a data or pennant result, whose ovc is 0 (R142). -/
def opNoResult (op : Nat) : Bool := [0x00, 0x3F, 0x42, 0x43, 0x45].contains op

/-- The mode bits [31:8] an operation defines (R141), as a mask. DEDUCED: notes/assumptions/66.md. -/
def modeMask (op : Nat) : Nat :=
  if op = 0x02 then 0xFFFF0000
  else if op = 0x05 then 0xFFFFFF00
  else if op = 0x03 ∨ op = 0x04 then 0x00FFFF00
  else if op = 0x06 ∨ op = 0x33 then 0x0000FF00
  else if op = 0x15 ∨ op = 0x21 ∨ op = 0x39 ∨ op = 0x45 ∨ op = 0x46 then 0x00000700
  else if op = 0x16 then 0x00001F00
  else if op = 0x17 ∨ op = 0x32 then 0x0001FF00
  else if op = 0x2A then 0x00000300
  else if op = 0x2D then 0x00000100
  else if 0x2E ≤ op ∧ op ≤ 0x30 then 0x00FF0700
  else if op = 0x3B then 0x0007FF00
  else if op = 0x3C then 0x001FFF00
  else if op = 0x3D then 0x00FFFF00
  else if 0x3E ≤ op ∧ op ≤ 0x41 then 0xFFFFC000
  else 0

/-- The ranges of mode fields (R142). DEDUCED: notes/assumptions/66.md. -/
def modeOk (u op inF fmt mode : Nat) : Bool :=
  let n := 512 / wOf (if inF = 0 then fmt else inF)
  let f8 := bits mode 15 8
  let lr := bits mode 10 8
  let rowt := bits mode 18 11
  if op = 0x06 then f8 != 0
  else if op = 0x03 ∨ op = 0x04 then bits mode 23 8 != 0
  else if op = 0x15 ∨ op = 0x39 then decide (lr < 6)
  else if op = 0x21 then decide (lr < 7)
  else if op = 0x17 then !bit mode 16 || (decide (1 ≤ f8) && decide (f8 ≤ 16))
  else if op = 0x33 ∨ op = 0x32 then decide (f8 < n)
  else if 0x2E ≤ op ∧ op ≤ 0x30 then bits mode 9 8 != 3
  else if 0x3B ≤ op ∧ op ≤ 0x3D then
    decide (1 ≤ lr) && decide (lr ≤ 6) && decide (1 ≤ rowt) && decide (rowt * 2 ^ lr ≤ 256)
      && (op != 0x3C || !bit mode 20 || bit mode 19)
  else if op = 0x45 then
    if u < 64 then lr == 0 else lr == 1 || lr == 3 || (lr == 2 && u == 64)
  else if op = 0x46 then decide (u ≥ 64) && (lr == 3 || (lr == 2 && u == 64))
  else if 0x3E ≤ op ∧ op ≤ 0x41 then decide (u < 64) || decide (bits mode 31 8 < 0x100000)
  else true

/-- The constant-word limits (R142). -/
def constOk (u op mode k : Nat) : Bool :=
  if op = 0x2A ∨ (0x36 ≤ op ∧ op ≤ 0x38) ∨ op = 0x3A then decide (k < 32)
  else if op = 0x40 then decide (k < 2 ^ 23) && bits k 22 19 != 15
  else if op = 0x2C then k % 64 == 0 && decide (k + 2112 ≤ (if u < 64 then 0x1000000 else 0x100000))
  else if op = 0x3D then decide (k < 256) && (bit mode 23 || decide (k < 32))
  else true

/-- Selects (R140, R142, R147, R152, R189). -/
def selsOk (op mode : Nat) (o : EOp) : Bool :=
  let n := opUses op mode
  let sel := [o.sa.toNat, o.sb.toNat, o.sc.toNat]
  let state := op == 0x17 || (decide (0x2E ≤ op) && decide (op ≤ 0x30)) || op == 0x32
  let shape := (List.range 3).all fun i =>
    let v := sel.getD i 6
    let used := decide (i < n) || (i == 1 && (op == 0x29 || op == 0x2A))
    v != 7 && (used || v == 6) && !(state && v == 3)
  shape && !(op == 0x42 && o.sa != 0) && !(op == 0x17 && bit mode 16 && o.sb != 5)
  && !((op == 0x36 || op == 0x37 || op == 0x38 || op == 0x3A) && !o.pg)

/-! ### Images (R126) -/

structure VcRec where
  vc : Nat
  entry : Nat
  raw : Nat
deriving DecidableEq, Repr

structure ElemRec where
  e : Nat
  head : Nat
  op : Nat
  mode : Nat
  const : Nat
  vcs : List VcRec
deriving DecidableEq, Repr

structure BoxRec where
  b : Nat
  head : Nat
  words : List Nat
  pad : Nat
deriving DecidableEq, Repr

structure Image where
  size : Nat
  partial' : Bool
  hdrOk : Bool
  emask : Nat
  bmask : Nat
  elems : List ElemRec
  boxes : List BoxRec
  /-- Bytes the records take, with the header. -/
  used : Nat
deriving DecidableEq, Repr

/-- Element records from a byte offset on. -/
def elemRecs (b : List Byte) : Nat → Nat → List ElemRec × Nat
  | 0, off => ([], off)
  | k + 1, off =>
    let h := blk b off 4
    let nv := bits h 13 8
    let vcs := tabulate nv fun i =>
      let r := blk b (off + 16 + 4 * i) 4
      ({ vc := r % 32, entry := r / 2 ^ 16, raw := r } : VcRec)
    let rec' : ElemRec :=
      { e := h % 256, head := h, op := blk b (off + 4) 4, mode := blk b (off + 8) 4
        const := blk b (off + 12) 4, vcs := vcs }
    let (t, o) := elemRecs b k (off + 16 + 4 * nv)
    (rec' :: t, o)

/-- Box records from a byte offset on. -/
def boxRecs (b : List Byte) : Nat → Nat → List BoxRec × Nat
  | 0, off => ([], off)
  | k + 1, off =>
    let h := blk b off 4
    let n := bits h 12 8
    let words := tabulate n fun i => blk b (off + 4 + 2 * i) 2
    let pad := if n % 2 = 1 then blk b (off + 4 + 2 * n) 2 else 0
    let (t, o) := boxRecs b k (off + 4 + 2 * (n + n % 2))
    ({ b := h % 64, head := h, words := words, pad := pad } :: t, o)

/-- The image in 16 KiB of bytes (R126). -/
def parseImage (b : List Byte) : Image :=
  let (es, o1) := elemRecs b (blk b 6 2) 64
  let (bs, o2) := boxRecs b (blk b 8 2) o1
  { size := blk b 0 4, partial' := bit (blk b 5 1) 0
    hdrOk := blk b 4 1 == 3 && decide (blk b 5 1 < 2) && blk b 10 6 == 0 && blk b 56 8 == 0
      && decide (blk b 6 2 ≤ 256) && decide (blk b 8 2 ≤ 64)
    emask := blk b 16 32, bmask := blk b 48 8, elems := es, boxes := bs, used := o2 }

/-- The image in a slot of the context store. -/
def imageOf (s : State) (u img : Nat) : Image := parseImage (s.bytes (ctxAddr u (img * 0x4000)) 0x4000)

/-- A word of an image in the context store holds a parity error (R127). -/
def ctxParity (s : State) (u img : Nat) : Bool :=
  let base := ctxAddr u (img * 0x4000)
  s.mem.poison.any (inRange base (min 0x4000 (imageOf s u img).size))

/-- A load failure: cause, WKIND and WHERE (R137). -/
abbrev LoadErr := Nat × Nat × Nat

def rsvd : Nat := 0x08
def cfgState : Nat := 0x26

/-- The header checks of R126 and R127. -/
def hdrErr (s : State) (u img : Nat) (i : Image) : Option LoadErr :=
  let b := s.bytes (ctxAddr u (img * 0x4000)) 0x4000
  let maskOf (l : List Nat) : Nat := (l.map fun e => 2 ^ e).foldl (· + ·) 0
  let ok := i.hdrOk && i.size % 64 == 0 && decide (64 ≤ i.size) && decide (i.size ≤ 0x4000)
    && decide (i.used ≤ i.size)
    && rising (i.elems.map (·.e)) && rising (i.boxes.map (·.b))
    && i.emask == maskOf (i.elems.map (·.e)) && i.bmask == maskOf (i.boxes.map (·.b))
    && ((b.take i.size).drop i.used).all (· == 0)
  if ok then none else some (rsvd, 3, 0)

/-- A staging plane that is not free in some element of the image (R127). -/
def planeErr (c : Collar) (p : Nat) (i : Image) : Option LoadErr :=
  (i.elems.find? fun r =>
    let x := c.elem r.e
    let y := x.plane p
    x.cur.any (fun k => k.2 == p) || x.staged.any (fun k => k.2 == p) || x.goes.any (fun k => k.2 == p)
    || !y.qa.isEmpty || !y.qb.isEmpty || !y.qc.isEmpty || !y.qp.isEmpty
    || x.out.any (fun o => o.tok.plane == p) || x.pout.any (fun o => o.pen.plane == p)).map
    fun r => (cfgState, 1, r.e)

/-- A plane as a record gives it (R116). -/
def planeFrom (r : ElemRec) (img : Nat) : Plane :=
  { loaded := true, op := r.op, mode := r.mode, const := r.const, image := img
    vct := r.vcs.foldl (fun t v => tput t v.vc v.entry) []
    bank := { gens := tabulate 16 (lfsrSeed r.const) } }

/-- The first failure of an element record (R137, R142). -/
def elemErr (u : Nat) (rg : Region) (r : ElemRec) : Option LoadErr :=
  let y := planeFrom r 0
  let op := y.opcode
  let o := y.eop
  let inF := inFmt y o
  let strip := decide (u ≥ 64) && (elemType r.e == .E || elemType r.e == .W || elemType r.e == .X)
    && decide (op > 1)
  let vcBad := r.vcs.any fun v =>
    v.raw / 32 % 2 ^ 11 != 0 || bits v.entry 15 12 != 0 || bits v.entry 8 7 != 0
    || bits v.entry 10 9 == 3 || v.entry % 16 == 15
  let typed := match opTypes op with
    | some l => l.contains (elemType r.e)
    | none => false
  if !bit rg.emask r.e then some (cfgState, 1, r.e)
  else if !typed || strip then some (0x09, 1, r.e)
  else if r.head / 2 ^ 14 != 0 || vcBad || decide (bits r.head 13 8 > 32)
      || !selsOk op r.mode o || o.sv == 3 || o.fmt == 15
      || ((r.mode &&& 0xFFFFFF00) ||| modeMask op) != modeMask op
      || !modeOk u op inF o.fmt.toNat r.mode || !constOk u op r.mode r.const
      || !opFmtOk op o.fmt.toNat || (opNoResult op && o.ovc != 0) then some (rsvd, 1, r.e)
  else
    let srcs := srcQ o
    let which (q : Nat) : Nat := if o.sa.toNat = q then 0 else if o.sb.toNat = q then 1 else 2
    -- hinv reads its bitmap from queue b whatever it selects (R443)
    let bitmap (q : Nat) : Bool := op == 0x3C && bit r.mode 19 && q == 1
    (((r.vcs.filter fun v => vcV v.entry && (srcs.contains (vcQ v.entry) || bitmap (vcQ v.entry))).find? fun v =>
      let q := vcQ v.entry
      (bitmap q && vcFmt v.entry != 0) || !opAccepts op (which q) o.fmt.toNat inF (vcFmt v.entry)
      || (r.vcs.any fun w => vcV w.entry && vcQ w.entry == q && vcFmt w.entry != vcFmt v.entry)).map
      fun v => (0x20, 0, r.e * 32 + v.vc))

/-- The route set a box will hold in the plane (R127, R132). -/
def newWords (c : Collar) (rg slot : Nat) (i : Image) (b : Nat) : List Nat :=
  let own := match i.boxes.find? fun r => r.b == b with
    | some r => r.words
    | none => []
  if i.partial' then
    let r := c.region rg
    -- the slot's current plane, of the elements the image leaves alone
    let cur := (slotElems c r slot).find? fun x => !bit i.emask x.1
    let cur := (cur.orElse fun _ => (slotElems c r slot).head?).map (·.2)
    match cur with
    | some p =>
      let copy := (c.box b).words rg p
      let key (w : Nat) : Nat × Nat × Bool := (swIn w, swVc w, swPen w)
      (copy.filter fun w => !own.any fun v => key v == key w) ++ own
    | none => own
  else own

/-- The first failure of a box record (R127, R177). -/
def boxErr (c : Collar) (rgn : Nat) (rg : Region) (r : BoxRec) : Option LoadErr :=
  let portBad (b w : Nat) : Bool :=
    decide (swOut w ≥ 8) || decide (swIn w ≥ 8) || swIn w == swOut w
    || (!hasMesh b && (swOut w == 7 || swIn w == 7))
  let same (v w : Nat) : Bool := swIn v == swIn w && swVc v == swVc w && swPen v == swPen w
  let dup := (List.range r.words.length).any fun i => (List.range r.words.length).any fun j =>
    decide (i < j) && same (r.words.getD i 0) (r.words.getD j 0)
      && swOut (r.words.getD i 0) == swOut (r.words.getD j 0)
  let other := (c.box r.b).routes.any fun (k, ws) =>
    k / 4 != rgn && ws.any fun v => r.words.any fun w => same v w
  if !bit rg.bmask r.b then some (cfgState, 2, r.b)
  else if r.head / 2 ^ 13 != 0 || bits r.head 7 6 != 0 || r.pad != 0 || decide (r.words.length > 16)
  then some (rsvd, 2, r.b)
  else if r.words.any (portBad r.b) || dup || other then some (0x25, 2, r.b)
  else none

/-- The consumers a VC reaches from a port of a box, by the words `ws` gives (R128). -/
def reach (ws : Nat → List Nat) (vc : Nat) : Nat → Nat → Nat → List Nat
  | 0, _, _ => []
  | fuel + 1, b, port =>
    ((outsFor (ws b) port vc false).map fun o =>
      if o < 4 then [elemAt b o]
      else if o < 7 then
        let (b', p') := neighbour b o
        reach ws vc fuel b' p'
      else []).flatten

/-- The VCs a producer's plane emits data on, with the format of each (R128, R157, R165, R167). -/
def producerVcs (y : Plane) : List (Nat × Nat) :=
  let op := y.opcode
  let o := y.eop
  let own := (o.ovc.toNat, o.fmt.toNat)
  if opNoResult op || op == 0x39 then []
  else if op = 0x2A ∧ bit y.mode 9 = false then [own, (y.const % 32, 7)]
  else if op = 0x3D then [own, (y.const % 32, 0)]
  else if op = 0x36 then [own, (y.const % 32, o.fmt.toNat)]
  else [own]

/-- The first edge that two producers share, or whose formats disagree (R127, R128). -/
def edgeErr (c : Collar) (rgn slot : Nat) (i : Image) : Option LoadErr :=
  let r := c.region rgn
  let inImg (e : Nat) : Bool := bit i.emask e
  let others := if i.partial' then (slotElems c r slot).filter fun x => !inImg x.1 else []
  let newW (b : Nat) : List Nat := newWords c rgn slot i b
  let planeAt (e : Nat) : Option Plane :=
    match i.elems.find? fun r => r.e == e with
    | some r => some (planeFrom r 0)
    | none => (others.find? fun x => x.1 == e).map fun x => (c.elem e).plane x.2
  let prods : List (Nat × Plane × (Nat → List Nat)) :=
    (i.elems.map fun r => (r.e, planeFrom r 0, newW))
    ++ others.map fun x => (x.1, (c.elem x.1).plane x.2, fun b => (c.box b).words rgn x.2)
  -- edges: number, producer, format
  let edges := (prods.map fun (e, y, ws) => ((producerVcs y).map fun (vc, f) =>
    ((reach ws vc 64 (boxOf e) (portOf e)).filter fun k =>
      (inImg k || inImg e) && (match planeAt k with
        | some z => vcV (z.vc vc)
        | none => false)).map fun k => (k * 32 + vc, e, f)).flatten).flatten
  let nums := (List.range 8192).filter fun n => edges.any fun x => x.1 == n
  nums.findSome? fun n =>
    let on := edges.filter fun x => x.1 == n
    let ps := (on.map fun x => x.2.1).eraseDups
    let want := match planeAt (n / 32) with
      | some z => vcFmt (z.vc (n % 32))
      | none => 0
    if ps.length > 1 then some (0x25, 0, n)
    else if on.any fun x => x.2.2 != want && x.2.2 != 0 && want != 0 then some (0x20, 0, n)
    else none

def firstErr (l : List (Option LoadErr)) : Option LoadErr := l.findSome? id

/-- The first failure of an image in the order of R137, after its parity. A partial image for an empty slot fails after the
header, as WKIND 3 at place 0. DESIGN CHOICE: notes/assumptions/104.md. -/
def imageErr (s : State) (u rgn slot p img : Nat) : Option LoadErr :=
  let c := s.collar u
  let i := imageOf s u img
  let rg := c.region rgn
  firstErr [
    hdrErr s u img i,
    (if i.partial' && !rg.armed.contains slot then some (cfgState, 3, 0) else none),
    planeErr c p i,
    firstErr (i.elems.map (elemErr u rg)),
    firstErr (i.boxes.map (boxErr c rgn rg)),
    edgeErr c rgn slot i]

/-- A failure is recorded unless one stands (R137). -/
def recordErr (rg : Region) (p : Nat) (e : LoadErr) : Region :=
  if bit rg.crerr 21 then rg
  else { rg with crerr := e.1 + 2 ^ 6 * p + 2 ^ 8 * e.2.2 + 2 ^ 21 + 2 ^ 22 * e.2.1 }

/-- A plane becomes an element's current plane for a slot (R130, R159): a start held goes with it. -/
def becomeCurrent (s : State) (x : Elem) (slot p : Nat) (start : Option Nat) : Elem :=
  let y := x.plane p
  let st := y.bank.st
  let ag := decide (0x3E ≤ y.opcode) && decide (y.opcode ≤ 0x41)
  let st := { st with ready := s.cycle + 1 }
  let st := match start with
    | some d => { st with on := true, dom := d, t := 0, cnt := 0, wantDesc := ag, desc := none }
    | none => st
  { x.setPlane p { y with bank := { y.bank with st := st } } with
    cur := tput x.cur slot p, staged := if x.stagedOf slot = some p then tdel x.staged slot else x.staged
    goes := tdel x.goes slot }

/-- The planes and route sets of an image enter a collar (R127). DEDUCED: notes/assumptions/67.md. -/
def placeIn (s : State) (u rgn slot p img : Nat) (i : Image) : State :=
  let c := s.collar u
  let rg := c.region rgn
  let empty := !rg.armed.contains slot
  let c1 := i.elems.foldl (fun c r =>
    let x := (c.elem r.e).setPlane p (planeFrom r img)
    let x := { x with closed := tdel x.closed p }
    c.setElem r.e (if empty then becomeCurrent s x slot p none
      else { x with staged := tput x.staged slot p })) c
  let boxes := maskList 64 (if i.partial' then rg.bmask ||| i.bmask else i.bmask)
  let c2 := boxes.foldl (fun c1 b =>
    let ws := newWords c rgn slot i b
    let x := (c1.box b).settle
    c1.setBox b { x with routes := if ws.isEmpty then tdel x.routes (rgn * 4 + p)
                          else tput x.routes (rgn * 4 + p) ws }) c1
  let rg' := { rg with
    armed := if empty then rg.armed ++ [slot] else rg.armed
    loading := rg.loading.erase slot
    staged := if empty then rg.staged else tput rg.staged slot (p, i.partial') }
  s.setCollar u (c2.setRegion rgn rg')

/-- An image of the context store enters a collar (R127). -/
def placeImage (s : State) (u rgn slot p img : Nat) : State := placeIn s u rgn slot p img (imageOf s u img)

/-- A load fails: a control-class fault on the task that issued it, at once or when it next runs (R291). -/
def loadFails (s : State) (u : Nat) (l : CfgLoad) (cause : Nat) : State :=
  if u ≥ 64 then s
  else if (s.tile u).task = some l.task then seqFault s u cause l.pc 0 0 .config
  else
    let k := s.task l.task
    s.setTask l.task { k with lateFaults := k.lateFaults ++ [(cause, l.pc)] }

/-- The oldest load of a unit has used up its cycles and ends in this one (R291). -/
def loadDue (s : State) (u : Nat) (l : CfgLoad) : Bool :=
  match l.start with
  | some t => decide (t + (imageOf s u l.img).size / 64 + 16 ≤ s.cycle)
  | none => false

/-- CONFIG_LOAD: the oldest load of a unit ends; one that met a parity error is repeated once firmware has
rewritten the image (R127, R137, R291). -/
def execConfigLoad (u : Nat) (s : State) : Out :=
  let c := s.collar u
  match c.loads with
  | [] => .next s
  | l :: rest =>
    let rg := c.region l.rgn
    if ctxParity s u l.img then
      if l.told then .next s
      else
        let rg' := recordErr rg l.plane (0x27, 3, 0)
        let c' := { c.setRegion l.rgn rg' with loads := { l with start := none, told := true } :: rest }
        .next ((s.setCollar u c').reportF 0x27 u 0 (bytesOfNat 8 l.img))
    else
      let s0 := s.setCollar u { c with loads := rest }
      let fin (s : State) : State := match l.op with
        | some id => if u < 64 then finishOp s u id none else s
        | none => s
      match imageErr s u l.rgn l.slot l.plane l.img with
      | none => .next (fin (placeImage s0 u l.rgn l.slot l.plane l.img))
      | some e =>
        let c1 := s0.collar u
        let rg1 := recordErr { rg with loading := rg.loading.erase l.slot } l.plane e
        let s1 := fin (s0.setCollar u (c1.setRegion l.rgn rg1))
        .next (loadFails s1 u l e.1)

/-! ### Starts (R288, R435) -/

/-- Whether a start is meant for an operation: AG operations, const and cnt. -/
def startable (y : Plane) : Bool :=
  let op := y.opcode
  op == 0x02 || op == 0x05 || (decide (0x3E ≤ op) && decide (op ≤ 0x41))

/-- SOURCE_START_ARRIVAL: a stream begins, or the start is held (R288, R435). -/
def execSourceStartArrival (u e : Nat) (s : State) : Out :=
  let c := s.collar u
  match c.starts.find? fun a => a.elem == e && decide (a.at' ≤ s.cycle) with
  | none => .next s
  | some a =>
    let s := s.setCollar u { c with starts := c.starts.erase a }
    let x := s.elemOf u e
    match x.curOf a.slot with
    | none => .next s
    | some p =>
      let y := x.plane p
      let st := y.bank.st
      let ag := y.opcode != 0x02 && y.opcode != 0x05
      -- the final firing is past: the start waits for the new plane
      let past := x.switching.contains a.slot && thas x.final a.slot
      let st' :=
        if !startable y then st
        else if st.on || past then { st with held := some a.dom }
        else { st with on := true, dom := a.dom, t := 0, cnt := 0, wantDesc := ag, begun := s.cycle
                       desc := if ag then none else st.desc, ready := s.cycle + 1 }
      let s1 := s.setPlane u e p { y with bank := { y.bank with st := st' } }
      .next (if ag && startable y && !(st.on || past) then newStream s1 u e a.slot else s1)

/-! ### Switches (R130-R132) -/

/-- The final firing of an element in its old plane is past when the request arrives (R130). -/
def finalPast (s : State) (u e slot : Nat) (y : Plane) : Bool :=
  let st := y.bank.st
  let op := y.opcode
  if op = 0 then true
  else if op = 0x44 then
    match (s.tile u).arr.drains with
    | d :: _ => d.arr != some (regionNum (s.collar u) e, slot)
    | [] => true
  else if (srcQ y.eop).isEmpty then !st.on
  else y.ended && y.emitted && (srcQ y.eop).all fun q => (y.queue q).isEmpty

/-- A switch is requested: the staged plane of a slot becomes the one it leads to, so that a load that ends before the
switch does stages for the next (R127, R130). -/
def Collar.takeStaged (c : Collar) (rg : Region) (slot p : Nat) : Collar :=
  { c with elems := c.elems.map fun (e, x) =>
      (e, if bit rg.emask e && x.stagedOf slot == some p
          then { x with staged := tdel x.staged slot, goes := tput x.goes slot p } else x) }

/-- The elements that a switch switches: those that hold a plane for the slot, in a full switch, and those that
the staged image names (R130, R132). -/
def switchElems (c : Collar) (rg : Region) (w : Switch) : List Nat :=
  (maskList 256 rg.emask).filter fun e => thas c.elems e
    && (let x := c.elem e
        x.goesTo w.slot == some w.to' || (!w.partial' && (x.curOf w.slot).isSome))

/-- Route sets of planes that no element of the region holds for any slot are freed (R131, R132). -/
def freeRoutes (c : Collar) (r : Nat) : Collar :=
  let rg := c.region r
  let used (p : Nat) : Bool := rg.staged.any (fun k => k.2.1 == p) || (maskList 256 rg.emask).any fun e =>
    let x := c.elem e
    x.cur.any (fun k => k.2 == p) || x.staged.any (fun k => k.2 == p) || x.goes.any (fun k => k.2 == p)
  let free (c : Collar) (p : Nat) : Collar :=
    if used p then c
    else { c with boxes := c.boxes.map fun (b, x) =>
      (b, if thas x.routes (r * 4 + p) then { x.settle with routes := tdel x.routes (r * 4 + p) } else x) }
  [0, 1, 2, 3].foldl free c

/-- The last element has switched: the planes left are free, and the request's tag completes (R131, R132). -/
def switchDone (s : State) (u r : Nat) (w : Switch) : State :=
  let c := s.collar u
  let rg := c.region r
  -- a plane staged meanwhile stays staged (R127)
  let rg' := { rg with
    switches := rg.switches.filter fun v => v.slot != w.slot
    staged := if (tget (4, false) rg.staged w.slot).1 = w.to' then tdel rg.staged w.slot else rg.staged }
  let s1 := s.setCollar u (freeRoutes (c.setRegion r rg') r)
  match w.op with
  | some id => if u < 64 then finishOp s1 u id none else s1
  | none => s1

/-- SWITCH_REQUEST_ARRIVAL: the request reaches every element of the region (R130). -/
def execSwitchRequestArrival (u r : Nat) (s : State) : Out :=
  let c := s.collar u
  let rg := c.region r
  match rg.switches.find? fun w => decide (w.arrive ≤ s.cycle) && w.arrive != 0 with
  | none => .next s
  | some w =>
    let go := switchElems c rg w
    let c1 := go.foldl (fun c e =>
      let x := c.elem e
      let past := match x.curOf w.slot with
        | some p => finalPast s u e w.slot (x.plane p)
        | none => true
      c.setElem e { x with
        switching := x.switching ++ [w.slot]
        final := if past then tput x.final w.slot s.cycle else tdel x.final w.slot }) c
    let rg' := { rg with switches := rg.switches.map fun v =>
      if v.slot = w.slot then { v with arrive := 0 } else v }
    let s1 := s.setCollar u (c1.setRegion r rg')
    .next (if go.isEmpty then switchDone s1 u r w else s1)

/-- ELEMENT_PLANE_SWITCH: in the cycle after its final firing an element's current plane changes, unless
its old queues still hold tokens (R130, R131). The last one completes the switch. -/
def execElementPlaneSwitch (u e slot : Nat) (s : State) : Out :=
  let c := s.collar u
  let x := c.elem e
  let r := regionNum c e
  let rg := c.region r
  match rg.switches.find? fun w => w.slot == slot with
  | none => .next s
  | some w =>
    let due := x.switching.contains slot && thas x.final slot && decide (tget 0 x.final slot < s.cycle)
    let old := x.curOf slot
    let y := x.plane (old.getD 4)
    let st := y.bank.st
    let busy := old.isSome && (!st.outq.isEmpty || (st.on && y.opcode == 0x3E && !(srcQ y.eop).isEmpty))
    if !due || busy || x.fault.isSome then .next s
    else
      let holds := ([0, 1, 2].filter fun q => !(y.queue q).isEmpty) ++ (if y.qp.isEmpty then [] else [3])
      if old.isSome && !holds.isEmpty && !y.eosp && st.grant != some 4 then
        .next (elemFault s u e slot (old.getD 0) 0x22 { detail := holds.headD 0 })
      else
        let drop := y.qa.length + y.qb.length + y.qc.length + y.qp.length
        let y1 := { y with
          qa := [], qb := [], qc := [], qp := []
          loaded := false
          bank := { y.bank with disc := min 0xFFFF (y.bank.disc + drop), st := { st with held := none, grant := none } } }
        let x1 := match old with
          | some p => x.setPlane p y1
          | none => x
        let x2 := { x1 with switching := x1.switching.erase slot, final := tdel x1.final slot }
        let x3 := if x2.goesTo slot = some w.to' then
            becomeCurrent s x2 slot w.to' (if old.isSome then st.held else none)
          else { x2 with cur := tdel x2.cur slot }
        let c1 := c.setElem e x3
        let left := (maskList 256 rg.emask).any fun f => thas c1.elems f && (c1.elem f).switching.contains slot
        .next (if left then s.setCollar u c1 else switchDone (s.setCollar u c1) u r w)

/-! ### Cuts (R120, R386, R387) -/

/-- BANNER_CUT: a banner stands at the head of every queue an element sources, and its bank is saved
(R120). -/
def execBannerCut (u e p : Nat) (s : State) : Out :=
  let x := s.elemOf u e
  match x.cur.find? fun k => k.2 == p with
  | none => .next s
  | some (slot, _) =>
    let y := x.plane p
    let o := y.eop
    let s := { s with cur := { s.cur with unit := u, elem := e, slot := slot, plane := p } }
    let c := fctx s o
    let qs := srcQ o
    let bare := opNoResult y.opcode || y.opcode == 0x39
    if x.fault.isSome || (gatedOp y.opcode && gateClosed s u e slot) || qs.isEmpty || decide (c.toks.length < qs.length) || !c.toks.all (·.2.bnr)
        || !y.bank.st.outq.isEmpty || y.lacksTable || !(bare || outRoom (s.collar u) e) then .next s
    else .next (bannerCut s c bare)

/-- Every element of a slot has reached its end (R387). -/
def slotEnded (s : State) (u : Nat) (l : List (Nat × Nat)) : Bool :=
  l.all fun (e, p) =>
    let y := (s.elemOf u e).plane p
    y.opcode == 0 || y.ended

/-- An agst performs the lines whose time has come: of the intervals that a complete cut ends, of those that made room in
a full buffer, and, with the slot at its end, all (R387). -/
def linesDue (s : State) (u slot : Nat) (ended : Bool) (l : List (Nat × Nat)) : State :=
  l.foldl (fun s (e, p) =>
    let y := s.planeOf u e p
    if y.lines.isEmpty then s
    else performLines s u e slot p (if ended then 2 ^ 64 else max y.lineTo ((y.cutDone.map (·.1)).getD 0))) s

/-- CUT_COMPLETE: a cut of a slot is complete when every element of it has saved its bank at the banner;
buffered lines of the intervals it ends are performed (R386, R387). -/
def execCutComplete (u r slot : Nat) (s : State) : Out :=
  let c := s.collar u
  let rg := c.region r
  let es := (slotElems c rg slot).filter fun (e, p) => ((c.elem e).plane p).opcode != 0
  let next (e p : Nat) : Option Nat := ((c.elem e).plane p).cuts.head?.map (·.1)
  match es.head?.bind fun (e, p) => next e p with
  | some k =>
    if es.all fun (e, p) => next e p == some k then
      let c1 := es.foldl (fun c (e, p) =>
        let x := c.elem e
        let y := x.plane p
        c.setElem e (x.setPlane p { y with cutDone := y.cuts.head?, cuts := y.cuts.drop 1 })) c
      let rg' := { rg with cut := tput rg.cut slot (k % 256), broken := rg.broken.erase slot }
      .next (linesDue (s.setCollar u (c1.setRegion r rg')) u slot false es)
    else .next (linesDue s u slot (slotEnded s u es) es)
  | none => .next (linesDue s u slot (slotEnded s u es) es)

/-- ECLR (R136). -/
def execEclr (u e p : Nat) (v : W32) (s : State) : Out := .next (eclrDo s u (e % 256) (p % 4) v.toNat)

end Sys2Proof.Machine
end

