-- ==== Sys2Proof/Machine/ArrayEv.lean ====
section
/-!
DEFINITION. Events of the weight buffer, the array and the hold (R30-R33, R53, R179-R202, R285-R289,
R373).
-/
namespace Sys2Proof.Machine

def setMma (a : Array) (m : Mma) : Array :=
  { a with mmas := a.mmas.map fun n => if n.id = m.id then m else n }
/-- Operations whose rows have not all been accepted, oldest first: the running and the waiting one. -/
def Array.unfed (a : Array) : List Mma := a.mmas.filter fun m => !m.fed
def Array.slotOf (a : Array) (k : Nat) : WSlot := tget ({} : WSlot) a.slots (k % 4)

/-! ### Preloads (R188, R191) -/

/-- The current planes of the FEEDs of an array context, none where one holds no feed. -/
def feedPlanes (s : State) (t : Nat) (ctx : Option (Nat × Nat)) : Option (List (Elem × Plane)) :=
  match ctx with
  | none => none
  | some (rgn, slot) =>
    let c := s.collar t
    let l := (List.range 8).filterMap fun j =>
      let e := feedElem j
      let x := c.elem e
      match x.curOf slot with
      | some p =>
        if regionOf c e == some rgn && (x.plane p).opcode == 0x42 then some (x, x.plane p) else none
      | none => none
    if l.length = 8 then some l else none

/-- The input format of a FEED's queue: that of the reply at its head, or its VC entries' (R105, R188). -/
def feedFmt (y : Plane) (q : Nat) : Nat := (((y.queue q).head?).bind (·.fmt)).getD (qFmt y q)

/-- The check of R188 for a pass: the failed check's number in DETAIL (R374). -/
def passCheck (s : State) (t : Nat) (m : Mma) (pass : Nat) : Option Nat :=
  let w := (s.arr t).slotOf (m.slot + pass)
  let h := imgHdr w.toks
  if w.st ≠ 2 then some 0
  else if (h.fmt, h.mx, h.k) ≠ pairWeight m.pair then some 1
  else match feedPlanes s t m.arr with
    | none => some 4
    | some l =>
      if l.any fun (_, y) => feedFmt y 0 != 0 && feedFmt y 0 != pairA m.pair then some 2
      else if m.pair ≥ 9 && l.any fun (_, y) => feedFmt y 1 != 0 && feedFmt y 1 != 7 then some 3
      else none

/-- The pass that is to be preloaded next, and the tile cycle from which it may: its operation, its
number, and the cycle (R191). -/
def nextPreload (a : Array) : Option (Mma × Nat × Nat) :=
  match a.unfed with
  | [] => none
  | m :: rest =>
    if !m.started then (if m.pre.isSome || m.failed then none else some (m, m.pass, m.issueT + 1))
    else if m.pass + 1 < m.p then
      (if m.pre.isSome || m.failed then none else some (m, m.pass + 1, m.startT))
    else match rest with
      | [] => none
      | n :: _ =>
        if n.pre.isSome || n.failed then none else some (n, 0, max (n.issueT + 1) m.startT)

/-- The next pass is checked and its tile begins to enter the preload registers, or it keeps the resident tile;
`counts` asks for what the expansion counts. -/
def preloadDo (counts : Bool) (s : State) (t : Nat) : State :=
  let x := s.tile t
  let a := x.arr
  match nextPreload a with
    | none => s
    | some (m, pass, from') =>
      if a.clk < from' then s
      else match passCheck s t m pass with
        | some d =>
          let s1 := s.setArr t (setMma a { m with failed := true })
          let det := (m.slot + pass) % 4 + 4 * d
          if m.wd then wdFault s1 t 0x3B 0 det (.pass m.id) else seqFault s1 t 0x3B m.pc 0 det (.pass m.id)
        | none =>
          let k := (m.slot + pass) % 4
          if a.wbufBad.contains k then
            seqFault (s.setArr t (setMma a { m with failed := true })) t 0x37 m.pc 0 0 .parity
          else
          let w := a.slotOf k
          let keep := match a.resident with
            | some r => r.slot == k && r.gen == w.gen
            | none => false
          let tile : ATile := { slot := k, gen := w.gen, pair := m.pair, toks := w.toks }
          let (n, sat) := if keep || !counts then (0, false) else preloadCounts (imgHdr w.toks) w.toks m.pair
          let m' := { m with pre := some (if keep then from' else max from' a.clk + 128) }
          s.setArr t { setMma a m' with
            preload := some tile, rsvcnt := min 0xFFFF (a.rsvcnt + n), dsat := a.dsat || sat }

/-- DECOMPRESSOR_PRELOAD (R184, R188, R191). -/
def execDecompressorPreload (t : Nat) (s : State) : Out :=
  if (s.tile t).still then .next s else .next (preloadDo true s t)

/-- The preload becomes resident when its pass may start (R191). -/
def passStartDo (s : State) (t : Nat) : State :=
  let a := s.arr t
  match a.unfed with
  | [] => s
  | m :: _ =>
    match m.pre with
    | none => s
    | some ready =>
      if m.started || m.failed || decide (a.clk < ready)
          || (decide (m.pass > 0) && decide (a.clk < m.startT + m.m)) then s
      else
        let m' := { m with started := true, startT := a.clk, rows := 0, pre := none }
        s.setArr t { setMma a m' with
          resident := (match a.preload with
            | some p => some p
            | none => a.resident)
          preload := none }

/-- PASS_START (R191). -/
def execPassStart (t : Nat) (s : State) : Out :=
  if (s.tile t).still then .next s else .next (passStartDo s t)

/-! ### Rows (R31, R189, R190) -/

/-- Rows a scale token covers, for a pair code with block scales (R189). -/
def scaleRows (pair : Nat) : Nat := if pair = 11 then 16 else 32
/-- Block scales of a row from a scale token of FEED j (R189). -/
def rowScales (pair m : Nat) (tok : Tok) : List Nat :=
  let per := if pair = 11 then 4 else 2
  let k := scaleRows pair
  tabulate per fun i => (valuesOf 8 tok.val).getD (per * (m % k) + i) 0

/-- What a FEED holds toward a row: its token, and its scale token where the pair code has one (R189). -/
def feedOffers (s : State) (m : Mma) (slot : Nat) (x : Elem) (y : Plane) : Option (Tok × Option Tok) :=
  match (feedHeld x slot).head? with
  | some tok =>
    if tok.at' > s.cycle || x.fault.isSome then none
    else if m.pair ≥ 9 then (y.qb.head?).map fun b => (tok, some b)
    else some (tok, none)
  | none => none

/-- The token's SEQ is not its scale token's (R189). -/
def seqDiffers : Tok × Option Tok → Bool
  | (a, some b) => a.seq != b.seq
  | _ => false

/-- What stands at the FEEDs for the row due: its eight tokens, and their scale tokens. -/
def rowTokens (s : State) (t : Nat) (m : Mma) : Option (List (Tok × Option Tok)) :=
  match m.arr, feedPlanes s t m.arr with
  | some (_, slot), some l =>
    let r := l.filterMap fun (x, y) => (feedOffers s m slot x y).filter fun p => !seqDiffers p
    if r.length = 8 then some r else none
  | _, _ => none

/-- The operation whose rows the FEEDs present tokens for: its pass runs and a row is still to come (R189). -/
def rowNext (a : Array) : Option Mma :=
  match a.unfed with
  | [] => none
  | m :: _ => if m.started && decide (m.rows < m.m) then some m else none

/-- A row is due: its pass runs and its cycle has come (R191). -/
def rowDue (x : Tile) : Option Mma :=
  (rowNext x.arr).filter fun m => decide (x.arr.clk ≥ m.startT + m.rows)

/-- Each FEED whose token and scale token differ in SEQ raises SCALE_SEQ and withholds (R189). -/
def scaleFaults (s : State) (t : Nat) : State :=
  match rowNext (s.arr t) with
  | none => s
  | some m => match m.arr, feedPlanes s t m.arr with
    | some (_, slot), some l =>
      (List.range 8).foldl (fun s j => match l[j]? with
        | some (x, y) =>
          if ((feedOffers s m slot x y).map seqDiffers).getD false then
            elemFault s t (feedElem j) slot (((s.elemOf t (feedElem j)).curOf slot).getD 0) 0x24 { detail := 0 }
          else s
        | none => s) s
    | _, _ => s

/-- A FEED consumes its part of the accepted row, and its scale token where the row is the last it
covers. -/
def feedTake (s : State) (t slot j : Nat) (scale : Bool) : State :=
  let e := feedElem j
  let x := s.elemOf t e
  match (feedHeld x slot).head? with
  | none => s
  | some tok =>
    let x1 := { x with inbox := x.inbox.erase tok }
    let x2 := if scale then
        match x1.curOf slot with
        | some p =>
          let y := x1.plane p
          x1.setPlane p { y with qb := y.qb.drop 1, taken := tput y.taken 1 (tget 0 y.taken 1 + 1) }
        | none => x1
      else x1
    s.setElem t e x2

/-- A row that is due and stands at the eight FEEDs is accepted: its sums reach the accumulator store by the bounds
of R29, and the FEEDs consume their tokens. -/
def acceptRow (s : State) (t : Nat) (m : Mma) (l : List (Tok × Option Tok)) (slot : Nat) (tile : ATile) : State :=
  let arow := rowNum (l.map (·.1))
  let ascl := (l.map fun (_, b) => match b with
    | some b => rowScales m.pair m.rows b
    | none => []).flatten
  let row := if m.ds then m.row0 + m.pass * m.m + m.rows else m.row0 + m.rows
  let c : Contrib :=
    { mma := m.id, ord := m.ord, pass := m.pass, row := row, sums := rowSums tile arow ascl
      add := !m.ds && (decide (m.pass > 0) || m.acc), int := m.pair == 6 || m.pair == 7
      base := (s.arr t).clk }
  let lastRow := decide (m.rows + 1 ≥ m.m)
  let takeScale := decide (m.pair ≥ 9) && (lastRow || (m.rows + 1) % scaleRows m.pair == 0)
  let s1 := (List.range 8).foldl (fun s j => feedTake s t slot j takeScale) s
  let a := s1.arr t
  let m' := if !lastRow then { m with rows := m.rows + 1 }
    else if m.pass + 1 < m.p then { m with pass := m.pass + 1, rows := 0, started := false }
    else { m with rows := m.m, fed := true }
  -- the cycle has moved the array: it stays a tile cycle (R31)
  let s2 := s1.setArr t { setMma a m' with contribs := a.contribs ++ [c] }
  s2.setTile t { s2.tile t with ticked := false }

/-- A_ROW_ACCEPT: the array takes one row (R29, R189-R192, R197). -/
def execARowAccept (t : Nat) (s : State) : Out :=
  let s := scaleFaults s t
  let x := s.tile t
  match (if x.still then none else rowDue x) with
  | none => .next s
  | some m =>
    match rowTokens s t m, m.arr, x.arr.resident with
    | some l, some (_, slot), some tile => .next (acceptRow s t m l slot tile)
    | _, _, _ => .next s

/-! ### The hold (R31, R196, R382) -/

/-- The tile as its array cycle would begin: a pass whose time has come has started (R191). -/
def arrayAhead (s : State) (t : Nat) : State :=
  let s1 := s.setTile t { s.tile t with ticked := false }
  if (s.arr t).unfed.isEmpty then s1
  else preloadDo false (passStartDo (preloadDo false s1 t) t) t

/-- In the cycle that begins a FEED has no token for the row due, or a DRN no room for a due row (R31, R196). -/
def starved (s : State) (t : Nat) : Bool :=
  let x := s.tile t
  (!x.arr.unfed.isEmpty && (let s1 := arrayAhead s t
    match rowDue (s1.tile t) with
      | some m => (rowTokens s1 t m).isNone
      | none => false))
  || (match dueDrain x with
      | some d => (List.range 8).any fun j => !drnRoom s t (drnElem j) ((d.arr.map (·.2)).getD 0)
      | none => false)

/-- What asserts a tile's hold in the cycle that begins: a control-class fault, a FEED without a token for the row
due, or a DRN without room for a due row (R31, R196, R382). -/
def holdWanted (s : State) (t : Nat) : Bool := !(s.tile t).shadow.queue.isEmpty || starved s t

/-- TILE_HOLD_ASSERT (R31). -/
def execTileHoldAssert (t : Nat) (s : State) : Out :=
  if holdWanted s t then .next (s.setTile t { s.tile t with held := true }) else .next s
/-- TILE_HOLD_RELEASE (R31). -/
def execTileHoldRelease (t : Nat) (s : State) : Out :=
  if holdWanted s t then .next s else .next (s.setTile t { s.tile t with held := false })

/-- The array runs on while a fault of the weight-driven engine is serviced and nothing else holds the tile
(R321). DEDUCED: notes/assumptions/76.md. -/
def runsOn (s : State) (t : Nat) : Bool :=
  let x := s.tile t
  x.held && ((x.shadow.queue.head?).map CFault.ofMode).getD false && !starved s t

/-! ### Landing (R29, R194, R195) -/

/-- A word of a row holds a parity error (R373). -/
def Array.wordParity (a : Array) (row : Nat) (cols : List Nat) : Bool := cols.any fun c => a.accBad.contains (accIdx row c)

/-- What a pending ldacc, issued before the place `ord`, reads of words of a row that are about to be updated, or
that a later ldacc reads (R194, R195). -/
def captureReads (s : State) (t row : Nat) (cols : List Nat) (ord : Nat) : State :=
  (s.tile t).ctx.ops.foldl (fun s o => match o.kind with
    | .ldacc _ r g tc =>
      if r = row ∧ o.ord < ord then
        (List.range 32).foldl (fun s l =>
          let a := s.arr t
          if cols.contains (32 * g + l) && !(a.reads.any fun v => v.1 == o.id && v.2.1 == l) then
            let (w, a) := a.readWord tc row (32 * g + l) fun n => choose s (36000 + 32 * (o.id % 64) + l) n
            s.setArr t { a.readStage row [32 * g + l] with reads := a.reads ++ [(o.id, l, w)] }
          else s) s
      else s
    | _ => s) s

/-- Words of a store operation take their values. -/
def putRow (a : Array) (row g v ord fv : Nat) : Array :=
  (List.range 32).foldl (fun a l =>
    a.updWord row (32 * g + l) (BitVec.ofNat 32 (v >>> (32 * l))) none ord false (BitVec.ofNat 32 (fv >>> (32 * l)))) a

/-- Columns of a column group. -/
def groupCols (g : Nat) : List Nat := tabulate 32 fun l => 32 * g + l

/-- A stacc or accz writes its words, once the updates before it have taken effect (R194, R284, R289). -/
def accWriteDo (s : State) (t : Nat) (o : Op) : State :=
  match o.kind with
  | .stacc row g v =>
    if wordsClear (s.tile t) row (groupCols g) o.ord 0 then
      let s := captureReads s t row (groupCols g) o.ord
      finishOp (s.setArr t (putRow (s.arr t) row g v o.ord (undef s 2046))) t o.id none
    else s
  | .accz row n mask =>
    let gs := (List.range 4).filter fun g => bit mask g
    let cols := (gs.map groupCols).flatten
    if (List.range n).all fun i => wordsClear (s.tile t) (row + i) cols o.ord 0 then
      let s := (List.range n).foldl (fun s i => captureReads s t (row + i) cols o.ord) s
      let a := (List.range n).foldl (fun a i => gs.foldl (fun a g => putRow a (row + i) g 0 o.ord (undef s 2046)) a) (s.arr t)
      finishOp (s.setArr t a) t o.id none
    else s
  | _ => s

/-- Columns of a contribution land. -/
def landCols (s : State) (t : Nat) (c : Contrib) (cols : List Nat) (fv : Nat) : State :=
  if cols.isEmpty then s
  else
    let bad := c.add && (s.arr t).wordParity c.row cols
    let s := captureReads s t c.row cols c.ord
    let m := (s.arr t).mmas.find? fun m => m.id == c.mma
    let s1 := s.setArr t ((s.arr t).land c ((m.map (·.tag)).getD 0) ((m.map (·.ds)).getD false) fv cols)
    if bad then seqFault s1 t 0x34 ((m.map (·.pc)).getD 0) 0 0 .parity else s1

/-- The columns of a contribution that nothing before it in the order still has to update (R194). -/
def freeCols (s : State) (t : Nat) (c : Contrib) : List Nat :=
  c.left.filter fun k => wordsClear (s.tile t) c.row [k] c.ord c.pass

/-- The stores that stand before a contribution at its bound are performed, each after the sums before it: R29's
bound leaves them no more time (R192, R194). -/
def forceStores (s : State) (t : Nat) (c : Contrib) (cols : List Nat) : State :=
  let early (o : Op) : Bool := decide (o.ord < c.ord) && (o.kind.rows).isSome
  if !((s.tile t).ctx.ops.any fun o => early o && o.kind.covers c.row cols) then s
  else ((s.tile t).ctx.ops.filter early).foldl (fun s o =>
    let s1 := (s.arr t).contribs.foldl (fun s d =>
      if d.ord < o.ord then landCols s t d ((freeCols s t d).filter fun k => o.kind.covers d.row [k]) (undef s 2047) else s) s
    accWriteDo s1 t o) s

/-- Contributions land in an array cycle: each column at its bound, or before it by a free choice, in the order of
R194 (R29). -/
def landArray (s : State) (t : Nat) : State :=
  let n := (s.arr t).contribs
  (List.range n.length).foldl (fun s i =>
    match n[i]? with
    | none => s
    | some c0 => match (s.arr t).contribs.find? fun c => c.mma == c0.mma && c.pass == c0.pass && c.row == c0.row with
      | none => s
      | some c =>
        let clk := (s.arr t).clk
        let s := forceStores s t c (c.left.filter fun k => decide (c.base + 130 + k ≤ clk))
        let pick := undef s (40000 + 2 * i)
        landCols s t c ((freeCols s t c).filter fun k => decide (c.base + 130 + k ≤ clk) || bit pick k) (undef s (40001 + 2 * i))) s

/-- A tile's cycle ends: a tile cycle counts, the row that may be drained next is the one it could read, and sums
land where the array has run (R2, R29, R31, R196). A held cycle ends with the tile's exposed state as it was. -/
def endCycle (t : Nat) (s : State) : State :=
  let x := s.tile t
  let x1 := { x with ticked := false, ran := false, runOn := false, tc := if x.ran then x.tc + 1 else x.tc }
  if x.ran || x.runOn then
    landArray (s.setTile t { x1 with
      arr := { x.arr with clk := x.arr.clk + 1, dueRow := (drainDue x).map fun d => d.first + d.next } }) t
  else s.setTile t x1

/-- MMA_COMPLETE: every word an operation writes holds its final value (R192). -/
def execMmaComplete (t id : Nat) (s : State) : Out :=
  let a := s.arr t
  match a.mmas.find? fun m => m.id == id with
  | none => .next s
  | some m =>
    if !m.fed || a.contribs.any fun c => c.mma == id then .next s
    else
      let s1 := s.setArr t { a with mmas := a.mmas.filter fun n => n.id != id }
      .next (match m.op with
        | some o => finishOp s1 t o none
        | none => s1)

/-! ### Weight loads (R180, R182, R285) -/

/-- An image token reaches the weight buffer. -/
def deliverOne (a : Array) (d : WDeliv) : Array :=
  let slot := match d.slot with
    | some k => some k
    | none => (a.wtls.find? fun w => tget 0 (tget ({} : WSlot) a.slots w.1).eos d.lane == 0).map (·.1)
  match slot with
  | none => a
  | some k =>
    let w := tget ({} : WSlot) a.slots k
    let n := tget 0 w.got d.lane
    let w' : WSlot := { w with
      toks := tput w.toks (4 * n + d.lane) d.val
      got := tput w.got d.lane (n + 1)
      eos := if d.eos then tput w.eos d.lane 1 else w.eos }
    { a with slots := tput a.slots k w' }

/-- Image tokens whose two cycles are over are delivered (R180). -/
def deliverWeights (s : State) (t : Nat) : State :=
  let a := s.arr t
  let due := a.deliv.filter fun d => decide (d.due ≤ s.cycle)
  if due.isEmpty then s
  else
    let a1 := due.foldl deliverOne a
    s.setArr t { a1 with deliv := a.deliv.filter fun d => !decide (d.due ≤ s.cycle) }

/-- WEIGHT_IMAGE_COMPLETE: every WLD has delivered its EOS token; the slot becomes valid or invalid
(R180, R182). -/
def execWeightImageComplete (t slot : Nat) (s : State) : Out :=
  let a := s.arr t
  let w := tget ({} : WSlot) a.slots slot
  if w.st ≠ 1 ∨ (List.range 4).any (fun j => tget 0 w.eos j == 0) = true then .next s
  else
    let f := imgFail w.toks w.got
    let w' : WSlot := if w.discard then { gen := w.gen } else { w with st := if f = 0 then 2 else 3, fail := f, op := none }
    let s1 := s.setArr t { a with
      slots := tput a.slots slot w', wtls := a.wtls.filter fun x => x.1 != slot }
    .next (match w.op with
      | some id => finishOp s1 t id none
      | none => s1)

/-! ### Self-check and registers (R202, R373, R393) -/

/-- ARRAY_CHECK: a PE row fails its self-check (R373), an uncorrectable error of the tile (R428). -/
def execArrayCheck (t _row : Nat) (s : State) : Out :=
  .next (seqFault (countError s t true) t 0x35 (s.tile t).ctx.pc 0 0 .parity)

/-- DCCLR.CLR (R202). -/
def execDcclr (t : Nat) (s : State) : Out :=
  .next (s.setArr t { s.arr t with rsvcnt := 0 })

/-- The bits of ARRMAP that can be written (R202). -/
def arrmapMask : Nat := 0x9F9F9F9F
/-- A repair that uses a spare not used before is reported, and shows in the health state (R373, R429). -/
def spareUsed (s : State) (t : Nat) (old new : W64) (ens : Nat) : State :=
  if new.toNat &&& ens &&& (old.toNat ^^^ ens) ≠ 0 ∧ (s.tile t).retired = false then
    raiseHealth (s.reportF 0x2F t 0 []) 1
  else s
/-- ARRMAP: a write while a task is dispatched is ignored (R202). DESIGN CHOICE: notes/assumptions/11.md. -/
def execArrmapWrite (t : Nat) (v : W64) (s : State) : Out :=
  if (s.tile t).task.isSome then .next s
  else
    let a := s.arr t
    .next (spareUsed (s.setArr t { a with arrmap := v &&& BitVec.ofNat 64 arrmapMask }) t a.arrmap v 0x80808080)
/-- ACCSPARE: a write while a task is dispatched is ignored (R202). DESIGN CHOICE: notes/assumptions/11.md. -/
def execAccspareWrite (t : Nat) (v : W64) (s : State) : Out :=
  if (s.tile t).task.isSome then .next s
  else
    let a := s.arr t
    .next (spareUsed (s.setArr t { a with accspare := v &&& 0xFFFF }) t a.accspare v 0x8080)

end Sys2Proof.Machine
end

