-- ==== Sys2Proof/Machine/SlotBAcc.lean ====
section
/-!
DEFINITION. Slot B: the accumulator store, weight loads, matrix operations and transform units
(R194-R197, R225, R283-R287, R296, R297).
-/
namespace Sys2Proof.Machine

/-! ### Accumulator access (R283, R284) -/

/-- The window-relative row of ldacc and stacc: an unsigned 64-bit sum (R284). -/
def accRow (a : W64) (off : BitVec 7) : Nat := (a.toNat + off.toNat) % 2 ^ 64

/-- ldacc (R284): its words are read at its completion. -/
def execLdacc (d a : Reg) (g : BitVec 2) (off : BitVec 7) (s : State) : Out :=
  taskOnly s fun s =>
    let row := accRow (s.rdS 5 a) off
    let x := s.me.arr
    if x.rowBad row then issueFault s 0x0A 0 0
    else .next (issueOp s (.ldacc d.toNat (x.phys row) g.toNat s.cur.tc))

/-- stacc (R284). -/
def execStacc (d a : Reg) (g : BitVec 2) (off : BitVec 7) (s : State) : Out :=
  taskOnly s fun s =>
    let row := accRow (s.rdS 5 a) off
    let x := s.me.arr
    if x.rowBad row then issueFault s 0x0A 0 0
    else .next (issueOp s (.stacc (x.phys row) g.toNat (s.rdV 7 d).toNat))

/-- accz (R284). -/
def execAccz (a b : Reg) (mask : BitVec 4) (s : State) : Out :=
  taskOnly s fun s =>
    let row := (s.rdS 5 a).toNat
    let n := (s.rdS 6 b).toNat
    let x := s.me.arr
    if n = 0 ∨ n > 2048 ∨ x.winBad = true ∨ row + n > 16 * x.winCount then issueFault s 0x0A 0 0
    else .next (issueOp s (.accz (x.phys row) n mask.toNat))

/-- ACC_WRITE_PERFORMED (R194, R284, R289). -/
def execAccWritePerformed (t id : Nat) (s : State) : Out :=
  let x := s.tile t
  match (if x.held then none else opOf x.ctx id) with
  | none => .next s
  | some o => .next (accWriteDo s t o)

/-- An ldacc reads its words once every stacc and accz before it has been performed, after the ldaccs issued before
it; a word that a later instruction has updated it has read before (R194, R195).
DEDUCED: notes/assumptions/72.md. -/
def ldaccDo (s : State) (t : Nat) (o : Op) (row g tc : Nat) : State :=
  let x := s.tile t
  let early := x.ctx.ops.any fun p => decide (p.ord < o.ord) && (match p.kind.rows with
    | some (r, n) => decide (r ≤ row) && decide (row < r + n)
    | none => false)
  if early then s
  else if x.arr.wordParity row (groupCols g) then seqFault s t 0x34 o.pc 0 0 .parity
  else
    let s := captureReads s t row (groupCols g) o.ord
    let (vs, a) := (List.range 32).foldl (fun (acc : List Nat × Array) l =>
      match acc.2.reads.find? fun v => v.1 == o.id && v.2.1 == l with
      | some v => (acc.1 ++ [v.2.2.toNat], acc.2)
      | none =>
        let (w, a) := acc.2.readWord tc row (32 * g + l) fun n => choose s (4096 + l) n
        (acc.1 ++ [w.toNat], a)) ([], s.arr t)
    let a1 := { a.readStage row (groupCols g) with reads := a.reads.filter fun v => v.1 != o.id }
    finishOp (s.setArr t a1) t o.id (some (ofFields 32 vs))

/-! ### Weights and passes (R183, R285-R287) -/

/-- A slot still has to be preloaded from by an issued mma, one whose fault is serviced among them (R183, R188). -/
def preloadPending (x : Tile) (k : Nat) : Bool :=
  x.arr.mmas.any fun m =>
    !m.fed && (List.range m.p).any fun q =>
      (m.slot + q) % 4 == k && (decide (q > m.pass) || (q == m.pass && !m.started))
        && !(match m.pre with
          | some ready => decide (ready ≤ x.arr.clk) && q == (if m.started then m.pass + 1 else m.pass)
          | none => false)

/-- wtl (R180, R183, R285). -/
def execWtl (slot : BitVec 2) (s : State) : Out :=
  taskOnly s fun s =>
    let x := s.me
    let k := slot.toNat
    let w := x.arr.slotOf k
    if w.st = 1 ∨ preloadPending x k = true then waitIssue s
    else
      let s1 := issueOp s (.wtl k)
      let a := s1.me.arr
      let w' : WSlot := { st := 1, gen := w.gen + 1, op := some x.nextOp }
      .next (s1.setArr s.cur.unit { a with
        slots := tput a.slots k w'
        wtls := a.wtls ++ [(k, x.nextOp)]
        wbufBad := a.wbufBad.filter (· != k) })

/-- The rows an mma touches, as first and count (R197, R287). -/
def mmaRows (row0 m p : Nat) (ds : Bool) : Nat × Nat := (row0, if ds then p * m else m)

/-- An operation joins the array's operations. DEDUCED: notes/assumptions/41.md. -/
def addMma (a : Array) (m : Mma) : Array := { a with mmas := a.mmas ++ [{ m with id := a.nextId }], nextId := a.nextId + 1 }

/-- mma (R190, R287): an operation runs and one waits, and a third waits at issue. DEDUCED: notes/assumptions/41.md. -/
def execMma (a b : Reg) (pair : BitVec 4) (pass slot : BitVec 2) (acc ds : Bool) (s : State) : Out :=
  taskOnly s fun s =>
    let x := s.me
    let row0 := (s.rdS 5 a).toNat
    let m := (s.rdS 6 b).toNat
    let p := pass.toNat + 1
    let r := mmaRows row0 m p ds
    if m = 0 ∨ m > 2048 ∨ x.arr.winBad = true ∨ r.1 + r.2 > 16 * x.arr.winCount then issueFault s 0x0A 0 0
    else if x.arr.unfed.length ≥ 2 then waitIssue s
    else
      let s1 := issueOp s .mma
      let op : Mma :=
        { id := 0, op := some x.nextOp, tag := s.cur.ta, ord := x.ord, pc := s.cur.bpc, issueT := x.arr.clk
          arr := x.arr.ctx, row0 := x.arr.phys row0, m := m, p := p, slot := slot.toNat, pair := pair.toNat
          acc := acc, ds := ds }
      .next (s1.setArr s.cur.unit (addMma s1.me.arr op))

/-! ### Transform units (R296, R297) -/

/-- The 32-bit format that xcvt reads for a narrow format (R296). -/
def xcvtSrc (f : Nat) : Nat := if fmtInt f ∨ f = 13 then 10 else 1

/-- A narrow value as a code of the wide format: exact, no draw (R51, R297). -/
def xexpLane (f x : Nat) : Nat :=
  if f = 13 then wrapInt 32 (valInt (decodeVal 13 x))
  else if fmtInt f then wrapInt 32 (valInt (decodeVal f x))
  else (roundFloat 1 { rnd := 0 } false false (decodeVal f x)).code

def execXexp (f : Fmt) (d a : Reg) (p : BitVec 4) (s : State) : Out :=
  taskOnly s fun s =>
    let w := fmtWidth f.toNat
    let v := (s.rdV 5 a).toNat
    let r := vecOf fun l => xexpLane f.toNat ((v >>> (w * (32 * p.toNat + l))) % 2 ^ w)
    .next (s.issueFixed (.v d.toNat) r.toNat 6)

/-- xtrn: a transpose of R × C elements (R297). -/
def execXtrn (w : XtrnW) (r : BitVec 3) (d a : Reg) (s : State) : Out :=
  taskOnly s fun s =>
    let n := xtrnBits w
    let rows := 2 ^ r.toNat
    let cols := 1024 / (n * rows)
    let v := (s.rdV 5 a).toNat
    let out := (List.range (rows * cols)).map fun k =>
      -- element k of d is j × R + i
      let i := k % rows
      let j := k / rows
      (v >>> (n * (i * cols + j))) % 2 ^ n
    .next (s.issueFixed (.v d.toNat) (ofFields n out) 10)

/-- xcvt: rounds under VMODE; every other bit of d keeps its value (R258, R259, R297). -/
def execXcvt (f : Fmt) (d a : Reg) (p : BitVec 4) (s : State) : Out :=
  taskOnly s fun s =>
    let m := vmode s
    let w := fmtWidth f.toNat
    let v := s.rdV 5 a
    let rs : List Rnd := tabulate 32 fun l =>
      if f = 13 then toT2 (decodeVal 10 (laneAt v l))
      else convert (xcvtSrc f.toNat) f.toNat (m.rmode (drawOf s l)) m.sat m.flush (laneAt v l)
    let lo := 32 * p.toNat
    let new := (List.range 32).foldl (fun acc l => setField w acc (lo + l) ((rs.map (·.code)).getD l 0)) (s.rdV 6 d).toNat
    let all := 2 ^ 32 - 1
    let tr := if m.sv = 2 then trapOf all rs else none
    let rest : Fl := match tr with
      | some (_, t) => flagsOf (all &&& (t ^^^ all)) rs
      | none => {}
    let s1 := s.issueFixed (.v d.toNat) new 4 (flagsOf all rs) tr rest w lo
    .next (if m.sr && !fmtInt f.toNat && f != 13 then stepGens s1 else s1)

end Sys2Proof.Machine
end

