-- ==== Sys2Proof/Machine/Access.lean ====
section
/-!
DEFINITION. Translated accesses of a tile's own units, and what waits for what at a sequencer's issue
(R62, R63, R71, R72, R74, R232, R273, R278, R281, R282, R331).
-/
namespace Sys2Proof.Machine

/-- The requester number of a tile's unit in its miss file: kind 2 accesses, 3 issue, 4 fetch, 5 weight
blocks, 6 the decoder. -/
def tileReq (kind t n : Nat) : Nat := reqId kind (t * 2 ^ 20 + n % 2 ^ 20)

/-- Translate for a task of a tile. -/
def tilePieces (s : State) (t kind n va len need : Nat) (reg : Bool) : VRes × State :=
  let x := s.xu t
  vaPieces t x.asid x.root x.en (tileReq kind t n) need reg (len / 2 ^ 18 + 2) va len s

/-- A read for a tile's task of memory that is not a register page: bytes, a wait, or a cause with its
address. `own` is the port of a bank of the tile that carries it (R100). -/
def tileRead (s : State) (t : Nat) (a : AgentId) (kind n va len need unit : Nat) (own : Nat := 5) :
    Except (Option (Nat × Nat)) (List Byte) × State :=
  match tilePieces s t kind n va len need false with
  | (.wait, s) => (.error none, s)
  | (.fail c addr, s) => (.error (some (c, addr)), s)
  | (.ok ps, s) => match lineAccess s (portTo t own) (tileReq kind t n) 256 (some t) false ps (lineRead a unit) with
    | (none, s) => (.error none, s)
    | (some d, s) => (if d.any (·.2) then .error (some (0x14, va)) else .ok (d.map (·.1)), s)

/-! ### Waits at issue -/

/-- Kinds of R281 of an operation: 1 ld, 2 st, 4 eng, 8 col. -/
def OpKind.kinds : OpKind → Nat
  | .ld _ _ _ => 1
  | .ldv _ _ _ _ => 1
  | .st _ _ _ => 2
  | .stv _ _ _ => 2
  | .amo _ _ _ _ _ _ _ _ => 3
  | .cas _ _ _ _ _ _ _ => 3
  | _ => 0

/-- Bytes an operation accesses: first virtual address and count. -/
def OpKind.span : OpKind → Option (Nat × Nat)
  | .ld ty _ a => some (a, match ty with
    | .n8 => 1
    | .i8 => 1
    | .n16 => 2
    | .i16 => 2
    | .n32 => 4
    | .i32 => 4
    | .x64 => 8)
  | .st n a _ => some (a, n)
  | .ldv _ a _ _ => some (a, 128)
  | .stv a _ _ => some (a, 128)
  | .amo _ _ w _ _ _ a _ => some (a, if w then 8 else 4)
  | .cas w _ _ _ a _ _ => some (a, if w then 8 else 4)
  | _ => none

/-- DEDUCED: notes/assumptions/38.md. -/
def overlap (a b : Nat × Nat) : Bool := decide (a.1 < b.1 + b.2) && decide (b.1 < a.1 + a.2)

/-- A fence issued earlier and not complete covers one of these kinds (R282). -/
def fenceBlocks (c : Ctx) (kinds : Nat) : Bool :=
  c.ops.any fun o => match o.kind with
    | .fence k _ => decide ((k &&& kinds) ≠ 0)
    | _ => false

/-- A fence with col, whose streams' writes a later release covers (R281, R339). -/
def OpKind.colFence : OpKind → Bool
  | .fence k _ => bit k 3
  | _ => false

/-- Ordering bits of an atomic: 1 acquire, 2 release, 3 both (R279). -/
def OpKind.order : OpKind → Nat
  | .amo _ _ _ o _ _ _ _ => o
  | .cas _ o _ _ _ _ _ => o
  | _ => 0

/-- An operation is an acquire that later accesses wait for: a fence with kind ld is one for the reads before it
(R337, R338). -/
def OpKind.acquires : OpKind → Bool
  | .tkw _ _ _ => true
  | .fence k _ => bit k 0
  | k => k.order == 1 || k.order == 3

/-- What a release still waits for: an access issued earlier that has not been performed, or a fence with col
issued earlier that still waits for the task's streams (R338, R339). -/
def accessPending (c : Ctx) : Bool := c.ops.any fun o => o.kind.kinds != 0 || o.kind.colFence

/-- A store issued earlier to these bytes has not been performed. -/
def storePending (c : Ctx) (span : Nat × Nat) : Bool :=
  c.ops.any fun o => decide ((o.kind.kinds &&& 2) ≠ 0) && (match o.kind.span with
    | some x => overlap x span
    | none => false)

/-- The running task of the acting tile. -/
def State.myTask (s : State) : Nat := (s.me.task).getD 0
def State.mine (s : State) : Task := s.task s.myTask

/-- An instruction that a retry-eligible task may not use raises RETRY_OP (R369). -/
def notRetry (s : State) (f : State → Out) : Out :=
  if s.me.task.isSome && s.mine.retry then issueFault s 0x0F 0 0 else f s

/-- A tagged memory operation of kinds `k` is issued unless a fence holds it back (R282). -/
def issueAccess (s : State) (k : OpKind) : Out :=
  if fenceBlocks s.ctx k.kinds then waitIssue s else .next (issueOp s k)

end Sys2Proof.Machine
end

