-- ==== Sys2Proof/Machine/SlotBCtl.lean ====
section
/-!
DEFINITION. Slot B: firing the collar, configuration, engine commands, tokens, the decoder, barriers
and supersteps, and leaving the bundle stream (R110-R113, R288-R305, R442).
-/
namespace Sys2Proof.Machine

/-- nop of slot B (R220). -/
def execNopB (s : State) : Out := .next s

/-! ### The collar (R288-R292) -/

/-- The region of the acting tile, if the acting task owns it. -/
def myRegion (s : State) (r : BitVec 2) : Option Region :=
  let g := (s.collar s.cur.unit).region r.toNat
  if g.task.isSome && g.task == s.me.task then some g else none

/-- The source elements a start goes to (R288). -/
def startElems (s : State) (rgn : Region) (slot : Nat) : List Nat :=
  let u := s.cur.unit
  ((slotElems (s.collar u) rgn slot).filter fun (e, p) =>
    let y := (s.elemOf u e).plane p
    let op := y.opcode
    op == 0x02 || op == 0x05 || ((op == 0x3E || op == 0x40 || op == 0x3F || op == 0x41)
      && !descTrig s u y && !(op == 0x3E && descNode s u y))).map (·.1)

/-- A start would be an element's second held one (R288). -/
def startFull (s : State) (slot : Nat) (es : List Nat) : Bool :=
  let u := s.cur.unit
  es.any fun e =>
    let x := s.elemOf u e
    let st := (x.plane ((x.curOf slot).getD 0)).bank.st
    let coming := ((s.collar u).starts.filter fun a => a.elem == e && a.slot == slot).length
    decide (coming + (if st.held.isSome then 1 else 0) + (if st.on then 1 else 0) ≥ 2)

/-- The rows a drain register names (R288). -/
def drainRows (b : W64) : Nat × Nat := (bits b.toNat 10 0, bits b.toNat 26 16 + 1)

/-- Elements fire ARR needs in its region (R288). -/
def arrOk (c : Collar) (r : Nat) : Bool :=
  (List.range 8).all fun j => regionOf c (feedElem j) == some r && regionOf c (drnElem j) == some r

/-- fire (R288, R289). -/
def execFire (rgn cslot : BitVec 2) (arr src dr dom : Bool) (b : Reg) (s : State) : Out :=
  taskOnly s fun s =>
    match myRegion s rgn with
    | none => issueFault s 0x26 0 0
    | some g =>
      let u := s.cur.unit
      let c := s.collar u
      let slot := cslot.toNat
      let rows := drainRows (s.rdS 5 b)
      let a := s.me.arr
      let es := if src then startElems s g slot else []
      let ctx := if arr then some (rgn.toNat, slot) else a.ctx
      if !g.armed.contains slot || (arr && !arrOk c rgn.toNat) || (dr && ctx.isNone) then issueFault s 0x26 0 0
      else if dr && (a.winBad || decide (rows.1 + rows.2 > 16 * a.winCount)) then issueFault s 0x0A 0 0
      else if (dr && decide (a.drains.length ≥ 2)) || startFull s slot es || (src && fenceBlocks s.ctx 8) then
        waitIssue s
      else
        let x := s.me
        let d := boolNat dom
        let starts := es.map fun e => ({ elem := e, slot := slot, dom := d, at' := s.cycle + 2 } : Start)
        let s1 := s.setCollar u { c with starts := c.starts ++ starts }
        let dn : Drain := { id := a.nextId, ord := x.ord, first := a.phys rows.1, cnt := rows.2, dom := dom, arr := ctx }
        let a1 := if dr then { a with drains := a.drains ++ [dn], nextId := a.nextId + 1 } else a
        .next (s1.setTile u { s1.me with ord := x.ord + 1, arr := { a1 with ctx := ctx } })

/-- cfgs (R127, R291). -/
def execCfgs (rgn cslot plane : BitVec 2) (img : BitVec 5) (s : State) : Out :=
  taskOnly s fun s =>
    match myRegion s rgn with
    | none => issueFault s 0x26 0 0
    | some g =>
      let x := s.me
      let u := s.cur.unit
      let s1 := issueOp s .cfg
      let c := s1.collar u
      let l : CfgLoad :=
        { rgn := rgn.toNat, slot := cslot.toNat, plane := plane.toNat, img := img.toNat
          op := some x.nextOp, pc := s.cur.bpc, task := s.myTask }
      let g1 := { g with loading := if g.loading.contains cslot.toNat then g.loading
                                    else g.loading ++ [cslot.toNat] }
      .next (s1.setCollar u { c.setRegion rgn.toNat g1 with loads := c.loads ++ [l] })

/-- cfgw and cfgp (R130-R132, R292). DEDUCED: notes/assumptions/67.md. -/
def switchIssue (part : Bool) (rgn cslot : BitVec 2) (s : State) : Out :=
  taskOnly s fun s =>
    match myRegion s rgn with
    | none => issueFault s 0x26 0 0
    | some g =>
      let slot := cslot.toNat
      let u := s.cur.unit
      if g.switches.any fun w => w.slot == slot then waitIssue s
      else if !thas g.staged slot then issueFault s 0x26 0 0
      else
        let (p, partial') := tget (0, false) g.staged slot
        if partial' ≠ part then issueFault s 0x26 0 0
        else
          let x := s.me
          let s1 := issueOp s .cfg
          let c := s1.collar u
          let w : Switch :=
            { slot := slot, to' := p, partial' := part, op := some x.nextOp
              arrive := s.cycle + 2 }
          .next (s1.setCollar u ((c.takeStaged g slot p).setRegion rgn.toNat { g with switches := g.switches ++ [w] }))

def execCfgw (rgn cslot : BitVec 2) (s : State) : Out := switchIssue false rgn cslot s
def execCfgp (rgn cslot : BitVec 2) (s : State) : Out := switchIssue true rgn cslot s

/-! ### Engine commands and tokens (R83-R85, R92, R293, R294) -/

/-- The block an instruction hands over: its TKP is the instruction's tk (R293). -/
def withTk (b : List Byte) (tk : Nat) : List Byte := lset b 2 (BitVec.ofNat 8 tk)

/-- A command block is read and accepted at issue, once every acquire before it is complete (R84, R85, R92, R293,
R338). The faults are looked for in this order: a misaligned block, a token that is PENDING, a failure to read
the block. DESIGN CHOICE: notes/assumptions/104.md. -/
def commandIssue (a : Reg) (tk : BitVec 6) (off : BitVec 9) (engine : List Byte → Eng) (opcs : List Nat)
    (s : State) : Out :=
  taskOnly s fun s =>
    let va := addrOf (s.rdS 5 a) (off.toInt * 64)
    let n := s.myTask
    if va % 64 ≠ 0 then issueFault s 0x16 0 0
    else if (s.token n tk.toNat).st = 1 then issueFault s 0x0D 0 tk.toNat
    else if fenceBlocks s.ctx 4 || storePending s.ctx (va, 64) || s.ctx.ops.any (·.kind.acquires) then waitIssue s
    else match tileRead s s.cur.unit (.task n) 3 0 va 64 pRD 4 4 with
      | (.error none, s) => waitIssue s
      | (.error (some (c, addr)), s) => issueFault s c addr 0
      | (.ok b0, s1) =>
        let b := withTk b0 tk.toNat
        let e := engine b
        if storePending s.ctx (blk b 8 8, 128) || !engFree s e then waitIssue s
        else
          let x := s1.xu s.cur.unit
          let read := match (tilePieces s1 s.cur.unit 3 0 va 64 pRD false).1 with
            | .ok ps => ps.map fun p => (p.1, b0.take p.2)
            | _ => []
          .next (acceptCmd s1 e (some n) s.cur.unit x.asid x.root b opcs none none read)

/-- The engine of a copy: the tile's, or for a link copy the link engine LSEL names (R83, R293). -/
def copyEngine (s : State) (b : List Byte) : Eng :=
  if blk b 0 1 = 2 ∨ blk b 0 1 = 3 then .link (s.cur.unit / 16) (blk b 7 1 % 2) else .tile s.cur.unit

def execCopy (a : Reg) (tk : BitVec 6) (off : BitVec 9) (s : State) : Out :=
  commandIssue a tk off (copyEngine s) [1, 2, 3] s
def execNetr (a : Reg) (tk : BitVec 6) (off : BitVec 9) (s : State) : Out :=
  commandIssue a tk off (fun _ => .eth) [4] s
def execNetw (a : Reg) (tk : BitVec 6) (off : BitVec 9) (s : State) : Out :=
  commandIssue a tk off (fun _ => .eth) [5] s
def execStgr (a : Reg) (tk : BitVec 6) (off : BitVec 9) (s : State) : Out :=
  commandIssue a tk off (fun _ => .eth) [6] s
def execStgw (a : Reg) (tk : BitVec 6) (off : BitVec 9) (s : State) : Out :=
  commandIssue a tk off (fun _ => .eth) [7] s

/-- A token is read: DONE is an acquire of the command's writes, and with CLR a token that is DONE or
FAILED becomes FREE (R294, R341). -/
def readToken (s : State) (n tk : Nat) (clr : Bool) : W64 × State :=
  let t := s.token n tk
  let s1 := if t.st = 2 then s.addFloor (.task n) t.cov else s
  (t.word, if clr && decide (t.st ≥ 2) then s1.setToken n tk {} else s1)

/-- tkw: it completes when the token is not PENDING (R294). -/
def execTkw (d : Reg) (tk : BitVec 6) (clr : Bool) (s : State) : Out :=
  taskOnly s fun s => .next (issueOp s (.tkw d.toNat tk.toNat clr))
/-- tkq (R222, R294). -/
def execTkq (d : Reg) (tk : BitVec 6) (clr : Bool) (s : State) : Out :=
  taskOnly s fun s =>
    let (w, s1) := readToken s s.myTask tk.toNat clr
    .next (s1.issueFixed (.s d.toNat) w.toNat 3)

/-! ### rot (R112, R113, R295) -/

/-- Pieces of two equal ranges, cut where either crosses into a new piece. -/
def zipPieces : Nat → List (Nat × Nat) → List (Nat × Nat) → List (Nat × Nat × Nat)
  | 0, _, _ => []
  | fuel + 1, (a, n) :: as, (b, m) :: bs =>
    let k := min n m
    (a, b, k) :: zipPieces fuel (if n = k then as else (a + k, n - k) :: as)
      (if m = k then bs else (b + k, m - k) :: bs)
  | _, _, _ => []

/-- Every piece lies in one bank of the slice of a tile (R112). -/
def oneBank (t : Nat) (ps : List (Nat × Nat)) : Bool :=
  match ps with
  | [] => false
  | (p, _) :: _ =>
    ps.all fun (pa, n) => match place pa, place (pa + n - 1), bankAt p with
      | .spm u _, .spm _ _, some b => u == t && bankAt pa == some b && bankAt (pa + n - 1) == some b
      | _, _, _ => false

/-- rot (R112, R113, R295). A second one in a phase is a mismatch at the step. -/
def execRot (d a b : Reg) (s : State) : Out :=
  taskOnly s fun s => notRetry s fun s =>
    let len := (s.rdS 7 d).toNat
    let src := (s.rdS 5 a).toNat
    let dst := (s.rdS 6 b).toNat
    let k := s.mine
    let t := s.cur.unit
    if k.stepGroup.isNone ∨ len % 64 ≠ 0 ∨ len = 0 ∨ len > 0x100000 then issueFault s 0x0E 0 0
    else if fenceBlocks s.ctx 4 || storePending s.ctx (src, len) then waitIssue s
    else match tilePieces s t 3 1 src len pRD false with
      | (.wait, s) => waitIssue s
      | (.fail c addr, s) => issueFault s c addr 0
      | (.ok ps, s) => match tilePieces s t 3 2 dst len pWR false with
        | (.wait, s) => waitIssue s
        | (.fail c addr, s) => issueFault s c addr 0
        | (.ok qs, s) =>
          if !oneBank t ps || !oneBank t qs then issueFault s 0x0E 0 0
          else if k.rots ≠ [] then .next (s.setTask s.myTask { k with rotTwice := true })
          else .next (s.setTask s.myTask { k with rots := zipPieces 32 ps qs })

/-! ### The decoder (R298, R299) -/

/-- What the decoder awaits of translation and at banks is dropped (R73). -/
def dropDecoder (s : State) (t : Nat) : State :=
  let gone (r : Nat) : Bool := r == tileReq 6 t 0 || r == tileReq 6 t 1
  dropBanks (dropReqs s t gone) gone

/-- dcfg (R298). -/
def execDcfg (a b : Reg) (rmax : BitVec 6) (s : State) : Out :=
  taskOnly s fun s =>
    let start := s.rdS 5 a
    if start.toNat % 8 ≠ 0 then issueFault s 0x13 start.toNat 0
    else
      -- what the stream before it awaits is awaited no more (R73)
      let s := dropDecoder s s.cur.unit
      .next (s.setTile s.cur.unit { s.me with
        dec := { on := true, addr := start, left := (s.rdS 6 b).toNat, rmax := rmax.toNat } })

/-- The records of a block's payload: a lane mask, then a word for each set bit (R298). -/
def decodeRecords : Nat → List Byte → List VReg
  | 0, _ => []
  | n + 1, b =>
    let mask := natOfBytes (b.take 4)
    let k := onesOf 32 mask
    let v := ((List.range 32).foldl (fun (acc : List Nat × Nat) l =>
      if bit mask l then (acc.1 ++ [natOfBytes ((b.drop (4 + 4 * acc.2)).take 4)], acc.2 + 1)
      else (acc.1 ++ [0], acc.2)) ([], 0)).1
    ofLanes v :: decodeRecords n (b.drop (4 + 4 * k))
/-- The payload's length by its records. -/
def recordsLen : Nat → List Byte → Nat
  | 0, _ => 0
  | n + 1, b =>
    let k := 4 + 4 * onesOf 32 (natOfBytes (b.take 4))
    k + recordsLen n (b.drop k)

/-- DECODER_FILL: the FIFO takes its next vector (R299). -/
def execDecoderFill (t : Nat) (s : State) : Out :=
  let x := s.tile t
  let d := x.dec
  let put (s : State) (d : Decoder) : State := s.setTile t { s.tile t with dec := d }
  if !d.on || d.bad.isSome || decide (d.fifo.length ≥ 16) then .next s
  else match d.block with
    | v :: rest => .next (put s { d with fifo := d.fifo ++ [v], block := rest })
    | [] =>
      if d.left = 0 then .next s
      else if d.left < 8 then .next (put s { d with bad := some (0x0C, d.addr.toNat) })
      else match tileRead s t (.task (x.task.getD 0)) 6 0 d.addr.toNat 8 pRD 4 with
        | (.error none, s) => .next s
        | (.error (some f), s) => .next (put s { d with bad := some f })
        | (.ok h, s1) =>
          let w := natOfBytes h
          let nv := bits w 5 0 + 1
          let plen := bits w 31 16
          let size := (8 + plen + 7) / 8 * 8
          let ratio := decide (nv * 128 > d.rmax * (8 + plen)) || bits w 15 6 != 0 || bits w 63 32 != 0
            || decide (size > d.left)
          if ratio then .next (put s1 { d with bad := some (0x0C, d.addr.toNat) })
          else match tileRead s1 t (.task (x.task.getD 0)) 6 1 (d.addr.toNat + 8) plen pRD 4 with
            | (.error none, s) => .next s
            | (.error (some f), s) => .next (put s { d with bad := some f })
            | (.ok b, s2) =>
              if recordsLen nv b ≠ plen then .next (put s2 { d with bad := some (0x0C, d.addr.toNat) })
              else .next (put s2 { d with
                block := decodeRecords nv b, addr := d.addr + BitVec.ofNat 64 size, left := d.left - size })

/-- dpop (R299): a bad block or a failed read faults at the dpop that needs it, and is read anew for the
next. -/
def execDpop (d : Reg) (s : State) : Out :=
  taskOnly s fun s =>
    let x := s.me
    let k := x.dec
    let put (k : Decoder) : State := s.setTile s.cur.unit { x with dec := k }
    match k.fifo with
    | v :: rest => .next ((put { k with fifo := rest }).issueFixed (.v d.toNat) v.toNat 3)
    | [] =>
      match k.bad with
      | some (c, addr) => issueFault (put { k with bad := none }) c (if c = 0x0C then 0 else addr) 0
      | none =>
        if k.on && (decide (k.left > 0) || !k.block.isEmpty) then waitIssue s
        else .next (s.issueFixed (.v d.toNat) 0 3)

/-! ### Barriers and supersteps (R110-R113, R300, R301, R442) -/

/-- A barrier's number: home tile and id (R300). -/
def barKey (home : BitVec 6) (id : Byte) : Nat := home.toNat * 256 + id.toNat
def State.bar (s : State) (b : Nat) : Barrier := tget {} s.barriers b
/-- A membership set that empties has no phase (R301). -/
def State.setBar (s : State) (b : Nat) (x : Barrier) : State :=
  { s with barriers := tput s.barriers b (if x.members.isEmpty then {} else x) }

/-- bjoin (R301). -/
def execBjoin (home : BitVec 6) (id : Byte) (step : Bool) (s : State) : Out :=
  taskOnly s fun s => notRetry s fun s =>
    let b := barKey home id
    let n := s.myTask
    let k := s.mine
    let x := s.bar b
    if x.members.contains n ∨ k.barriers.length ≥ 16 ∨ (step = true ∧ k.stepGroup.isSome)
        ∨ (x.members ≠ [] ∧ x.step ≠ step) then issueFault s 0x05 0 0
    else
      let k' := { k with barriers := k.barriers ++ [b], stepGroup := if step then some b else k.stepGroup
                         countedCmds := if step then [] else k.countedCmds
                         rots := if step then [] else k.rots
                         rotTwice := if step then false else k.rotTwice
                         stepFrom := if step then s.mem.nextId else k.stepFrom }
      .next ((s.setTask n k').setBar b { x with members := x.members ++ [n], step := step })

/-- What a task releases into a phase now (R339, R343). -/
def covOf (s : State) (n : Nat) : Cov := { task := n, tile := (s.task n).tile, ws := coveredNow s (.task n) }

/-- bleave: a release, made when the task's earlier accesses have been performed (R111, R301, R338, R343). -/
def execBleave (home : BitVec 6) (id : Byte) (s : State) : Out :=
  taskOnly s fun s =>
    let b := barKey home id
    let n := s.myTask
    let k := s.mine
    let x := s.bar b
    if !x.members.contains n then issueFault s 0x05 0 0
    else if accessPending s.ctx then waitIssue s
    else
      let mine := k.stepGroup == some b
      let k' := { k with
        barriers := k.barriers.erase b, arrived := tdel k.arrived b
        stepGroup := if mine then none else k.stepGroup
        countedCmds := if mine then [] else k.countedCmds
        rots := if mine then [] else k.rots
        rotTwice := if mine then false else k.rotTwice }
      .next ((s.setTask n k').setBar b
        { x with members := x.members.erase n, arrived := x.arrived.erase n
                 covs := x.covs ++ [covOf s n] })

/-- A task arrives in a barrier's current phase, a release (R301, R342). -/
def arriveAt (s : State) (n b : Nat) : State :=
  let x := s.bar b
  let k := s.task n
  (s.setTask n { k with arrived := tput k.arrived b x.phase }).setBar b
    { x with arrived := x.arrived ++ [n], covs := x.covs ++ [covOf s n] }

/-- barv: a release, made when the task's earlier accesses have been performed (R301). -/
def execBarv (home : BitVec 6) (id : Byte) (s : State) : Out :=
  taskOnly s fun s =>
    let b := barKey home id
    let n := s.myTask
    let x := s.bar b
    if !x.members.contains n || x.arrived.contains n || x.step then issueFault s 0x05 0 0
    else if accessPending s.ctx then waitIssue s
    else .next (arriveAt s n b)

/-- A member acquires what a completed phase released to it (R301, R339, R343). -/
def phaseAcquire (s : State) (n : Nat) (x : Barrier) : State :=
  x.doneCov.foldl (fun s r => if r.1 = n then s.addFloor (.task n) r.2 else s) s

/-- bwait: an acquire, once the phase the task last arrived in is complete; a task that has arrived in none pairs with
nothing (R301, R339). -/
def execBwait (home : BitVec 6) (id : Byte) (s : State) : Out :=
  taskOnly s fun s =>
    let b := barKey home id
    let n := s.myTask
    let x := s.bar b
    let k := s.mine
    if !x.members.contains n then issueFault s 0x05 0 0
    else if !thas k.arrived b then .next s
    else if tget 0 k.arrived b ≥ x.phase then waitIssue s
    else .next (phaseAcquire s n x)

/-- The rots of a step group disagree, or a member has issued two (R113). -/
def rotMismatch (s : State) (x : Barrier) : Bool :=
  let lens := x.members.map fun n => natSum ((s.task n).rots.map fun r => r.2.2)
  (lens.any fun l => l != lens.headD 0) || x.members.any fun n => (s.task n).rotTwice

/-- step: the task arrives, and waits until the step completes on every member (R111, R113). -/
def execStep (s : State) : Out :=
  taskOnly s fun s => notRetry s fun s =>
    let n := s.myTask
    let k := s.mine
    match k.stepGroup with
    | none => issueFault s 0x0E 0 0
    | some b =>
      let x := s.bar b
      if !thas k.arrived b then
        if accessPending s.ctx then waitIssue s else waitIssue (arriveAt s n b)
      else if tget 0 k.arrived b < x.phase then
        .next (phaseAcquire (s.setTask n { k with arrived := tdel k.arrived b }) n x)
      else if x.arrived.length = x.members.length ∧ rotMismatch s x = true then issueFault s 0x0E 0 0
      else waitIssue s

/-- The tiles of a barrier's members, as a mask (R336). -/
def memberTiles (s : State) (x : Barrier) : Nat := x.members.foldl (fun m n => m ||| 2 ^ (s.task n).tile) 0

/-- What each member of a phase that completes now acquires: what was released by the tasks that its scope of the
membership set holds, under the masks and on the tiles of this moment (R301, R336, R343). -/
def phaseCovers (s : State) (x : Barrier) : List (Nat × List WId) :=
  let tiles := memberTiles s x
  x.members.map fun n =>
    let sc := memberScope s n tiles
    (n, (x.covs.map fun c =>
      let at' := if x.members.contains c.task then (s.task c.task).tile else c.tile
      if holdsAt s (some at') sc (.task c.task) then c.ws else []).flatten.eraseDups)

/-- A phase is over: a new one opens, and its members may read what was released (R301, R336). -/
def nextPhase (s : State) (b : Nat) : State :=
  let x := s.bar b
  s.setBar b { x with phase := x.phase + 1, arrived := [], covs := [], doneCov := phaseCovers s x }

/-- BARRIER_PHASE_COMPLETE (R301). -/
def execBarrierPhaseComplete (b : Nat) (s : State) : Out :=
  let x := s.bar b
  if x.step || x.members.isEmpty || !x.members.all x.arrived.contains then .next s
  else .next (nextPhase s b)

/-- Members of a step group in ring order: ascending tile number (R110). Members of one tile stand in the order in which
they joined. DESIGN CHOICE: notes/assumptions/104.md. -/
def ringOf (s : State) (x : Barrier) : List Nat :=
  (List.range 64).foldl (fun acc t => acc ++ x.members.filter fun n => (s.task n).tile == t) []

/-- Every member's send block goes to its successor's receive block, all read first (R112); poisoned words move as they
stand. DESIGN CHOICE: notes/assumptions/92.md. -/
def rotateAll (s : State) (x : Barrier) : State :=
  let ring := ringOf s x
  let reads := ring.foldl (fun (acc : List (Nat × List Byte) × State) n =>
    let (b, s) := readPieces (.task n) 4 ((acc.2.task n).rots.map fun r => (r.1, r.2.2)) acc.2
    (acc.1 ++ [(n, b)], s)) ([], s)
  let k := ring.length
  (List.range k).foldl (fun s i =>
    match reads.1[i]?, ring[(i + 1) % k]? with
    | some (n, b), some m =>
      ((s.task m).rots.foldl (fun (acc : State × Nat) r =>
        (physWrite acc.1 (.task n) r.2.1 ((b.drop acc.2).take r.2.2) 1, acc.2 + r.2.2)) (s, 0)).1
    | _, _ => s) reads.2

/-- Another tile's slice. -/
def remoteSlice (t pa : Nat) : Bool :=
  match place pa with
  | .spm u _ => u != t
  | _ => false

/-- A counted operation of a member still runs: a COPY command, or an AG store to another tile's slice that is
buffered (R111, R387). -/
def countedPending (s : State) (n : Nat) : Bool :=
  let k := s.task n
  (k.countedCmds.any fun id => s.engines.any fun (_, e) => e.q.any fun c => c.id == id)
  || ((s.collar k.tile).fly.any fun w => taskOf s k.tile w.elem == some n && remoteSlice k.tile w.pa)
  || (s.collar k.tile).elems.any fun (e, x) =>
      taskOf s k.tile e == some n && x.planes.any fun (_, y) => y.lines.any fun l => remoteSlice k.tile l.pa

/-- What the AG streams of a task have written (R339, R340). -/
def streamsWritten (s : State) (n : Nat) : List WId :=
  (s.mem.ags.map fun (a, m) => match a with
    | .stream _ => if m.task = some n then m.written else []
    | _ => []).flatten

/-- What the counted AG stores and COPY commands of a member have written in its communication phase (R111, R343). -/
def countedCov (s : State) (n : Nat) : List WId :=
  let k := s.task n
  ((streamsWritten s n).filter fun w => decide (k.stepFrom ≤ w.2) && remoteSlice k.tile w.1)
  ++ (s.mem.ags.map fun (a, m) => match a with
    | .cmd id => if k.countedCmds.contains id then m.written else []
    | _ => []).flatten

/-- The port of rot, with the least cycles to another die (R100, R104). -/
def rotWay (s : State) (n : Nat) (b : Nat × Nat) : Nat × Nat := (6, dieLat ((s.task n).tile / 16) b)

/-- The banks of a step's rots grant their lines, by the port of rot (R100, R112). -/
def rotBanks (s : State) (x : Barrier) : Bool × State :=
  askAll s 256 (x.members.map fun n =>
    let rs := (s.task n).rots
    [(rotWay s n, reqId 13 (2 * n), rs.map fun r => (r.1, r.2.2)),
     (rotWay s n, reqId 13 (2 * n + 1), rs.map fun r => (r.2.1, r.2.2))]).flatten

/-- STEP_COMPLETE: every member has issued step, and every counted operation and rot is complete
(R111-R113). -/
def execStepComplete (b : Nat) (s : State) : Out :=
  let x := s.bar b
  if !x.step || x.members.isEmpty || !x.members.all x.arrived.contains || rotMismatch s x
      || x.members.any (countedPending s) then .next s
  else match rotBanks s x with
    | (false, s) => .next s
    | (true, s) =>
      let s1 := rotateAll s x
      -- what rot wrote is part of what the step releases
      let covs := x.covs ++ x.members.map fun n =>
        { covOf s1 n with ws := (s1.ag (.task n)).floor ++ countedCov s1 n }
      let s2 := x.members.foldl (fun s n =>
        s.setTask n { s.task n with rots := [], rotTwice := false, countedCmds := [], stepFrom := s1.mem.nextId }) s1
      .next (nextPhase (s2.setBar b { x with covs := covs }) b)

/-! ### Leaving the bundle stream (R302, R303, R305) -/

/-- yield: slot A takes effect, and the task is parked (R302). -/
def execYield (a : Reg) (any : Bool) (s : State) : Out :=
  taskOnly s fun s =>
    .next (s.setTile s.cur.unit { s.me with parkWait := some (.tokens (s.rdS 5 a) any) })

/-- done: the task issues nothing more (R303). -/
def execDone (s : State) : Out :=
  taskOnly s fun s => .next (s.setTile s.cur.unit { s.me with doneWait := true })

/-- sys: slot A takes effect and the task stops with SYS_CALL, its record naming the service (R305,
R374). Firmware finds the argument register by the bundle. -/
def execSys (_d : Reg) (svc : BitVec 20) (s : State) : Out :=
  if s.cur.shadow then issueFault s 0x06 0 svc.toNat
  else
    -- the bundle issues in this cycle: the hold begins with the next (R382)
    .next (seqFault (s.setTile s.cur.unit { s.me with ticked := false }) s.cur.unit 0x06 s.cur.bpc 0 svc.toNat .trap)

end Sys2Proof.Machine
end

