-- ==== Sys2Proof/Machine/Weight.lean ====
section
/-!
DEFINITION. Weight-driven execution (R304, R307-R325).
-/
namespace Sys2Proof.Machine

def setWd (s : State) (t : Nat) (w : Wd) : State := s.setTile t { s.tile t with wd := w }

/-- wdrive (R304, R307). -/
def execWdrive (a : Reg) (s : State) : Out :=
  taskOnly s fun s =>
    let x := s.me
    let t := s.cur.unit
    let va := (s.rdS 5 a).toNat
    match x.arr.ctx with
    | none => if va % 256 ≠ 0 then issueFault s 0x13 va 0 else issueFault s 0x26 0 0
    | some (_, slot) =>
      let gated := (List.range 4).any fun j =>
        let e := (s.collar t).elem (wldElem j)
        match e.curOf slot with
        | some p => (e.plane p).opcode == 0x43 && (e.plane p).eop.pg
        | none => false
      if va % 256 ≠ 0 then issueFault s 0x13 va 0
      else if gated then issueFault s 0x26 0 0
      else if (List.range 4).any fun k => (x.arr.slotOf k).st == 1 then waitIssue s
      else .next (setWd s t { on := true, pc := s.cur.bpc, wpc := va })

/-! ### Reading ahead (R309-R316) -/

/-- A link's target (R310). -/
def linkOf (addr : Nat) (l : W64) : Nat := wrapInt 64 ((addr : Int) + l.toInt * 256)

/-- The instruction a block's header holds. -/
def WBlk.instr (b : WBlk) : Option Instr :=
  match decodeW b.hdr with
  | .ok i _ => some i
  | .bad _ => none

/-- The link targets a block uses (R310, R313). -/
def wLinks (addr : Nat) : Instr → List Nat
  | .wNop l => [linkOf addr l]
  | .wMma _ _ _ _ _ _ _ _ _ l _ _ => [linkOf addr l]
  | .wMmaz _ _ _ l => [linkOf addr l]
  | .wExit _ _ l => [linkOf addr l]
  | .wBr _ _ _ l m => [linkOf addr l, linkOf addr m]
  | .wCall l m => [linkOf addr l, linkOf addr m]
  | .wSync _ _ l => [linkOf addr l]
  | .wScale l => [linkOf addr l]
  | _ => []

/-- The successor that is known from a header alone (R315). -/
def wNextKnown (addr : Nat) : Instr → Option Nat
  | .wNop l => some (linkOf addr l)
  | .wMma _ _ _ _ _ _ _ _ _ l _ _ => some (linkOf addr l)
  | .wMmaz _ _ _ l => some (linkOf addr l)
  | .wExit _ _ l => some (linkOf addr l)
  | .wCall _ m => some (linkOf addr m)
  | .wScale l => some (linkOf addr l)
  | _ => none

/-- The payload and side part of a block: ranges of addresses in the order read (R312, R316). -/
def wParts (addr : Nat) : Instr → List (Nat × Nat)
  | .wMma _ _ _ _ _ mx kc _ plen _ ot _ =>
    [(addr + 32, plen.toNat)] ++
      (if ot = 0 then [] else [(addr + ot.toNat * 64, imageSlen mx (kcK kc.toNat))])
  | .wScale _ => [(addr + 32, 64)]
  | _ => []

/-- Pages of ranges of addresses: the part of each range that lies in each page (R71). -/
def pagesOf (l : List (Nat × Nat)) : List (Nat × Nat) :=
  (l.map fun (va, n) => (List.range ((va + n + 2 ^ 18 - 1) / 2 ^ 18 - va / 2 ^ 18)).map fun i =>
    let lo := max va ((va / 2 ^ 18 + i) * 2 ^ 18)
    (lo, min (va + n) ((va / 2 ^ 18 + i + 1) * 2 ^ 18) - lo)).flatten

/-- The first address in a page that lacks XW or has NP set; `none` while a translation waits. A page whose
translation fails otherwise is the payload reader's (R309, R313, R322). -/
def pagesBad (s : State) (t : Nat) : List (Nat × Nat) → Option (Option Nat) × State
  | [] => (some none, s)
  | (va, n) :: rest =>
    match tilePieces s t 5 1 va n pXW false with
    | (.wait, s) => (none, s)
    | (.fail c _, s) => if c = 0x11 then (some (some va), s) else pagesBad s t rest
    | (.ok _, s) => if isNP s t (s.xu t).asid va then (some (some va), s) else pagesBad s t rest

/-- What reading a block's header gives, by the checks of R313 in their order; `none` while a translation or a
bank waits. WBLOCK_PERM carries the address it was found at (R374). -/
def readHeader (s : State) (t addr : Nat) : Option WBlk × State :=
  let bad (c h : Nat) : WBlk := { addr := addr, err := some (c, h, if c ≥ 0x38 then 0 else addr) }
  match tilePieces s t 5 0 addr 32 0 false with
  | (.wait, s) => (none, s)
  | (.fail c _, s) => (some (bad c 0), s)
  | (.ok ps, s) =>
    if poisonedPiece s ps then (some (bad 0x14 0), s)
    else match pagesBad s t [(addr, 32)] with
      | (none, s) => (none, s)
      | (some (some va), s) => (some { bad 0x39 0 with err := some (0x39, 0, va) }, s)
      | (some none, s) => match askBanks s (portTo t 5) (tileReq 5 t 0) 256 ps with
        | (false, s) => (none, s)
        | (true, s) =>
          let (b, s) := readPieces (.task ((s.tile t).task.getD 0)) 4 ps s
          let h := natOfBytes b
          match decodeW h with
          | .bad k => (some { bad 0x38 k with hdr := h, read := true }, s)
          | .ok i _ =>
            if (wLinks addr i).any fun l => decide (l ≥ 2 ^ 52) then (some { bad 0x38 5 with hdr := h, read := true }, s)
            else match pagesBad s t (pagesOf (wParts addr i)) with
              | (none, s) => (none, s)
              | (some (some va), s) => (some { bad 0x39 0 with err := some (0x39, 0, va), hdr := h, read := true }, s)
              | (some none, s) => (some { addr := addr, hdr := h, read := true }, s)

/-- The next block to read: the one at WPC, else a successor that the last header read gives (R315). -/
def nextRead (w : Wd) : Option Nat :=
  match w.ahead.getLast? with
  | none => some w.wpc
  | some b => if w.ahead.length ≥ 3 ∨ b.err.isSome then none else b.instr.bind (wNextKnown b.addr)

/-- A block that has just been read enters the engine. -/
def Wd.enter (w : Wd) (b : WBlk) : Wd :=
  let b := { b with num := w.nread }
  let w := { w with nread := w.nread + 1 }
  if w.reload.isSome then { w with reload := some b } else { w with ahead := w.ahead ++ [b] }

/-- The address whose header is read next: a reload's first (R315, R325). -/
def headerNext (w : Wd) : Option Nat :=
  match w.reload with
  | some b => if b.read || b.err.isSome then none else some b.addr
  | none => nextRead w

/-- WBLOCK_READ: the header of the next block is read (R309, R313, R315, R325). -/
def execWblockRead (t : Nat) (s : State) : Out :=
  let x := s.tile t
  if !x.wd.on || x.wd.flt || x.landing then .next s
  else match headerNext x.wd with
    | none => .next s
    | some addr =>
      match readHeader s t addr with
      | (none, s) => .next s
      | (some b, s) => .next (setWd s t ((s.tile t).wd.enter b))

/-- The header token of a block's image (R181, R312). -/
def wHeaderToken : Instr → Nat
  | .wMma _ _ _ fmt sp mx kc _ plen _ _ nout =>
    fmt.toNat + 2 ^ 8 * (sp.toNat + 4 * boolNat mx) + 2 ^ 16 * kcK kc.toNat + 2 ^ 32 * plen.toNat
      + 2 ^ 64 * imageSlen mx (kcK kc.toNat) + 2 ^ 80 * nout.toNat
  | _ => 0

/-- Image tokens of a block (R180). -/
def wTokens : Instr → Nat
  | .wMma _ _ _ _ _ mx kc _ plen _ _ _ => 1 + plen.toNat / 64 + imageSlen mx (kcK kc.toNat) / 64
  | _ => 0

/-- Where image token k > 0 comes from: an address, or zeros where there is no side part (R312). -/
def wTokenAddr (addr : Nat) (i : Instr) (k : Nat) : Option Nat :=
  match i with
  | .wMma _ _ _ _ _ _ _ _ plen _ ot _ =>
    let d := plen.toNat / 64
    if k ≤ d then some (addr + 32 + 64 * (k - 1))
    else if ot = 0 then none
    else some (addr + ot.toNat * 64 + 64 * (k - 1 - d))
  | _ => none

/-- The payload reader, unit 256, raises a data-class fault at a line (R322). -/
def readerFault (s : State) (t : Nat) (b : WBlk) (cause line addr : Nat) : State :=
  let x := s.tile t
  let r : FRec :=
    { cause := cause, tile := t, unit := 256, ctx := 0, fseq := (x.fseqR + 1) % 256, addr := addr, pos := line
      asid := tileAsid s t, detail := 4, idx := [b.addr % 2 ^ 32, b.addr / 2 ^ 32] }
  sendFault (s.setTile t { x with fseqR := r.fseq, wd := { x.wd with readFault := some r } }) r

/-- The reader's bytes at an address, in lines of 64: those of a line a repair zeroed are zero (R377).
The address of a line that fails is given with its cause. -/
def readerBytes (s : State) (t : Nat) (b : WBlk) (va n : Nat) :
    Except (Option (Nat × Nat)) (List Byte) × State :=
  let lo := va / 64 * 64
  let need := [(va, min n (lo + 64 - va))] ++ (if va + n > lo + 64 then [(lo + 64, va + n - lo - 64)] else [])
  need.foldl (fun (acc : Except (Option (Nat × Nat)) (List Byte) × State) p =>
    match acc with
    | (.error e, s) => (.error e, s)
    | (.ok bs, s) =>
      if b.zero.contains (p.1 / 64 * 64) then (.ok (bs ++ List.replicate p.2 0), s)
      else match tileRead s t (.task ((s.tile t).task.getD 0)) 5 2 p.1 p.2 pXW 4 with
        | (.error (some (c, _)), s) => (.error (some (c, p.1 / 64 * 64)), s)
        | (.error none, s) => (.error none, s)
        | (.ok c, s) => (.ok (bs ++ c), s)) (.ok [], s)

/-- Replace a block where the engine holds it: the one of that number. -/
def putBlk (w : Wd) (new : WBlk) : Wd :=
  let f (b : WBlk) : WBlk := if b.num = new.num then new else b
  { w with ahead := w.ahead.map f, dropped := w.dropped.map f, reload := w.reload.map f }

/-- A block is the one a resume reloads (R325). DEDUCED: notes/assumptions/94.md. -/
def Wd.reloads (w : Wd) (b : WBlk) : Bool := w.reload.any fun r => r.num == b.num

/-- The block whose payload the reader reads: discarded loads and a reload first, then the blocks read
ahead in chain order (R316, R325). -/
def readerBlk (w : Wd) : Option WBlk :=
  let more (b : WBlk) : Bool :=
    b.err.isNone && b.read && (match b.instr with
      | some i => match i with
        | .wScale _ => b.frame.isEmpty
        | .wMma _ _ _ _ _ _ _ _ _ _ _ _ => decide (b.pos < wTokens i)
        | _ => false
      | none => false)
  (w.dropped ++ w.reload.toList ++ w.ahead).find? more

/-- PAYLOAD_LOAD: the payload reader places its next token, or reads a frame record; nothing begins once a
pre-emption has landed (R312, R316, R322, R324). -/
def execPayloadLoad (t : Nat) (s : State) : Out :=
  let x := s.tile t
  let w := x.wd
  if w.readFault.isSome then .next s
  else match readerBlk w with
    | none => .next s
    | some b =>
      match b.instr with
      | some (.wScale _) =>
        if x.landing then .next s
        else match readerBytes s t b (b.addr + 32) 64 with
        | (.error none, s) => .next s
        | (.error (some (c, a)), s) => .next (readerFault s t b c ((a - b.addr) / 64) a)
        | (.ok bs, s) => .next (setWd s t (putBlk (s.tile t).wd { b with frame := bs }))
      | some i =>
        match b.slot with
        | none =>
          -- the load starts: its slot becomes loading (R180, R183)
          let k := if w.reloads b then w.wlast else w.wnext
          let sl := x.arr.slotOf k
          if x.landing = true ∨ sl.st = 1 ∨ preloadPending x k = true then .next s
          else
            let s1 := s.setArr t { x.arr with
              slots := tput x.arr.slots k ({ st := 1, gen := sl.gen + 1 } : WSlot)
              wbufBad := x.arr.wbufBad.filter (· != k) }
            let w1 := putBlk w { b with slot := some k }
            .next (setWd s1 t (if w.reloads b then w1 else { w1 with wnext := (k + 1) % 4 }))
        | some k =>
          let n := b.pos
          let total := wTokens i
          let put (s : State) (v : Line) : State :=
            let a := s.arr t
            let d : WDeliv := { lane := n % 4, slot := some k, val := v, eos := decide (n + 4 ≥ total), due := s.cycle + 2 }
            let s1 := s.setArr t { a with deliv := a.deliv ++ [d] }
            setWd s1 t (putBlk (s1.tile t).wd { b with pos := n + 1 })
          if n = 0 then .next (put s (BitVec.ofNat 512 (wHeaderToken i)))
          else match wTokenAddr b.addr i n with
            | none => .next (put s 0)
            | some va => match readerBytes s t b va 64 with
              | (.error none, s) => .next s
              | (.error (some (c, a)), s) => .next (readerFault s t b c ((a - b.addr) / 64) a)
              | (.ok bs, s) => .next (put s (lineOfBytes bs))
      | none => .next s

/-- Read-ahead blocks are discarded: a load that has started runs to its end and its slot becomes empty,
and WNEXT returns to the slot of the first discarded load (R316). -/
def discardAhead (s : State) (t : Nat) : State :=
  let x := s.tile t
  let w := x.wd
  let loads := w.ahead.filter fun b => b.slot.isSome
  let a := loads.foldl (fun a b =>
    let k := b.slot.getD 0
    let sl := a.slotOf k
    { a with slots := tput a.slots k (if sl.st = 1 then { sl with discard := true } else ({ gen := sl.gen } : WSlot)) })
    x.arr
  let run := (w.dropped ++ loads).filter fun b => (x.arr.slotOf (b.slot.getD 0)).st == 1
  -- what was being read for them is awaited no more (R73)
  let gone (r : Nat) : Bool := r == tileReq 5 t 0 || r == tileReq 5 t 1 || (r == tileReq 5 t 2 && run.isEmpty)
  (dropBanks (dropReqs s t gone) gone).setTile t { x with
    arr := a
    wd := { w with ahead := [], dropped := run
                   wnext := (loads.head?.bind fun b => b.slot).getD w.wnext } }

/-! ### The opcodes (R317-R320) -/

/-- The block at the head takes effect and the chain goes on at `next` (R314). -/
def wdGo (s : State) (next : Nat) : State :=
  let t := s.cur.unit
  let x := s.tile t
  s.setTile t { x with
    ticked := false
    wd := { x.wd with wpc := next, ahead := x.wd.ahead.drop 1, blocks := (x.wd.blocks + 1) % 2 ^ 32, wait := false, mid := false } }
/-- The block waits, and no pre-emption lands in its wait; `shown` says whether it waits for what WDSTAT.WAIT
shows (R314, R324, R327). -/
def wdWait (s : State) (shown : Bool := true) : Out :=
  .next (setWd s s.cur.unit { (s.tile s.cur.unit).wd with wait := shown, mid := true })
/-- A W.BR waits for its pennant, and a pre-emption ends its wait (R320, R327). DEDUCED: notes/assumptions/32.md. -/
def wdWaitBr (s : State) : Out :=
  .next (setWd s s.cur.unit { (s.tile s.cur.unit).wd with wait := true, mid := false })
/-- The block faults and takes no effect (R313, R321). -/
def wdStop (s : State) (cause detail : Nat) : Out :=
  let t := s.cur.unit
  let w := (s.tile t).wd
  let s1 := if cause = 0x38 then setWd s t { w with hdrd := detail } else s
  .next (wdFault s1 t cause 0 detail .weight)

/-- The address of the acting block. -/
def State.wpc (s : State) : Nat := s.me.wd.wpc

/-- A link's target, checked (R313). -/
def wdLink (s : State) (l : W64) (f : Nat → Out) : Out :=
  let n := linkOf s.wpc l
  if n ≥ 2 ^ 52 then wdStop s 0x38 5 else f n

/-- Starts for the source elements of a slot of the array region (R288, R318, R319). -/
def wdStart (s : State) (rgn slot : Nat) : State :=
  let t := s.cur.unit
  let c := s.collar t
  let es := startElems s (c.region rgn) slot
  s.setCollar t { c with starts := c.starts ++ es.map fun e =>
    { elem := e, slot := slot, dom := boolNat s.me.wd.dom, at' := s.cycle + 2 } }

/-- The starts a block sends wait: a queue of starts is full, or a fence with col that the task issued before
wdrive is pending (R282, R288). -/
def wdStartWaits (s : State) (rgn ctx : Nat) : Bool :=
  startFull s ctx (startElems s ((s.collar s.cur.unit).region rgn) ctx) || fenceBlocks s.ctx 8

/-- The array region, where slot CTX is armed there and all eight elements hold the operation in their
current planes (R318, R319). -/
def wdCtxOk (s : State) (ctx : Nat) (elem : Nat → Nat) (op : Nat) : Option Nat :=
  match s.me.arr.ctx with
  | none => none
  | some (rgn, _) =>
    let c := s.collar s.cur.unit
    if (c.region rgn).armed.contains ctx && (List.range 8).all fun j =>
      let x := c.elem (elem j)
      match x.curOf ctx with
      | some p => regionOf c (elem j) == some rgn && (x.plane p).opcode == op
      | none => false
    then some rgn else none

/-- A pass of W.MMA or W.MMAZ (R318). -/
def wdPass (s : State) (ctx slot pair : Nat) (acc src : Bool) (next : Nat) (upd : Wd → Wd) : Out :=
  let x := s.me
  let w := x.wd
  let t := s.cur.unit
  match wdCtxOk s ctx feedElem 0x42 with
  | none => wdStop s 0x26 0
  | some rgn =>
    if w.m = 0 || x.arr.winBad || decide (w.row0 + w.m > 16 * x.arr.winCount) then wdStop s 0x0A 0
    else if decide (x.arr.unfed.length ≥ 2) || (src && wdStartWaits s rgn ctx) then wdWait s false
    else
      let s1 := if src then wdStart s rgn ctx else s
      let y := s1.me
      let m : Mma :=
        { id := 0, ord := y.ord, pc := w.pc, issueT := y.arr.clk, arr := some (rgn, ctx), row0 := y.arr.phys w.row0
          m := w.m, p := 1, slot := slot, pair := pair, acc := acc, ds := false, wd := true }
      let w' := upd { w with mmas := w.mmas ++ [y.arr.nextId] }
      .next (wdGo (s1.setTile t { y with ord := y.ord + 1, arr := addMma y.arr m, wd := w' }) next)

/-- W.NOP (R320). -/
def execWNop (l : W64) (s : State) : Out := wdLink s l fun n => .next (wdGo s n)

/-- W.MMA (R313, R318). -/
def execWMma (ctx : BitVec 2) (acc src : Bool) (_fmt : Fmt) (_sparse : BitVec 2) (_mx : Bool) (_kc : BitVec 2)
    (pair : BitVec 4) (_plen : W32) (l : W64) (_otoff : BitVec 24) (_nout : BitVec 7) (s : State) : Out :=
  wdLink s l fun n =>
    match s.me.wd.ahead.head?.bind fun b => b.slot with
    | none => wdWait s
    | some k =>
      let sl := s.me.arr.slotOf k
      if sl.st = 1 then wdWait s
      else if sl.st ≠ 2 then wdStop s 0x38 9
      else
        let addr := s.wpc
        wdPass s ctx.toNat k pair.toNat acc src n fun w =>
          { w with wlast := k, lv := true, pairlast := pair.toNat, wlastb := addr }

/-- W.MMAZ (R318). -/
def execWMmaz (ctx : BitVec 2) (acc src : Bool) (l : W64) (s : State) : Out :=
  wdLink s l fun n =>
    let w := s.me.wd
    if !w.lv then wdStop s 0x38 2
    else wdPass s ctx.toNat w.wlast w.pairlast acc src n id

/-- W.EXIT (R319). -/
def execWExit (ctx : BitVec 2) (src : Bool) (l : W64) (s : State) : Out :=
  wdLink s l fun n =>
    let x := s.me
    let w := x.wd
    let t := s.cur.unit
    match wdCtxOk s ctx.toNat drnElem 0x44 with
    | none => wdStop s 0x26 0
    | some rgn =>
      if w.dcnt = 0 || x.arr.winBad || decide (w.dfirst + w.dcnt > 16 * x.arr.winCount) then wdStop s 0x0A 0
      else if decide (x.arr.drains.length ≥ 2) then wdWait s
      else if src && wdStartWaits s rgn ctx.toNat then wdWait s false
      else
        let s1 := if src then wdStart s rgn ctx.toNat else s
        let y := s1.me
        let d : Drain := { id := y.arr.nextId, ord := y.ord, first := y.arr.phys w.dfirst, cnt := w.dcnt
                           dom := w.dom, arr := some (rgn, ctx.toNat), wd := true }
        .next (wdGo (s1.setTile t { y with
          ord := y.ord + 1
          arr := { y.arr with drains := y.arr.drains ++ [d], nextId := y.arr.nextId + 1 }
          wd := { w with drains := w.drains ++ [d.id] } }) n)

/-- W.BR: the pennant at the head of a WLD's queue decides (R320). -/
def execWBr (ctx psrc : BitVec 2) (pnot : Bool) (l m : W64) (s : State) : Out :=
  wdLink s l fun n0 => wdLink s m fun n1 =>
    let t := s.cur.unit
    let e := wldElem psrc.toNat
    let c := s.collar t
    let x := c.elem e
    match s.me.arr.ctx, x.curOf ctx.toNat with
    | some (rgn, _), some p =>
      let y := x.plane p
      if !(c.region rgn).armed.contains ctx.toNat || y.opcode != 0x43 || y.eop.pg then wdStop s 0x26 0
      else match y.qp with
        | [] => wdWaitBr s
        | q :: rest =>
          let s1 := s.setElem t e (x.setPlane p { y with qp := rest })
          .next (wdGo s1 (if q.val != pnot then n1 else n0))
    | _, _ => wdStop s 0x26 0

/-- W.CALL (R313, R320). -/
def execWCall (l m : W64) (s : State) : Out :=
  wdLink s l fun n0 => wdLink s m fun n1 =>
    let t := s.cur.unit
    let w := s.me.wd
    if w.links.length ≥ 4 then wdStop s 0x38 6
    else .next (wdGo (setWd s t { w with links := w.links ++ [n0] }) n1)

/-- W.RET (R313, R320). -/
def execWRet (s : State) : Out :=
  let w := s.me.wd
  match w.links.getLast? with
  | none => wdStop s 0x38 7
  | some n => .next (wdGo (setWd s s.cur.unit { w with links := w.links.dropLast }) n)

/-- W.SYNC (R294, R320). -/
def execWSync (tk : BitVec 6) (clr : Bool) (l : W64) (s : State) : Out :=
  wdLink s l fun n =>
    let k := s.myTask
    let st := (s.token k tk.toNat).st
    if st = 1 then wdWait s
    else if st = 3 then wdStop s 0x0D tk.toNat
    else .next (wdGo (readToken s k tk.toNat clr).2 n)

/-- A frame record R317 allows. -/
def frameOk (b : List Byte) : Bool :=
  let row0 := blk b 0 4
  let m := blk b 4 4
  let df := blk b 8 2
  let dc := blk b 10 2
  decide (row0 ≤ 2047) && decide (1 ≤ m) && decide (m ≤ 2048) && decide (df ≤ 2047) && decide (1 ≤ dc)
  && decide (dc ≤ 2048) && decide (blk b 12 1 ≤ 1) && blk b 13 51 == 0

/-- W.SCALE (R317). -/
def execWScale (l : W64) (s : State) : Out :=
  wdLink s l fun n =>
    let w := s.me.wd
    match w.ahead.head? with
    | none => wdWait s
    | some b =>
      if b.frame.isEmpty then wdWait s
      else if !frameOk b.frame then wdStop s 0x38 8
      else .next (wdGo (setWd s s.cur.unit { w with
        row0 := blk b.frame 0 4, m := blk b.frame 4 4, dfirst := blk b.frame 8 2, dcnt := blk b.frame 10 2
        dom := bit (blk b.frame 12 1) 0 }) n)

/-- Passes and drains of the mode that are not over (R320). -/
def wdBusy (x : Tile) : Bool :=
  x.arr.mmas.any (fun m => x.wd.mmas.contains m.id)
  || x.arr.drains.any fun d => x.wd.drains.contains d.id && decide (d.next < d.cnt)

/-- W.END (R308, R320). -/
def execWEnd (s : State) : Out :=
  if wdBusy s.me then wdWait s (s.me.arr.drains.any fun d => s.me.wd.drains.contains d.id && decide (d.next < d.cnt))
  else
    let s1 := wdGo s s.wpc
    let w := s1.me.wd
    .next (setWd s1 s.cur.unit { w with on := false, mmas := [], drains := [] })

/-- A reload ends when its slot is valid, and a tile image that fails is the block's fault (R313, R325). -/
def settleReload (x : Tile) : Tile :=
  match x.wd.reload, x.wd.reload.bind fun b => b.slot with
  | some b, some k =>
    let st := (x.arr.slotOf k).st
    if st = 1 then x
    else { x with wd := { x.wd with reload := if st = 2 then none else some { b with err := some (0x38, 9, 0) } } }
  | _, _ => x

/-- The turn of a tile's weight-driven engine: the checks of a reload, then of the head block (R313, R325). -/
def wdHead (s : State) (t : Nat) : Option (Sum (Nat × Nat × Nat) Instr) :=
  let x := s.tile t
  if !x.wd.on || x.held || x.wd.flt || x.landing then none
  else match x.wd.reload with
    | some b => b.err.map .inl
    | none => match x.wd.ahead with
      | [] => none
      | b :: _ => match b.err with
        | some e => some (.inl e)
        | none => b.instr.map .inr

end Sys2Proof.Machine
end

