-- ==== Sys2Proof/Machine/Service.lean ====
section
/-!
DEFINITION. Ending the servicing of a control-class fault (R188, R321, R382-R385), the shadow context's
landings (R383), and the events of translation (R62, R74-R78).
-/
namespace Sys2Proof.Machine

/-- The first fault held back enters the queue that a servicing has freed a place in (R382). -/
def Shadow.pop (sh : Shadow) : Shadow :=
  match sh.back with
  | [] => { sh with queue := sh.queue.drop 1 }
  | f :: rest => { sh with queue := sh.queue.drop 1 ++ [f], back := rest }

/-- A pass whose check failed is begun again, or it and those after it never run (R188). -/
def resumePass (a : Array) (id act : Nat) : Array :=
  match a.mmas.find? fun m => m.id == id with
  | none => a
  | some m =>
    if act = 0 then setMma a { m with failed := false }
    else if m.started then setMma a { m with failed := false, p := m.pass + 1 }
    else setMma a { m with failed := false, p := m.pass, fed := true }

/-- A tagged access whose fault was serviced: performed again, or given up with its destination undefined
(R384). -/
def resumeAccess (s : State) (t id act : Nat) : State :=
  let x := s.tile t
  if act = 0 then
    s.setTile t { x with ctx := { x.ctx with ops := x.ctx.ops.map fun o =>
      if o.id = id then { o with st := .waiting } else o } }
  else
    finishOp s t id (some (undef s 800))

/-- The chain goes on at WPC after a fault of the mode, and a reload that failed begins afresh (R321, R325). While
another fault of the mode waits for its servicing, the engine stays stopped and reads no block (R321, R382). -/
def resumeChain (s : State) (t : Nat) : State :=
  let s1 := discardAhead s t
  let w := (s1.tile t).wd
  setWd s1 t { w with
    flt := ((s1.tile t).shadow.queue.drop 1 ++ (s1.tile t).shadow.back).any fun f => f.fr.unit == 258
    reload := w.reload.map fun b => if b.err.isSome then { addr := b.addr, num := w.nread } else b
    nread := w.nread + 1 }

/-- The effect of a servicing's end on what the fault interrupted (R384). -/
def resumeFault (s : State) (t : Nat) (f : CFault) (act : Nat) (fval : W64) : State :=
  match f.src with
  | .issue =>
    let x := s.tile t
    let x1 := { x with fetchBad := none }
    s.setTile t (if act = 0 then x1
      else { x1 with atPs := false, ctx := { x.ctx with pc := pcNext (BitVec.ofNat 64 f.fr.pos) } })
  | .access id => resumeAccess s t id act
  | .trap => s
  | .vector p => s.setTile t (landTrap (s.tile t) p act fval)
  | .weight => resumeChain s t
  | .pass id =>
    let wd := (s.arr t).mmas.any fun m => m.id == id && m.wd
    let s1 := s.setArr t (resumePass (s.arr t) id act)
    if wd then resumeChain s1 t else s1
  | .config => s
  | .parity => s

/-- Whether a servicing may end with action 0 or 1 (R384). -/
def CSrc.ends : CSrc → Bool
  | .parity => false
  | _ => true

/-- A servicing ends with action 0 or 1; the next queued fault is then serviced, and with the last the
hold ends (R382, R384). DEDUCED: notes/assumptions/35.md. -/
def endServicing (s : State) (t act : Nat) (fval : W64) : State :=
  let sh := (s.tile t).shadow
  match sh.queue with
  | [] => s
  | f :: _ =>
    let s1 := resumeFault s t f act fval
    let x := s1.tile t
    let sh1 := { x.shadow.pop with running := false, esc := false, stopped := false }
    s1.setTile t { x with shadow := if sh1.queue.isEmpty then sh1 else sh1.start (s.cycle + 1) }

/-- hret: the way back from the handler, with the action in FACT (R306, R384). -/
def execHret (s : State) : Out :=
  let t := s.cur.unit
  if !s.cur.shadow then issueFault s 0x07 0 0
  else
    let sh := (s.tile t).shadow
    let act := sh.fact.toNat % 4
    match sh.queue with
    | [] => issueFault s 0x0B 0 0
    | f :: _ =>
      if act = 2 then .next (escalate s t)
      else if act = 3 || !f.src.ends then issueFault s 0x0B 0 0
      else .next (endServicing s t act sh.fval)

/-- FLTCTL.GO with ACT 0 or 1 ends an escalation as hret would (R385). -/
def goWith (s : State) (t act : Nat) : Out :=
  let sh := (s.tile t).shadow
  match sh.esc, sh.queue with
  | true, f :: _ => if f.src.ends then .next (endServicing s t act sh.fval) else .next s
  | _, _ => .next s

def execFltctlGoResume (t : Nat) (s : State) : Out := goWith s t 0
def execFltctlGoSkip (t : Nat) (s : State) : Out := goWith s t 1
/-- FLTCTL.GO with ACT 2: the stub runs again on the record (R385). -/
def execFltctlGoRerun (t : Nat) (s : State) : Out :=
  let x := s.tile t
  if !x.shadow.esc then .next s
  else
    .next (s.setTile t { x with
      shadow := ({ x.shadow with esc := false, stopped := false } : Shadow).start (s.cycle + 1) })

/-- A task scalar register takes a value from outside the task (R383, R385). -/
def putTaskReg (x : Tile) (r : Nat) (v : W64) : Tile :=
  { x.clearBad (.s r) with ctx := x.ctx.put (.s r) v.toNat }

/-- FLTRVAL (R385). -/
def execFltrvalWrite (t : Nat) (v : W64) (s : State) : Out :=
  let x := s.tile t
  if x.shadow.esc then .next (s.setTile t (putTaskReg x x.shadow.rsel v)) else .next s

/-! ### The shadow context (R383) -/

/-- What is due in the shadow context lands: by cycles, since it issues in held ones (R31, R222). -/
def landShadow (s : State) (x : Tile) : Tile :=
  let c := x.shadow.ctx
  let due (p : PendMts) : Bool :=
    decide (p.at' ≤ s.cycle) || (decide (p.at' ≤ s.cycle + 1) && choose s (256 + p.num) 2 == 1)
  let l := c.pend.filter fun p => decide (p.bound ≤ s.cycle)
  let c1 := l.foldl (fun c p => c.landAt p.dest p.val p.ord) c
  let c2 := { c1 with pend := c.pend.filter fun p => !decide (p.bound ≤ s.cycle)
                      mts := c.mts.filter fun p => !due p }
  c.mts.foldl (fun x p =>
    if !due p then x
    else if p.num = 0x48 then { x with shadow := { x.shadow with fact := p.val } }
    else if p.num = 0x49 then { x with shadow := { x.shadow with fval := p.val } }
    else if p.num = 0x4B then { x with shadow := { x.shadow with trsel := p.val } }
    else putTaskReg x (x.shadow.trsel.toNat % 32) p.val) { x with shadow := { x.shadow with ctx := c2 } }

/-! ### Translation events (R74-R78) -/

def execWalkRequest (u : Nat) (s : State) : Out := .next (walkRequestDo s u)
def execPageWalkComplete (die asid vpn : Nat) (s : State) : Out := .next (pageWalkDo s die asid vpn)
def execXlinvPage (t asid vpn : Nat) (bc : Bool) (s : State) : Out :=
  .next (xlinvDo s t { kind := 0, asid := asid, vpn := vpn, bc := bc })
def execXlinvAsid (t asid : Nat) (bc : Bool) (s : State) : Out :=
  .next (xlinvDo s t { kind := 1, asid := asid, vpn := 0, bc := bc })
def execXlinvNonglobal (t : Nat) (bc : Bool) (s : State) : Out :=
  .next (xlinvDo s t { kind := 2, asid := 0, vpn := 0, bc := bc })
def execXlinvAll (t : Nat) (bc : Bool) (s : State) : Out :=
  .next (xlinvDo s t { kind := 3, asid := 0, vpn := 0, bc := bc })
def execInvalidationComplete (t : Nat) (s : State) : Out := .next (invalidationDo s t)
/-- PATROL_SCRUB: a line is read and corrected, and its poison never changes (R62). An error that it
corrects is counted where it occurs. -/
def execPatrolScrub (_pa : Nat) (s : State) : Out := .next s

end Sys2Proof.Machine
end

