-- ==== Sys2Proof/Machine/Cmd.lean ====
section
/-!
DEFINITION. Engine commands as they run: copies inside the package, and to and from the network and
storage (R82, R84, R85, R88-R98, R340, R341).
-/
namespace Sys2Proof.Machine

/-! ### Shared steps -/

/-- Whether any consumed token is PENDING; the first that is FAILED; what the DONE ones released. -/
def consumed (s : State) (c : Cmd) : Bool × Option Nat × List WId :=
  match c.task with
  | none => (false, none, [])
  | some n =>
    let ts := c.tkcs.map (s.token n)
    (ts.any fun t => t.st == 1,
     (ts.find? fun t => t.st == 3).map fun t => bits t.word.toNat 13 8,
     (ts.map fun t => if t.st = 2 then t.cov else []).flatten)

/-- The carried value's token (R91). -/
def carried (s : State) (c : Cmd) : Option Nat :=
  match c.task, c.tkcs with
  | some n, k :: _ =>
    let t := s.token n k
    if t.st ≥ 2 then some (bits t.word.toNat 63 32) else none
  | _, _ => none

/-- What a command's writes and its DONE release: its read floor (R340-R342). -/
def startCmd (s : State) (e : Eng) (c : Cmd) (cov : List WId) (chk : Nat) : State :=
  let fl := c.floor ++ cov.filter fun w => !c.floor.contains w
  let s1 := (setCmd s e { c with st := .running, chk := chk, floor := fl }).newAgent (.cmd c.id) c.task fl
  let m := s1.ag (.cmd c.id)
  s1.setAg (.cmd c.id) { m with
    tile := c.task.map fun _ => c.tile
    fenceRels := [{ ag := .cmd c.id, scope := .sys, cov := fl, tile := c.task.map fun _ => c.tile }] }

/-- The shape record a command goes by: while its token is PENDING a change to the block or to the record has an
undefined effect, and what it goes by is then free (R9, R85). DESIGN CHOICE: notes/assumptions/42.md. -/
def shapeNow (s : State) (c : Cmd) (b : List Byte) : Shape :=
  shapeOf (if c.read.all fun r => s.bytes r.1 r.2.length == r.2 then b
    else tabulate 128 fun i => BitVec.ofNat 8 (undef s (1024 + i)))

/-- A command takes one turn: where its shape record could not be read as it was accepted, that is read first; it
ends where a consumed token is FAILED, starts when none is PENDING, and then moves on by `f` (R84, R85, R88, R91,
R92). DESIGN CHOICE: notes/assumptions/42.md. -/
def cmdTurn (e : Eng) (id opc : Nat) (f : State → Cmd → Shape → State) (s : State) : Out :=
  match cmdOf s e id with
  | none => .next s
  | some c =>
    if c.opc ≠ opc then .next s
    else match c.st, c.shape with
      | .waiting, none => .next (readShape s e c)
      | .waiting, some _ =>
        let (pend, failed, cov) := consumed s c
        (match failed with
        | some k => .next (endCmd s e c (statusWord 3 (engCode e) k true false 0 (openChk s c)))
        | none =>
          if pend then .next s
          else if c.carry && (carried s c).isNone then .next (endCmd s e c (statusWord 3 (engCode e) 0x16 false false 0 0))
          else .next (startCmd s e c cov (if c.carry then (carried s c).getD 0 else 0)))
      | .running, some b => .next (f s c (shapeNow s c b))
      | _, _ => .next s

/-- The status of a command that has moved every byte (R63, R91, R93). -/
def doneWord (s : State) (e : Eng) (c : Cmd) (chk : Nat) : W64 :=
  let k := engCode e
  if c.poisoned then statusWord 3 k 0x14 false false 0 (openChk s c)
  else if c.cmp && chk != blk c.block 16 4 then statusWord 3 k 0x15 false false 0 chk
  else statusWord 2 k 0 false false 0 chk

/-- The atomic unit of an element's accesses (R331). -/
def elemUnit (esz va : Nat) : Nat := if esz ≤ 3 ∧ va % 2 ^ esz = 0 then 2 ^ esz else 1

def pieceBytes (ps : List (Nat × Nat)) : List Nat := (ps.map fun (pa, n) => tabulate n fun i => pa + i).flatten

/-- The byte has been written by another command, from which no token edge leads here (R89). -/
def foreignByte (s : State) (me : AgentId) (pa : Nat) : Bool :=
  let fl := (s.ag me).floor
  s.mem.ags.any fun (a, m) => (match a with
    | .cmd _ => true
    | .peer _ _ => true
    | _ => false) && a != me && m.written.any fun w => w.1 == pa && !fl.contains w

/-- Bytes are written by an engine's agent: undefined where a rule says so, and poisoned where they were at their
source (R63, R89). It gives the bytes as they are written. -/
def engineWrite (s : State) (a : AgentId) (ps : List (Nat × Nat)) (unit : Nat) (b : List Byte) (bad : List Bool)
    (open' : Nat → Bool) : List Byte × State :=
  let l := pieceBytes ps
  let b' := tabulate b.length fun i =>
    let pa := l.getD i 0
    if bad.getD i false || open' pa || foreignByte s a pa then BitVec.ofNat 8 (undef s (2048 + pa % 2048)) else b.getD i 0
  let s1 := (ps.foldl (fun (acc : State × Nat) p =>
    (physWrite acc.1 a p.1 ((b'.drop acc.2).take p.2) unit, acc.2 + p.2)) (s, 0)).1
  (b', poisonBytes s1 ((List.range l.length).filterMap fun i => if bad.getD i false then l[i]? else none))

/-- An engine reads a line of an element: source bytes that the command has written end undefined (R89). -/
def readLineOf (c : Cmd) (unit pa n : Nat) (s : State) : List (Byte × Bool) × State :=
  let (d, s) := lineRead (.cmd c.id) unit pa n s
  (d, (List.range n).foldl (fun s i =>
    if c.wrote.contains (pa + i) then memWrite s (.cmd c.id) (pa + i) [BitVec.ofNat 8 (undef s ((pa + i) % 1024))] else s) s)

/-- An engine reads an element, line by line: its bytes with their poison, once the last has been read (R63, R100). -/
def readElem (s : State) (e : Eng) (c : Cmd) (ps : List (Nat × Nat)) (unit : Nat) :
    Option (List (Byte × Bool) × Cmd) × State :=
  match lineAccess s (cmdPort e c) (reqId 7 c.id) 256 (cmdTile e c) false ps (readLineOf c unit) with
  | (none, s) => (none, s)
  | (some d, s) =>
    (some (d, { c with readB := c.readB ++ (pieceBytes ps).filter fun x => !c.readB.contains x
                       poisoned := c.poisoned || d.any (·.2) }), s)

/-- A line of bytes that an engine's agent writes, with the poison they carry (R63, R89). -/
def writeLineOf (a : AgentId) (open' : Nat → Bool) (unit : Nat) (l : List (Byte × Bool)) (o pa n : Nat) (s : State) :
    List (Byte × Bool) × State :=
  let p := (l.drop o).take n
  let (b, s) := engineWrite s a [(pa, n)] unit (p.map (·.1)) (p.map (·.2)) open'
  (b.zip (p.map (·.2)), s)

/-- An engine writes an element, line by line: its bytes as they were written, once the last has been (R89, R100). -/
def writeElem (s : State) (e : Eng) (c : Cmd) (ps : List (Nat × Nat)) (unit : Nat) (l : List (Byte × Bool)) :
    Option (List Byte × Cmd) × State :=
  match linesWrite s (cmdPort e c) (reqId 15 c.id) 256 (cmdTile e c) ps
      (writeLineOf (.cmd c.id) (fun pa => c.wrote.contains pa || c.readB.contains pa) unit l) with
  | (none, s) => (none, s)
  | (some d, s) =>
    (some (d.map (·.1), { c with wrote := c.wrote ++ (pieceBytes ps).filter fun x => !c.wrote.contains x
                                 poisoned := c.poisoned || l.any (·.2) }), s)

/-- An element lies on a page with NP, whose accesses a command makes one after the other in visit order (R72). -/
def elemNP (s : State) (e : Eng) (c : Cmd) (h : Shape) (k : Nat) : Bool :=
  let (src, dst) := h.addrs k
  let last : Int := 2 ^ h.esz - 1
  [src, src + last, dst, dst + last].any fun va => isNP s (cmdUnit e c) c.asid va.toNat

/-- The element a copy performs next: any not performed yet, on pages with NP the next in visit order (R72, R82,
R88). -/
def nextElem (s : State) (e : Eng) (c : Cmd) (h : Shape) : Nat :=
  let k := c.pos + choose s 940 (h.count - c.pos)
  if (c.ahead.any fun a => a.1 == k) || elemNP s e c h k then c.pos else k

/-- An element has been performed: the check value is taken in visit order (R88, R91). -/
def visited (c : Cmd) (k : Nat) (b : List Byte) : Cmd :=
  if k = c.pos then
    let (chk, tail) := chkStep c.chkMode c.chk c.tail b
    { c with pos := c.pos + 1, chk := chk, tail := tail }
  else { c with ahead := c.ahead ++ [(k, b)] }

/-- An element that has been read is written at its destination (R82, R88). -/
def copyPut (e : Eng) (s : State) (c : Cmd) (h : Shape) (k : Nat) (d : List (Byte × Bool)) : State :=
  let (_, dst) := h.addrs k
  match cmdXlate s e c dst (2 ^ h.esz) pWR with
  | (.wait, s) => s
  | (.fail k a, s) => pauseCmd s e c k a
  | (.ok qs, s) => match writeElem s e c qs (elemUnit h.esz dst.toNat) d with
    | (none, s) => s
    | (some (b, c1), s) => setCmd s e (visited { c1 with hold := none, elem := none } k b)

/-- One element inside the package is performed, in any order: read line by line, and then written so (R82, R88,
R101). -/
def copyOne (e : Eng) (s : State) (c : Cmd) (h : Shape) (k : Nat) : State :=
  let (src, dst) := h.addrs k
  let n := 2 ^ h.esz
  match cmdXlate s e c src n pRD with
  | (.wait, s) => s
  | (.fail k a, s) => pauseCmd s e c k a
  | (.ok ps, s) => match cmdXlate s e c dst n pWR with
    | (.wait, s) => s
    | (.fail k a, s) => pauseCmd s e c k a
    | (.ok _, s) => match readElem s e c ps (elemUnit h.esz src.toNat) with
      | (none, s) => s
      | (some (d, c1), s) =>
        let c2 := { c1 with hold := some (k, d) }
        copyPut e (setCmd s e c2) c2 h k d

/-- A copy's turn: an element performed ahead is visited, or one is performed (R88). -/
def copyElem (e : Eng) (s : State) (c : Cmd) (h : Shape) : State :=
  if c.hold.isNone && decide (c.pos ≥ h.count) then endCmd s e c (doneWord s e c (chkEnd c.chkMode c.chk c.tail))
  else match c.hold with
  | some (k, d) => copyPut e s c h k d
  | none => match c.ahead.find? fun a => a.1 == c.pos with
    | some (k, b) => setCmd s e (visited { c with ahead := c.ahead.filter fun a => a.1 != k } k b)
    | none =>
      let k := c.elem.getD (nextElem s e c h)
      let c1 := { c with elem := some k }
      copyOne e (setCmd s e c1) c1 h k

/-- CMD_COPY (R82, R88-R91). DESIGN CHOICE: notes/assumptions/42.md. -/
def execCmdCopy (e : Eng) (id : Nat) (s : State) : Out := cmdTurn e id 1 (copyElem e) s

/-- The next element that is sent: its bytes, none while a page or a bank is waited for or after a pause. A poisoned
source ends a command of the Ethernet engine: the frame is not sent (R63). -/
def sendElem (e : Eng) (s : State) (c : Cmd) (h : Shape) (f : State → Cmd → List Byte → List Bool → State) : State :=
  let (src, _) := h.addrs c.pos
  match cmdXlate s e c src (2 ^ h.esz) pRD with
  | (.wait, s) => s
  | (.fail k a, s) => pauseCmd s e c k a
  | (.ok ps, s) => match readElem s e c ps (elemUnit h.esz src.toNat) with
    | (none, s) => s
    | (some (d, c1), s) =>
      if d.any (·.2) && e == .eth then endCmd s e c (failedWord s e c 0x14)
      else f s { c1 with pos := c.pos + 1 } (d.map (·.1)) (d.map (·.2))

/-- Bytes read for sending count in the check value of a command to the network or storage (R91). -/
def sendChecked (e : Eng) (s : State) (c : Cmd) (h : Shape) : State :=
  sendElem e s c h fun s c b _ =>
    let (chk, tail) := chkStep c.chkMode c.chk c.tail b
    setCmd s e { c with data := c.data ++ b, chk := chk, tail := tail }

/-- The next element that is received: its bytes are written at the destination, with the poison they carry (R63,
R91). -/
def takeElem (e : Eng) (s : State) (c : Cmd) (h : Shape) (b : List Byte) (bad : List Bool) (rest : List Byte)
    (restBad : List Bool) : State :=
  let (_, dst) := h.addrs c.pos
  match cmdXlate s e c dst (2 ^ h.esz) pWR with
  | (.wait, s) => s
  | (.fail k a, s) => pauseCmd s e c k a
  | (.ok qs, s) => match writeElem s e c qs (elemUnit h.esz dst.toNat) (tabulate b.length fun i => (b.getD i 0, bad.getD i false)) with
    | (none, s) => s
    | (some (b', c1), s1) =>
      let (chk, tail) := chkStep c.chkMode c.chk c.tail b'
      setCmd s1 e { c1 with pos := c.pos + 1, chk := chk, tail := tail, data := rest, bad := restBad, moved := c.moved + b.length }

/-- The outcome at the far end of a network or storage command: success, or an error whose detail the far
end gives, for storage a status that is not 0 (R97). -/
def farEnd (s : State) (e : Eng) (c : Cmd) (cause : Nat) : State :=
  if choose s 920 2 = 1 then
    let d := if cause = 0x19 then 1 + choose s 921 (2 ^ 11 - 1) else choose s 921 (2 ^ 11)
    endCmd s e c (statusWord 3 (engCode e) cause false false d (openChk s c))
  else endCmd s e c (doneWord s e c (chkEnd c.chkMode c.chk c.tail))

/-- CMD_NETW: RDMA WRITE of the source bytes (R97). DESIGN CHOICE: notes/assumptions/3.md. -/
def execCmdNetw (e : Eng) (id : Nat) (s : State) : Out :=
  cmdTurn e id 5 (fun s c h =>
    let k := tget {} s.handles c.handle
    if c.pos ≥ h.count then
      if c.sent = 0 then
        setCmd { s with outbox := s.outbox ++ [.rdmaWrite k.qp k.key (BitVec.ofNat 64 c.remoteVa) c.data] } e
          { c with sent := 1 }
      else farEnd s e c 0x18
    else sendChecked e s c h) s

/-- CMD_STGW: an NVMe Write (R97). -/
def execCmdStgw (e : Eng) (id : Nat) (s : State) : Out :=
  cmdTurn e id 7 (fun s c h =>
    if c.pos ≥ h.count then
      if c.sent = 0 then
        setCmd { s with outbox := s.outbox ++
          [.nvme c.handle true (BitVec.ofNat 64 c.remoteVa) c.data c.data.length] } e { c with sent := 1 }
      else farEnd s e c 0x19
    else sendChecked e s c h) s

/-- Bytes from outside the module: free values. -/
def farBytes (s : State) (n : Nat) : List Byte := tabulate n fun i => BitVec.ofNat 8 (undef s (4096 + i))

/-- CMD_NETR: RDMA READ; what the remote memory holds is a free value (R97). DESIGN CHOICE: notes/assumptions/3.md. -/
def execCmdNetr (e : Eng) (id : Nat) (s : State) : Out :=
  cmdTurn e id 4 (fun s c h =>
    let k := tget {} s.handles c.handle
    if c.sent = 0 then
      setCmd { s with outbox := s.outbox ++ [.rdmaRead k.qp k.key (BitVec.ofNat 64 c.remoteVa) h.bytes] } e
        { c with sent := 1 }
    else if c.pos ≥ h.count then farEnd s e c 0x18
    else takeElem e s c h (farBytes s (2 ^ h.esz)) [] [] []) s

/-- CMD_STGR: an NVMe Read; what the storage holds is a free value (R97). -/
def execCmdStgr (e : Eng) (id : Nat) (s : State) : Out :=
  cmdTurn e id 6 (fun s c h =>
    if c.sent = 0 then
      setCmd { s with outbox := s.outbox ++ [.nvme c.handle false (BitVec.ofNat 64 c.remoteVa) [] h.bytes] } e
        { c with sent := 1 }
    else if c.pos ≥ h.count then farEnd s e c 0x19
    else takeElem e s c h (farBytes s (2 ^ h.esz)) [] [] []) s

/-! ### Completion (R92-R95, R341, R356) -/

/-- Where an image that finds no stripe goes: the park buffer, or the IMAGE area (R364). -/
def imageHome (s : State) (t n : Nat) : ParkAt × Nat :=
  let k := s.task n
  match k.plan.find? fun b => b.kind == 2 && decide (b.size ≥ 8192) with
  | some b => (.buffer, spmAddr t b.off)
  | none => (.image, k.trec.image)

/-- Where a task's image lies: a stripe of a tile's accumulator store, or memory. -/
inductive ImgAt where
  | stripe (tile k : Nat)
  | mem (pa : Nat)
deriving DecidableEq, Repr

def imgAtOf (s : State) (t n : Nat) : ParkAt → ImgAt
  | .stripe j => .stripe t j
  | .buffer => .mem (imageHome s t n).2
  | .image => .mem (s.task n).trec.image

/-- The image of a task that is parked or pre-empted (R364, R391). -/
def savedAt (s : State) (n : Nat) : Option ImgAt :=
  let k := s.task n
  if k.savedCtx.isNone then none
  else if !k.resident then some (.mem k.trec.image)
  else ((s.tile k.tile).parked.find? fun p => p.task == n).map fun p => imgAtOf s k.tile n p.place

/-- A 4-byte word of an image. -/
def imgWord (s : State) (i : Nat) : ImgAt → Nat
  | .stripe t j => ((s.arr t).word (16 * j + i / 128) (i % 128)).toNat
  | .mem pa => natOfBytes (s.bytes (pa + 4 * i) 4)
def putImgWord (s : State) (i v : Nat) : ImgAt → State
  | .stripe t j => s.setArr t ((s.arr t).setWord (16 * j + i / 128) (i % 128) (BitVec.ofNat 32 v) none)
  | .mem pa => rawWrite s (pa + 4 * i) (bytesOfNat 4 v)

/-- A word of an image changes, and ICHK with it: CSUM32 is a ones' complement sum (R91, R391). -/
def changeImgWord (s : State) (a : ImgAt) (i v : Nat) : State :=
  putImgWord (putImgWord s 5 (csum32 (imgWord s 5 a) [2 ^ 32 - 1 - imgWord s i a, v]) a) i v a

/-- The token table of a task's image follows its tokens (R94, R391). -/
def saveToken (s : State) (n k : Nat) (w : W64) : State :=
  match savedAt s n with
  | none => s
  | some a => changeImgWord (changeImgWord s a (208 + 2 * k) (w.toNat % 2 ^ 32)) a (209 + 2 * k) (w.toNat / 2 ^ 32)

/-- The reply token of a PORT's command enters the PORT (R95), whoever holds the element by then.
DEDUCED: notes/assumptions/54.md. DESIGN CHOICE: notes/assumptions/104.md. -/
def replyTo (s : State) (u e v tk : Nat) (w : W64) : State :=
  let x := s.elemOf u e
  let t : Tok := { vc := v % 32, slot := v / 32, val := BitVec.ofNat 512 (w.toNat + tk % 256 * 2 ^ 64), at' := s.cycle }
  s.setElem u e { x with inbox := x.inbox ++ [t] }

/-- A COPY packet completes with its command's token status (R356, R412). -/
def packetStatus (s : State) (q n : Nat) (w : W64) (cov : List WId) : State :=
  let k := tget ({} : Queue) s.queues q
  let f (p : Packet) : Packet :=
    if p.n = n then { p with done := true, fin := k.packets.foldl (fun m p => max m p.fin) 0 + 1, status := bits w.toNat 13 8, detail := bits w.toNat 31 21, value := w, cov := p.cov ++ cov } else p
  { s with queues := tput s.queues q { k with packets := k.packets.map f } }

/-- ENGINE_CMD_COMPLETE: the token takes its status; DONE releases the command's writes and its read floor (R92,
R341). -/
def execEngineCmdComplete (e : Eng) (id : Nat) (s : State) : Out :=
  match cmdOf s e id with
  | none => .next s
  | some c => match c.st with
    | .ending w =>
      let x := s.eng e
      let gone (r : Nat) : Bool := r == reqId 7 id || r == reqId 15 id
      let s0 := s.setEng e { x with q := x.q.filter fun d => d.id != id }
      let s1 := dropBanks (dropReqs s0 (cmdUnit e c) gone) gone
      let cov := if w.toNat % 4 = 2 then (s.ag (.cmd id)).written ++ c.floor else []
      let s2 := match c.task with
        | some n => saveToken (s1.setToken n c.tkp { word := w, cov := cov }) n c.tkp w
        | none => s1
      let s3 := match c.reply with
        | some (u, el, v) => replyTo s2 u el v c.tkp w
        | none => s2
      .next (match c.packet with
        | some (q, n) => packetStatus s3 q n w cov
        | none => s3)
    | _ => .next s

/-- COMMAND_RESUME: firmware resumes a paused command, or ends it FAILED with its cause (R92). -/
def execCommandResume (e : Eng) (id : Nat) (endFailed : Bool) (s : State) : Out :=
  match cmdOf s e id with
  | none => .next s
  | some c => match c.st with
    | .paused cause _ =>
      .next (if endFailed then endCmd s e c (failedWord s e c cause)
        else setCmd s e { c with st := if c.shape.isNone then .waiting else .running })
    | _ => .next s

end Sys2Proof.Machine
end

