-- ==== Sys2Proof/Machine/Torus.lean ====
section
/-!
DEFINITION. Torus links and link copies (R18, R96, R98, R415-R419).
What the manual does not fix of a packet is fixed here: its TAG, and that a read request asks for one
flit (notes/assumptions/16.md).
-/
namespace Sys2Proof.Machine

/-! ### Ports and frames (R415-R417) -/

/-- DEDUCED: notes/assumptions/55.md. -/
def linkKey (die port : Nat) : Nat := die * 2 + port
def State.link (s : State) (k : Nat) : Link := tget {} s.links k
def State.setLink (s : State) (k : Nat) (l : Link) : State := { s with links := tput s.links k l }

/-- The direction of fewer hops in one dimension: port 0 is +, 1 is - (R415). -/
def dirOf (a b n : Nat) : Nat := if (b + n - a) % n ≤ (a + n - b) % n then 0 else 1
/-- The port by which a packet leaves for a module, in X, then Y, then Z; none at its end, and none in a dimension of
size 1, whose ports are unused (R18, R415). DESIGN CHOICE: notes/assumptions/13.md.
DEDUCED: notes/assumptions/55.md. -/
def routePort (s : State) (dst : Nat × Nat × Nat) : Option Nat :=
  let (dx, dy, dz) := s.mod.dims
  let (x, y, z) := s.mod.coord
  let port (die a b n : Nat) : Option Nat := if n ≤ 1 then none else some (linkKey die (dirOf a b n))
  if dst.1 ≠ x then port 1 x dst.1 dx
  else if dst.2.1 ≠ y then port 2 y dst.2.1 dy
  else if dst.2.2 ≠ z then port 3 z dst.2.2 dz
  else none

/-- A frame: 31 packet flits and the control flit with its CRC (R416). -/
def frameOf (flits : List (List Byte)) (seq ack : Nat) (nak : Bool) : List Byte :=
  let body := (flits.map fun f => (f ++ List.replicate 64 0).take 64).flatten
  let b := (body ++ List.replicate (31 * 64) 0).take (31 * 64)
    ++ bytesOfNat 2 seq ++ bytesOfNat 2 ack ++ bytesOfNat 1 (boolNat nak) ++ List.replicate 55 0
  b ++ bytesOfNat 4 (chkStep 2 0 [] b).1

/-- The last sequence accepted (R416). -/
def Link.ack (l : Link) : Nat := (l.recvSeq + 0xFFFF) % 0x10000

/-- A frame goes out on a port and is kept until it is acknowledged (R417). -/
def sendFrame (s : State) (k : Nat) (flits : List (List Byte)) : State :=
  let l := s.link k
  let f := frameOf flits l.sendSeq l.ack l.nakWait
  let l' := { l with kept := l.kept ++ [(l.sendSeq, f)], sendSeq := (l.sendSeq + 1) % 0x10000 }
  { s.setLink k l' with outbox := s.outbox ++ [.frame (k / 2) (k % 2) f] }

/-- Flits in frames of 31, while no more than 8 frames are kept; `none` where there is no room. -/
def sendFlits (s : State) (k : Nat) (flits : List (List Byte)) : Option State :=
  let n := (flits.length + 30) / 31
  if (s.link k).kept.length + n > 8 then none
  else
    let s1 := (List.range n).foldl (fun s i => sendFrame s k ((flits.drop (31 * i)).take 31)) s
    let l := s1.link k
    some (s1.setLink k { l with flight := l.flight ++ [((l.sendSeq + 0xFFFF) % 0x10000, flits.headD [])] })

/-- A NAK goes out: in a frame of its own, or, where eight are kept, in the newest of them sent again (R417).
DEDUCED: notes/assumptions/98.md. -/
def sendNak (s : State) (k : Nat) : State :=
  let l := s.link k
  match l.kept.getLast? with
  | some (q, f) =>
    if l.kept.length < 8 then sendFrame s k []
    else
      let g := frameOf (tabulate 31 fun i => (f.drop (64 * i)).take 64) q l.ack l.nakWait
      { s with outbox := s.outbox ++ [.frame (k / 2) (k % 2) g] }
  | none => sendFrame s k []

/-- A packet's header flit (R416). -/
def headerFlit (ty : Nat) (dst src : Nat × Nat × Nat) (npay asid tag addr chk : Nat) : List Byte :=
  let xyz (p : Nat × Nat × Nat) : List Byte := bytesOfNat 1 p.1 ++ bytesOfNat 1 p.2.1 ++ bytesOfNat 1 p.2.2
  bytesOfNat 1 ty ++ xyz dst ++ xyz src ++ bytesOfNat 1 npay ++ bytesOfNat 2 asid ++ bytesOfNat 2 0
  ++ bytesOfNat 4 tag ++ bytesOfNat 8 addr ++ bytesOfNat 4 chk ++ List.replicate 36 0

/-- DESIGN CHOICE: notes/assumptions/16.md. -/
def flitsOf : Nat → List Byte → List (List Byte)
  | 0, _ => []
  | n + 1, b => (b.take 64 ++ List.replicate (64 - min 64 b.length) 0) :: flitsOf n (b.drop 64)

/-- TAG of a packet: the command; its first packet, its last; whether the data is poisoned; the check mode and the
element size, by which the receiver computes and writes; and how many bytes of the last flit are padding.
DESIGN CHOICE: notes/assumptions/16.md. -/
def tagOf (c : Cmd) (esz pad : Nat) (first last bad : Bool) : Nat :=
  c.id % 2 ^ 15 + 2 ^ 15 * boolNat first + 2 ^ 16 * boolNat last + 2 ^ 17 * boolNat bad + 2 ^ 18 * c.chkMode
  + 2 ^ 20 * esz + 2 ^ 26 * pad
def tagCmd (tag : Nat) : Nat := tag % 2 ^ 15
def tagPad (tag : Nat) : Nat := tag / 2 ^ 26 % 64

/-! ### A port's turns (R96) -/

/-- Who waits for a port still does: a running command, or a port whose packets are served or forwarded. -/
def stillWants (s : State) (k : Nat) : Bool :=
  if k < 2 ^ 32 then s.engines.any fun (_, e) => e.q.any fun c => c.id == k && c.st == .running
  else !(s.link (k - 2 ^ 32)).inq.isEmpty

/-- A packet of `n` flits that is ready asks for a port: it goes when the frames have room and no other has waited
longer, one packet at a time (R96, R417). -/
def askPort (s : State) (k who n : Nat) : Bool × State :=
  let l := s.link k
  let want := l.want.filter (stillWants s)
  if l.kept.length + (n + 30) / 31 ≤ 8 ∧ want.all (fun w => w == who) ∨ l.kept.length + (n + 30) / 31 ≤ 8 ∧ want.head? = some who then
    (true, s.setLink k { l with want := want.filter (· != who) })
  else (false, s.setLink k { l with want := if want.contains who then want else want ++ [who] })

/-- Packets that a port receives wait as one stream. -/
def streamKey (k : Nat) : Nat := 2 ^ 32 + k

/-! ### Link copies (R96) -/

def Cmd.peerCoord (c : Cmd) : Nat × Nat × Nat := (bits c.peer 4 0, bits c.peer 12 8, bits c.peer 19 16)
def Cmd.peerAsid (c : Cmd) : Nat := bits c.peer 43 32

/-- A link command whose route's port is down ends with LINK_DOWN (R418). -/
def withPort (e : Eng) (s : State) (c : Cmd) (f : Nat → State) : State :=
  match routePort s c.peerCoord with
  | none => endCmd s e c (failedWord s e c 0x16)
  | some k => if (s.link k).state = 0 then endCmd s e c (failedWord s e c 0x1C) else f k

/-- The bytes at the head of the data gathered that are all poisoned or all sound. -/
def sameRun (bad : List Bool) : Nat :=
  match bad with
  | [] => 0
  | x :: _ => (bad.takeWhile (· == x)).length

/-- CMD_LPUSH: source bytes go out in write packets of up to 30 flits, poisoned and sound bytes apart; the command
ends when every packet has been answered, with the check value of the last answer, which the receiving module
computes (R63, R91, R96, R341). The first packet carries the initial value. -/
def execCmdLpush (e : Eng) (id : Nat) (s : State) : Out :=
  cmdTurn e id 2 (fun s c h => withPort e s c fun k =>
    let past := decide (c.pos ≥ h.count)
    let run := sameRun c.bad
    if run ≥ 30 * 64 || decide (run < c.data.length) || (past && !c.data.isEmpty) then
      let n := min run (30 * 64)
      let np := (n + 63) / 64
      match askPort s k c.id (np + 1) with
      | (false, s) => s
      | (true, s) =>
        let last := past && n == c.data.length
        let tag := tagOf c h.esz (np * 64 - n) (c.sent == 0) last (c.bad.headD false)
        let hd := headerFlit 1 c.peerCoord s.mod.coord np c.peerAsid tag (c.remoteVa + c.moved) (if c.sent = 0 then c.chk else 0)
        match sendFlits s k (hd :: flitsOf np (c.data.take n)) with
        | none => s
        | some s => setCmd s e { c with data := c.data.drop n, bad := c.bad.drop n, moved := c.moved + n, sent := c.sent + 1 }
    else if past then
      if c.got < c.sent then s else endCmd s e c (doneWord s e c (if c.chkMode = 0 then 0 else c.chk))
    else sendElem e s c h fun s c b bad => setCmd s e { c with data := c.data ++ b, bad := c.bad ++ bad }) s

/-! ### Pulls (R96, R98) -/

/-- CMD_LPULL: read requests of one flit go out, one outstanding, the last for the bytes that are left; the data that
comes back is written in visit order (R96, R98). -/
def execCmdLpull (e : Eng) (id : Nat) (s : State) : Out :=
  cmdTurn e id 3 (fun s c h => withPort e s c fun k =>
    let n := 2 ^ h.esz
    if c.pos ≥ h.count then
      endCmd s e c (doneWord s e c (chkEnd c.chkMode c.chk c.tail))
    else if c.data.length ≥ n then
      takeElem e s c h (c.data.take n) (c.bad.take n) (c.data.drop n) (c.bad.drop n)
    else if c.sent > c.got then s
    else match askPort s k c.id 1 with
      | (false, s) => s
      | (true, s) =>
        let hd := headerFlit 2 c.peerCoord s.mod.coord 0 c.peerAsid 
          (tagOf c h.esz (64 - min 64 (h.bytes - 64 * c.sent)) (c.sent == 0) false false) (c.remoteVa + 64 * c.sent) 0
        match sendFlits s k [hd] with
        | none => s
        | some s => setCmd s e { c with sent := c.sent + 1 }) s

/-- Poison of bytes read from an address on: bit j for the j-th aligned group of 16 bytes they touch (R63).
DESIGN CHOICE: notes/assumptions/16.md. -/
def poisonMask (l : List (Byte × Bool)) (va : Nat) : Nat :=
  natSum ((List.range 5).map fun j =>
    if (List.range l.length).any fun i => (va % 16 + i) / 16 == j && (l[i]?).any (·.2) then 2 ^ j else 0)

/-- An answer reaches the command its TAG names (R96, R416): of read data CHK names what is poisoned. -/
def answerCmd (s : State) (die port ty tag va chk : Nat) (pay : List Byte) : State :=
  let es : List Eng := (List.range 8).map fun i => .link (i / 2) (i % 2)
  match es.findSome? fun e => ((s.eng e).q.find? fun c => tagCmd c.id == tagCmd tag).map fun c => (e, c) with
  | none => s
  | some (e, c) =>
    let live := match c.st with
      | .running => true
      | .paused _ _ => true
      | _ => false
    if !live then s
    else if ty = 5 then
      endCmd s e c (if chk % 64 = 0x1C then failedWord s e c 0x1C
      else statusWord 3 (engCode e) 0x17 false true (chk % 64) (openChk s c))
    else if ty = 4 then setCmd s e { c with got := c.got + 1, chk := chk }
    else
      let n := 64 - tagPad tag
      -- read data is received by the engine of the port it arrives at (R438)
      let s0 := if c.got = 0 then injBegin s die port (pullKey c.id) else s
      let (pay', s1) := injData s0 die (pullKey c.id) (64 * c.got) (pay.take n)
      setCmd s1 e { c with
        got := c.got + 1, data := c.data ++ pay'
        bad := c.bad ++ tabulate n fun i => bit chk ((va % 16 + i) / 16) }

/-! ### Serving packets (R96, R415, R416) -/

/-- What serves a peer's access: pieces, or the cause it meets; `none` while a walk runs (R96). -/
def peerAccess (s : State) (die port asid va n need : Nat) : Option (Except Nat (List (Nat × Nat))) × State :=
  let a := tget ({} : Asid) s.asids asid
  if !a.live || !a.link then (some (.error 0x17), s)
  else if va ≥ 2 ^ 52 then (some (.error 0x10), s)
  else match vaPieces (68 + 2 * die + port) asid a.root true (reqId 8 asid) need false 3 va n s with
    | (.wait, s) => (none, s)
    | (.fail c _, s) => (some (.error c), s)
    | (.ok ps, s) => (some (.ok ps), s)

def coordNum (p : Nat × Nat × Nat) : Nat := p.1 + 32 * p.2.1 + 1024 * p.2.2

/-- What a peer's push may release with its writes: of the pushes of that peer that are over, those whose tokens it
consumed there, which its packets do not say (R342, R346). DEDUCED: notes/assumptions/87.md. -/
def peerFloor (s : State) (peer : Nat) : List WId :=
  let l := s.mem.ags.filterMap fun (a, m) => match a with
    | .peer p _ => if p = peer ∧ !(s.engines.any fun (_, e) => e.rcvd.any fun r => .peer r.peer r.id == a) then some m.written else none
    | _ => none
  ((List.range l.length).map fun i => if choose s (960 + i) 2 = 1 then l.getD i [] else []).flatten

/-- The peer command a write packet belongs to; its first packet begins it (R91, R98, R342, R438). -/
def rcvOf (s : State) (e : Eng) (peer tag chk : Nat) : Rcv × State :=
  let x := s.eng e
  match if bit tag 15 then none else x.rcvd.find? fun r => r.peer == peer && r.tag == tagCmd tag with
  | some r => (r, s)
  | none =>
    let id := s.mod.nextCmd
    let r : Rcv := { peer := peer, tag := tagCmd tag, id := id, chk := chk }
    let fl := peerFloor s peer
    let s1 := { s.setEng e { x with rcvd := (x.rcvd.filter fun q => !(q.peer == peer && q.tag == tagCmd tag)) ++ [r] } with
                mod := { s.mod with nextCmd := id + 1 } }
    let s2 := s1.newAgent (.peer peer id) none fl
    let s3 := s2.setAg (.peer peer id) { s2.ag (.peer peer id) with fenceRels := [{ ag := .peer peer id, scope := .sys, cov := fl }] }
    (r, injBegin s3 (engDie e) (engNum e) (pushKey id))

/-- A peer's write packet begins to be written: the command it belongs to, and its data as LCINJ leaves it (R98). -/
def beginPush (s : State) (e : Eng) (k peer tag chk : Nat) (b : List Byte) : Rcv × List Byte × State :=
  match (s.link k).pay, (s.eng e).rcvd.find? fun r => r.peer == peer && r.tag == tagCmd tag with
  | some b, some r => (r, b, s)
  | _, _ =>
    let (r, s) := rcvOf s e peer tag chk
    let (b, s) := injData s (engDie e) (pushKey r.id) r.count b
    (r, b, s.setLink k { s.link k with pay := some b })

/-- A peer's write packet has been written: the check value so far, over the bytes as they are at the destination
(R89, R91). -/
def endPush (s : State) (e : Eng) (r : Rcv) (tag : Nat) (b : List Byte) : Nat × State :=
  let mode := bits tag 19 18
  let (c, tail) := chkStep mode r.chk r.tail b
  let x := s.eng e
  let r' := { r with count := r.count + b.length, chk := c, tail := tail }
  let s := if bit tag 16 then injEnd (s.setEng e { x with rcvd := x.rcvd.filter fun q => q.id != r.id }) (pushKey r.id)
    else s.setEng e { x with rcvd := x.rcvd.map fun q => if q.id = r.id then r' else q }
  (if mode = 0 then 0 else if bit tag 17 then choose s 930 (2 ^ 32) else chkEnd mode c tail, s)

/-- A push that fails is LCINJ's target no longer (R98). -/
def dropPush (s : State) (e : Eng) (peer tag : Nat) : State :=
  match (s.eng e).rcvd.find? fun r => r.peer == peer && r.tag == tagCmd tag with
  | some r => injEnd s (pushKey r.id)
  | none => s

/-- The port of a bank by which a die's link engine reaches it, with the least cycles there (R100, R104). -/
def linkWay (die : Nat) (b : Nat × Nat) : Nat × Nat := (3, dieLat die b)

/-- A packet for this module is served by the engine of its port (R438); whether it has been, or must wait. -/
def servePacket (s : State) (die port : Nat) (hd : List Byte) (pay : List Byte) : Bool × State :=
  let ty := blk hd 0 1
  let e : Eng := .link die port
  let src := (blk hd 4 1, blk hd 5 1, blk hd 6 1)
  let peer := coordNum src
  let asid := bits (blk hd 8 2) 11 0
  let tag := blk hd 12 4
  let va := blk hd 16 8
  -- the answer's port and room come first
  let (ready, out, s) : Bool × Option Nat × State := match routePort s src with
    | none => (true, none, s)
    | some k =>
      if (s.link k).state = 0 then (true, none, s)
      else
        let (ok, s) := askPort s k (streamKey (linkKey die port)) 2
        (ok, some k, s)
  let answer (s : State) (ty chk : Nat) (pay : List Byte) : Bool × State :=
    match out with
    | none => (true, s)
    | some k =>
      let n := (pay.length + 63) / 64
      (true, (sendFlits s k (headerFlit ty src s.mod.coord n asid tag va chk :: flitsOf n pay)).getD s)
  let failed (s : State) (c : Nat) : Bool × State := answer (s.reportF c (64 + die) 0 (bytesOfNat 8 va)) 5 c []
  let who := reqId 8 (2 * die + port)
  let lk := linkKey die port
  if ty ≠ 1 ∧ ty ≠ 2 then (true, answerCmd s die port ty tag va (blk hd 24 4) pay)
  else if !ready then (false, s)
  else if ty = 1 then
    let n := pay.length - tagPad tag
    match peerAccess s die port asid va n pWR with
    | (none, s) => (false, s)
    | (some (.error c), s) => failed (dropPush s e peer tag) c
    | (some (.ok ps), s) =>
      let (r, b, s) := beginPush s e lk peer tag (blk hd 24 4) (pay.take n)
      match linesWrite s (linkWay die) who 256 none ps
          (writeLineOf (.peer peer r.id) (fun _ => false) (elemUnit (bits tag 22 20) va) (b.map fun x => (x, bit tag 17))) with
      | (none, s) => (false, s)
      | (some d, s) =>
        let (chk, s) := endPush s e r tag (d.map (·.1))
        answer s 4 chk []
  else
    match peerAccess s die port asid va (64 - tagPad tag) pRD with
    | (none, s) => (false, s)
    | (some (.error c), s) => failed s c
    | (some (.ok ps), s) =>
      let a := AgentId.peer peer (2 ^ 32 + tagCmd tag)
      let s := if (s.link lk).pay.isSome then s
        else (if bit tag 15 then s.newAgent a none else s).setLink lk { s.link lk with pay := some [] }
      match lineAccess s (linkWay die) who 256 none false ps (lineRead a (elemUnit (bits tag 22 20) va)) with
      | (none, s) => (false, s)
      | (some d, s) => answer s 3 (poisonMask d va) (d.map (·.1))

/-- A packet whose port is down ends with LINK_DOWN: a request's sender is told, and what cannot be told is reported
(R418). DEDUCED: notes/assumptions/98.md. -/
def endPacket (s : State) (hd : List Byte) : List (List Byte) × State :=
  let ty := blk hd 0 1
  let src := (blk hd 4 1, blk hd 5 1, blk hd 6 1)
  if (ty = 1 ∨ ty = 2) ∧ src ≠ s.mod.coord then
    ([headerFlit 5 src s.mod.coord 0 (blk hd 8 2) (blk hd 12 4) (blk hd 16 8) 0x1C], s)
  else ([], if src = s.mod.coord ∧ (ty = 1 ∨ ty = 2) then s else s.reportF 0x1C 64 0 (hd.take 32))

/-- LINK_COPY_SERVE: the packet at the head of a port's flits is served, or forwarded (R96, R415). -/
def execLinkCopyServe (die port : Nat) (s : State) : Out :=
  let k := linkKey die port
  let l := s.link k
  match l.inq with
  | [] => .next s
  | hd :: rest =>
    let n := min 64 (blk hd 7 1)
    let drop (s : State) : State := s.setLink k { s.link k with inq := rest.drop n, pay := none }
    let down (s : State) : State :=
      let (l, s) := endPacket s hd
      s.setLink k { s.link k with inq := l ++ rest.drop n, pay := none }
    if blk hd 0 1 = 0 then .next (s.setLink k { l with inq := rest })
    else if rest.length < n then .next s
    else
      let dst := (blk hd 1 1, blk hd 2 1, blk hd 3 1)
      if dst = s.mod.coord then
        match servePacket s die port hd (rest.take n).flatten with
        | (true, s) => .next (drop s)
        | (false, s) => .next s
      else match routePort s dst with
        | none => .next (drop s)
        | some out =>
          if (s.link out).state = 0 then .next (down s)
          else match askPort s out (streamKey k) (n + 1) with
            | (false, s) => .next s
            | (true, s) => match sendFlits s out (hd :: rest.take n) with
              | some s => .next (drop s)
              | none => .next s

/-! ### Frames (R417, R418) -/

/-- Sequence `a` is not after `b`, around the wrap. -/
def seqLe (a b : Nat) : Bool := decide ((b + 0x10000 - a) % 0x10000 < 0x8000)

def sat16 (n : Nat) : Nat := min 0xFFFF n

/-- Flits of a frame that are not idle, or follow a packet's header. -/
def packetFlits (more : Nat) : List (List Byte) → List (List Byte)
  | [] => []
  | f :: t =>
    if more > 0 then f :: packetFlits (more - 1) t
    else if blk f 0 1 = 0 then packetFlits 0 t
    else f :: packetFlits (min 64 (blk f 7 1)) t

/-- Payload flits still owed by the packets received so far. -/
def owed : Nat → List (List Byte) → Nat
  | n, [] => n
  | n, f :: t => if n > 0 then owed (n - 1) t else owed (min 64 (blk f 7 1)) t

/-- LINK_FRAME_RECEIVE: a frame is checked, acknowledged or refused, and its flits are taken in sequence
order (R416, R417); a CRC failure counts as a corrected error of the link (R428). -/
def execLinkFrameReceive (die port : Nat) (frame : List Byte) (s : State) : Out :=
  let k := linkKey die port
  let l := s.link k
  let crcOk := frame.length == 2048 && (chkStep 2 0 [] (frame.take 2044)).1 == blk frame 2044 4
  if l.state ≠ 2 then .next s
  else if !crcOk then
    .next (sendNak (countError (s.setLink k { l with crcerr := sat16 (l.crcerr + 1), nakWait := true }) (2048 + k) false) k)
  else
    let seq := blk frame 1984 2
    let ack := blk frame 1986 2
    let nak := bit (blk frame 1988 1) 0
    let kept := l.kept.filter fun f => !seqLe f.1 ack
    let l1 := { l with kept := kept, flight := l.flight.filter fun f => !seqLe f.1 ack
                       resends := if kept.length < l.kept.length then 0 else l.resends }
    let s1 := s.setLink k l1
    -- a NAK has the frames from the expected one sent again
    let s2 := if nak then { s1 with agenda := .ev (.linkReplay die port ((ack + 1) % 0x10000)) :: s1.agenda } else s1
    if seq ≠ l.recvSeq then
      if l.nakWait || !seqLe l.recvSeq seq then .next s2
      else .next (sendNak (s2.setLink k { l1 with nakWait := true }) k)
    else
      let flits := tabulate 31 fun i => (frame.drop (64 * i)).take 64
      let more := owed 0 l.inq
      let new := packetFlits more flits
      let l2 := { l1 with recvSeq := (seq + 1) % 0x10000, nakWait := false, inq := l1.inq ++ new }
      let s3 := s2.setLink k l2
      .next (if new.isEmpty || decide (kept.length ≥ 8) then s3 else sendFrame s3 k [])

/-- The packets at the head of a port's flits that have arrived whole, and what is left (R416). -/
def wholePackets : Nat → List (List Byte) → List (List Byte) × List (List Byte)
  | 0, l => ([], l)
  | _, [] => ([], [])
  | fuel + 1, hd :: t =>
    let n := min 64 (blk hd 7 1)
    if t.length < n then ([], hd :: t)
    else
      let (a, b) := wholePackets fuel (t.drop n)
      (hd :: t.take n ++ a, b)

/-- A port goes down: commands whose route crosses it, and packets in flight on it, end with LINK_DOWN (R418). What
has arrived whole is served. -/
def portDown (s : State) (k : Nat) : State :=
  let l := s.link k
  let (whole, part) := wholePackets l.inq.length l.inq
  let (told, s1) := (l.flight.map (·.2) ++ part.take 1).foldl (fun (acc : List (List Byte) × State) hd =>
    let (m, s) := endPacket acc.2 hd
    (acc.1 ++ m, s)) ([], s)
  let s2 := s1.setLink k { s1.link k with state := 0, kept := [], flight := [], inq := whole ++ told, resends := 0 }
  (List.range 8).foldl (fun s i =>
    let e : Eng := .link (i / 2) (i % 2)
    (s.eng e).q.foldl (fun s c =>
      match c.st with
      | .ending _ => s
      | _ => if routePort s c.peerCoord = some k then endCmd s e c (failedWord s e c 0x1C) else s) s) s2

def lanesFor (w : Nat) : Nat := if w = 0 then 16 else if w = 1 then 8 else 4

/-- A port trains at the widest width from `w` on that its lanes allow, or goes down; kept frames are sent
again (R418). A port below 16 lanes or down shows in the health state (R429). -/
def trainAt (s : State) (die port w : Nat) (lanes : BitVec 16) : State :=
  let k := linkKey die port
  let l := s.link k
  let n := onesOf 16 lanes.toNat
  match ([0, 1, 2].filter fun v => decide (v ≥ w) && decide (lanesFor v ≤ n)).head? with
  | none => raiseHealth (portDown (s.setLink k { l with laneok := lanes.toNat }) k) 2
  | some v =>
    let l' := { l with laneok := lanes.toNat, width := v, state := 2, resends := 0
                       replay := sat16 (l.replay + l.kept.length) }
    raiseHealth { s.setLink k l' with outbox := s.outbox ++ l.kept.map fun f => OutMsg.frame die port f.2 } (min v 1)

/-- LINK_REPLAY: every kept frame from the named one is sent again, in order (R417); the fourth time in a row the port
retrains to the next narrower width (R418). -/
def execLinkReplay (die port seq : Nat) (s : State) : Out :=
  let k := linkKey die port
  let l := s.link k
  let go := l.kept.filter fun f => seqLe seq f.1
  if go.isEmpty then .next s
  else
    let l' := { l with replay := sat16 (l.replay + go.length), resends := l.resends + 1 }
    if l.resends ≥ 3 then .next (trainAt (s.setLink k l') die port (min 2 (l.width + 1)) (BitVec.ofNat 16 l.laneok))
    else .next { s.setLink k l' with outbox := s.outbox ++ go.map fun f => .frame die port f.2 }

/-- LINK_RETRAIN: after four resends in a row, or a lane's loss, the port is narrower or down (R418). -/
def execLinkRetrain (die port : Nat) (lanes : BitVec 16) (s : State) : Out :=
  let l := s.link (linkKey die port)
  if l.state = 0 then .next s
  else .next (trainAt s die port (min 2 (l.width + 1)) lanes)

/-- FIRMWARE_RETRAINING may restore a width (R418). -/
def execFirmwareRetraining (die port : Nat) (lanes : BitVec 16) (s : State) : Out :=
  .next (trainAt s die port 0 lanes)

/-- LNKSTAT.CLR (R419). -/
def execLnkstatClr (die port : Nat) (s : State) : Out :=
  let k := linkKey die port
  .next (s.setLink k { s.link k with crcerr := 0, replay := 0 })

/-- LNKSTAT (R419). -/
def lnkstat (l : Link) : Nat :=
  l.state + 4 * l.width + 2 ^ 16 * l.laneok + 2 ^ 32 * l.replay + 2 ^ 48 * l.crcerr

end Sys2Proof.Machine
end

