-- ==== Sys2Proof/Machine/Saved.lean ====
section
/-!
DEFINITION. The collar section of a pre-emption image: what it holds as bytes, and what a resume reads back (R116, R118,
R134, R391, R392). R391 names the contents and gives no offsets: the order within a record is the model's.
DESIGN CHOICE: notes/assumptions/46.md.
-/
namespace Sys2Proof.Machine

/-! ### Words of 8 bytes -/

def wordBytes (l : List Nat) : List Byte := (l.map (bytesOfNat 8)).flatten
def wordsOf : Nat → List Byte → List Nat
  | 0, _ => []
  | n + 1, b => natOfBytes (b.take 8) :: wordsOf n (b.drop 8)

/-- A reader takes its words from the front of what is left. -/
abbrev Rd := StateM (List Nat)
def rd : Rd Nat := fun l => (l.headD 0, l.drop 1)
def rdTake (n : Nat) : Rd (List Nat) := fun l => (l.take n, l.drop n)

/-- Limbs of 64 bits. -/
def limbs (n v : Nat) : List Nat := tabulate n fun i => (v >>> (64 * i)) % 2 ^ 64
def ofLimbs (l : List Nat) : Nat := l.foldr (fun w acc => w + 2 ^ 64 * acc) 0
/-- A number of any size: its limbs, after their count. -/
def wBig (v : Nat) : List Nat := let n := v.log2 / 64 + 1; n :: limbs n v
def rBig : Rd Nat := do return ofLimbs (← rdTake (← rd))
def wLine (v : Line) : List Nat := limbs 8 v.toNat
def rLine : Rd Line := do return BitVec.ofNat 512 (ofLimbs (← rdTake 8))

def wList {α : Type} (f : α → List Nat) (l : List α) : List Nat := l.length :: (l.map f).flatten
def rTimes {α : Type} (f : Rd α) : Nat → Rd (List α)
  | 0 => pure []
  | n + 1 => do
    let a ← f
    return a :: (← rTimes f n)
/-- A list is no longer than the words that are left. -/
def rList {α : Type} (f : Rd α) : Rd (List α) := fun l => rTimes f (min l.length (l.headD 0)) (l.drop 1)
def wTbl {α : Type} (f : α → List Nat) (l : Tbl α) : List Nat := wList (fun (k, v) => k :: f v) l
def rTbl {α : Type} (f : Rd α) : Rd (Tbl α) := rList do return (← rd, ← f)
def wOpt {α : Type} (f : α → List Nat) : Option α → List Nat
  | none => [0]
  | some a => 1 :: f a
def rOpt {α : Type} (f : Rd α) : Rd (Option α) := do
  if (← rd) = 0 then return none else return some (← f)
def wBool (b : Bool) : List Nat := [boolNat b]
def rBool : Rd Bool := do return (← rd) != 0
def wBigs (l : List Nat) : List Nat := wList wBig l
def rBigs : Rd (List Nat) := rList rBig

/-! ### Tokens and pennants (R118, R119) -/

/-- The sideband of R118 in its 20 bits, and above them what a token carries hidden. -/
def Tok.side (q : Tok) : Nat :=
  q.lcnt % 128 + 2 ^ 7 * (q.seq % 16) + 2 ^ 11 * (q.dom % 4) + 2 ^ 13 * boolNat q.bnr + 2 ^ 14 * boolNat q.eos
  + 2 ^ 15 * (q.vc % 32) + 2 ^ 20 * (q.rgn % 4) + 2 ^ 22 * (q.slot % 4) + 2 ^ 24 * (q.plane % 4) + 2 ^ 26 * (q.src % 512)
  + 2 ^ 35 * (match q.fmt with
    | some f => f % 32 + 1
    | none => 0) + 2 ^ 41 * boolNat q.flt + 2 ^ 42 * boolNat q.bad
/-- A token's 64 bytes of values and its 8-byte sideband. -/
def wTok (q : Tok) : List Nat := wLine q.val ++ [q.side]
def tokOf (v : Line) (w : Nat) : Tok :=
  { val := v, lcnt := bits w 6 0, seq := bits w 10 7, dom := bits w 12 11, bnr := bit w 13, eos := bit w 14, vc := bits w 19 15
    rgn := bits w 21 20, slot := bits w 23 22, plane := bits w 25 24, src := bits w 34 26
    fmt := if bits w 40 35 = 0 then none else some (bits w 40 35 - 1), flt := bit w 41, bad := bit w 42 }
def rTok : Rd Tok := do return tokOf (← rLine) (← rd)
def wPen (q : Pen) : List Nat :=
  [q.vc % 32 + 2 ^ 5 * boolNat q.val + 2 ^ 6 * boolNat q.eos + 2 ^ 20 * (q.rgn % 4) + 2 ^ 22 * (q.slot % 4)
    + 2 ^ 24 * (q.plane % 4) + 2 ^ 26 * (q.src % 512) + 2 ^ 42 * boolNat q.bad]
def penOf (w : Nat) : Pen :=
  { vc := bits w 4 0, val := bit w 5, eos := bit w 6, rgn := bits w 21 20, slot := bits w 23 22, plane := bits w 25 24
    src := bits w 34 26, bad := bit w 42 }
def rPen : Rd Pen := do return penOf (← rd)

/-! ### The bank and the plane (R116, R386, R387) -/

def wDesc (d : Desc) : List Nat := wBig d.base ++ wBigs d.cnt ++ wBigs d.str ++ wBig d.ctl
def rDesc : Rd Desc := do return { base := ← rBig, cnt := ← rBigs, str := ← rBigs, ctl := ← rBig }

def wOpState (o : OpState) : List Nat :=
  wBool o.on ++ wBig o.dom ++ wOpt wBig o.held ++ wOpt wDesc o.desc ++ wBool o.wantDesc ++ wBig o.t ++ wBig o.ph ++ wBig o.k
  ++ wBigs o.vals ++ wBig o.seq0 ++ wBig o.cnt ++ wList wLine o.rows ++ wList wTok o.outq ++ wBig o.thv ++ wBig o.bmap
  ++ wBigs o.scales ++ wTbl wLine o.table ++ wOpt wBigs o.req ++ wOpt wBig o.grant ++ wBig o.value
/-- Where an operation stands: a stream it has started may fire at once. -/
def rOpState : Rd OpState := do
  return { on := ← rBool, dom := ← rBig, held := ← rOpt rBig, desc := ← rOpt rDesc, wantDesc := ← rBool, t := ← rBig
           ph := ← rBig, k := ← rBig, vals := ← rBigs, seq0 := ← rBig, cnt := ← rBig, rows := ← rList rLine
           outq := ← rList rTok, thv := ← rBig, bmap := ← rBig, scales := ← rBigs, table := ← rTbl rLine
           req := ← rOpt rBigs, grant := ← rOpt rBig, value := ← rBig }

def wBank (b : Bank) : List Nat :=
  wTbl wLine b.e ++ wTbl wLine b.c ++ wBigs b.gens
  ++ [boolNat b.iv + 2 * boolNat b.dz + 4 * boolNat b.ovf + 8 * boolNat b.uf + 16 * boolNat b.sclamp]
  ++ wBig b.sat ++ wBig b.ufl ++ wBig b.rsv ++ wBig b.disc ++ wTbl wBig b.ctr ++ wOpState b.st
def rBank : Rd Bank := do
  let e ← rTbl rLine
  let c ← rTbl rLine
  let g ← rBigs
  let f ← rd
  return { e := e, c := c, gens := g, iv := bit f 0, dz := bit f 1, ovf := bit f 2, uf := bit f 3, sclamp := bit f 4
           sat := ← rBig, ufl := ← rBig, rsv := ← rBig, disc := ← rBig, ctr := ← rTbl rBig, st := ← rOpState }

def wBufLine (l : BufLine) : List Nat :=
  wBig l.ivl ++ wBig l.str ++ wBig l.pa ++ l.bytes.length :: limbs 8 (natOfBytes l.bytes)
def rBufLine : Rd BufLine := do
  let i ← rBig
  let k ← rBig
  let a ← rBig
  let n ← rd
  return { ivl := i, str := k, pa := a, bytes := bytesOfNat (min 64 n) (ofLimbs (← rdTake 8)) }

/-- A plane that holds a context, but for its words, which come again from its image (R392): `k` is the banner
interval, and without one there are no cuts. -/
def wPlane (k : Nat) (y : Plane) : List Nat :=
  let cut (c : Nat × Bank) : List Nat := wBig c.1 ++ wBank c.2
  [y.image, boolNat y.atend + 2 * boolNat y.ended + 4 * boolNat y.trapped] ++ wBank y.bank
  ++ (if k = 0 then [0, 0] else wOpt cut y.cutDone ++ wList cut y.cuts)
  ++ wList wTok y.qa ++ wList wTok y.qb ++ wList wTok y.qc ++ wList wPen y.qp
  ++ wList wBufLine y.lines ++ wBig y.lineTo ++ wTbl wBig y.taken ++ wBig y.bnrs
  ++ wList (fun (r, v, at') => r :: wLine v ++ wBig at') y.cload
def rPlane : Rd Plane := do
  let i ← rd
  let f ← rd
  let cut : Rd (Nat × Bank) := do return (← rBig, ← rBank)
  return { loaded := true, image := i, atend := bit f 0, ended := bit f 1, trapped := bit f 2, bank := ← rBank
           cutDone := ← rOpt cut, cuts := ← rList cut, qa := ← rList rTok, qb := ← rList rTok, qc := ← rList rTok
           qp := ← rList rPen, lines := ← rList rBufLine, lineTo := ← rBig, taken := ← rTbl rBig, bnrs := ← rBig
           cload := ← rList do return (← rd, ← rLine, ← rBig) }

/-! ### Elements, boxes and regions (R134, R374, R390, R391) -/

def wFRec (f : FRec) : List Nat :=
  [f.cause, f.tile, f.unit, f.ctx, f.fseq] ++ wBig f.lanes ++ wBig f.addr ++ wBig f.pos ++ [f.asid] ++ wBig f.detail ++ wBigs f.idx
def rFRec : Rd FRec := do
  return { cause := ← rd, tile := ← rd, unit := ← rd, ctx := ← rd, fseq := ← rd, lanes := ← rBig, addr := ← rBig, pos := ← rBig
           asid := ← rd, detail := ← rBig, idx := ← rBigs }

/-- An element: its planes that hold a context, what it holds for each slot, its output entries, and the record
outstanding at it. -/
def wElem (k : Nat) (x : Elem) : List Nat :=
  wTbl (wPlane k) (x.planes.filter fun (_, y) => y.loaded) ++ wTbl wBig x.cur ++ wTbl wBig x.staged ++ wTbl wBig x.goes
  ++ wTbl wBigs x.closed ++ wBigs x.switching ++ wTbl wBig x.final ++ wTbl wBig x.strm
  ++ wList (fun o => wTok o.tok ++ wBool o.need) x.out ++ wList (fun o => wPen o.pen) x.pout ++ wList wTok x.inbox
  ++ wOpt wFRec x.fault ++ [x.place]
def rElem : Rd Elem := do
  return { planes := ← rTbl rPlane, cur := ← rTbl rBig, staged := ← rTbl rBig, goes := ← rTbl rBig, closed := ← rTbl rBigs
           switching := ← rBigs, final := ← rTbl rBig, strm := ← rTbl rBig
           out := ← rList do return { tok := ← rTok, ready := 0, need := ← rBool }
           pout := ← rList do return { pen := ← rPen, ready := 0 }
           inbox := ← rList rTok, fault := ← rOpt rFRec, place := ← rd }

/-- A region's tokens and route words in a box. -/
def wBox (r : Nat) (x : Box) : List Nat :=
  let mine (l : List Tok) : List Tok := l.filter fun q => q.rgn == r && q.vc != 31
  let pens (l : List Pen) : List Pen := l.filter fun q => q.rgn == r
  wTbl (wList wTok) ((x.dbuf.map fun (j, l) => (j, mine l)).filter fun e => !e.2.isEmpty)
  ++ wTbl (wList wPen) ((x.pbuf.map fun (j, l) => (j, pens l)).filter fun e => !e.2.isEmpty)
  ++ wList wTok (mine x.mesh) ++ wList wPen (pens x.meshPen)
  ++ wTbl wBigs (x.routes.filter fun e => e.1 / 4 == r)
def rBox : Rd Box := do
  return { dbuf := ← rTbl (rList rTok), pbuf := ← rTbl (rList rPen), mesh := ← rList rTok, meshPen := ← rList rPen
           routes := ← rTbl rBigs }

def wSwitch (w : Switch) : List Nat := [w.slot, w.to', boolNat w.partial'] ++ wOpt wBig w.op ++ wBig w.arrive
def rSwitch : Rd Switch := do
  return { slot := ← rd, to' := ← rd, partial' := ← rBool, op := ← rOpt rBig, arrive := ← rBig }

/-- The slot states of CRSTAT (R137). -/
def slotStates (g : Region) : Nat :=
  natSum (tabulate 4 fun s =>
    2 ^ (2 * s) * (if thas g.staged s && g.armed.contains s then 3 else if g.armed.contains s then 2 else if g.loading.contains s then 1 else 0))

/-- A region of a collar: the 64-byte head (its number, EMASK, BMASK, the slot states of CRSTAT and CRBNR), its
elements, its boxes, and what its switches and staged planes are. -/
def regionWords (c : Collar) (r : Nat) : List Nat :=
  let g := c.region r
  let bnr := g.k + 2 ^ 16 * natSum (tabulate 4 fun s => 2 ^ (8 * s) * (tget 0 g.cut s % 256)) + 2 ^ 48 * natSum (g.broken.map (2 ^ ·))
  [r] ++ limbs 4 g.emask ++ [g.bmask, slotStates g, bnr]
  ++ wTbl (wElem g.k) (c.elems.filter fun (e, _) => bit g.emask e)
  ++ wTbl (wBox r) (c.boxes.filter fun (b, _) => bit g.bmask b)
  ++ wOpt wBig g.last ++ wTbl (fun q => [q.1, boolNat q.2]) g.staged ++ wList wSwitch g.switches

/-- A region as it was saved. -/
structure SavedRegion where
  num : Nat
  region : Region
  elems : Tbl Elem
  boxes : Tbl Box
deriving DecidableEq, Repr

def rRegion : Rd SavedRegion := do
  let r ← rd
  let em ← rdTake 4
  let bm ← rd
  let st ← rd
  let bnr ← rd
  let es ← rTbl rElem
  let bs ← rTbl rBox
  let last ← rOpt rBig
  let staged ← rTbl do return (← rd, ← rBool)
  let sw ← rList rSwitch
  return { num := r, elems := es, boxes := bs, region :=
    { emask := ofLimbs em, bmask := bm, last := last, staged := staged, switches := sw
      armed := (List.range 4).filter fun s => decide (bits st (2 * s + 1) (2 * s) ≥ 2)
      k := bits bnr 15 0, cut := (tabulate 4 fun s => (s, bits bnr (8 * s + 23) (8 * s + 16))).filter fun e => e.2 != 0
      broken := (List.range 4).filter fun s => bit bnr (48 + s) } }

/-- The collar section of a task: its regions in order. -/
def colSection (c : Collar) (rs : List Nat) : List Byte := wordBytes (rs.map (regionWords c)).flatten

/-- The regions that the words of a section hold. -/
def regionsOf : Nat → List Nat → List SavedRegion
  | 0, _ => []
  | n + 1, l =>
    if l.isEmpty then []
    else
      let (r, rest) := rRegion l
      r :: regionsOf n rest
/-- The regions that a collar section holds. -/
def colOfImage (b : List Byte) : List SavedRegion := regionsOf 4 (wordsOf (b.length / 8) b)

end Sys2Proof.Machine
end

