-- ==== Sys2Proof/Machine/Image.lean ====
section
/-!
DEFINITION. What a task's resources are, its images, and how they are placed and freed (R106, R109,
R200, R216, R236, R303, R324, R359, R364, R366, R390-R392).
-/
namespace Sys2Proof.Machine

/-! ### Images (R391) -/

/-- Weight-driven state as the image holds it (R324). -/
def wdBytes (w : Wd) : List Byte :=
  let b := bytesOfNat 8 w.wpc ++ bytesOfNat 1 w.links.length
    ++ (tabulate 4 fun i => bytesOfNat 8 (w.links.getD i 0)).flatten
    ++ bytesOfNat 4 w.row0 ++ bytesOfNat 4 w.m ++ bytesOfNat 2 w.dfirst ++ bytesOfNat 2 w.dcnt
    ++ bytesOfNat 1 (boolNat w.dom) ++ bytesOfNat 1 w.wnext ++ bytesOfNat 1 w.wlast ++ bytesOfNat 1 (boolNat w.lv)
    ++ bytesOfNat 1 w.pairlast ++ bytesOfNat 8 w.wlastb ++ bytesOfNat 1 (boolNat w.on) ++ bytesOfNat 8 w.pc.toNat
  (b ++ List.replicate 128 0).take 128

/-- The saved system registers in ascending number (R236, R391). -/
def sysBytes (c : Ctx) (y : Sys) : List Byte :=
  let lidx (k : Nat) : W64 := match c.loops[k]? with
    | some l => l.idx
    | none => 0
  let l : List W64 := [y.tinst, y.tnode, y.vmode, y.vseed, y.vflags] ++ tabulate 6 lidx
    ++ [BitVec.ofNat 64 c.loops.length] ++ (tabulate 8 fun i => (tget 0 y.th i).setWidth 64)
    ++ [y.tcyc, y.hcyc, y.bfetch, y.bissue, y.scopeA, y.scopeB, y.scopeC]
  (l.map fun v => bytesOfNat 8 v.toNat).flatten

/-- A part of a section, at its offset: padded with zeros to a length. -/
def padTo (n : Nat) (b : List Byte) : List Byte := (b ++ List.replicate n 0).take n

/-- The sequencer section (R391). -/
def seqSection (c : Ctx) (y : Sys) (d : Decoder) (w : Wd) (toks : Tbl Token) : List Byte :=
  padTo 0x100 (tabulate 32 fun r => bytesOfNat 8 (c.getS r).toNat).flatten
  ++ padTo 0x20 (tabulate 8 fun r => bytesOfNat 4 (c.getM r).toNat).flatten
  ++ bytesOfNat 8 c.pc.toNat ++ bytesOfNat 8 c.loops.length
  ++ padTo 0xC0 (c.loops.map fun l =>
      bytesOfNat 8 l.body.toNat ++ bytesOfNat 8 l.rem.toNat ++ bytesOfNat 8 l.idx.toNat ++ bytesOfNat 8 l.stride.toNat).flatten
  ++ padTo 0x110 (sysBytes c y)
  ++ padTo 0x200 (tabulate 64 fun k => bytesOfNat 8 (tget ({} : Token) toks k).word.toNat).flatten
  ++ padTo 0x80 (y.gens.map (bytesOfNat 4)).flatten
  ++ padTo 0x80 (wdBytes w)
  ++ padTo 0x40 (bytesOfNat 8 d.addr.toNat ++ bytesOfNat 8 d.left ++ bytesOfNat 8 d.rmax ++ bytesOfNat 8 d.fifo.length)
  ++ padTo 0x800 (d.fifo.map vregBytes).flatten
  ++ padTo 0x180 []
  ++ padTo 0x1000 (tabulate 32 fun r => vregBytes (c.getV r)).flatten

/-- A header over the sections, with ICHK (R391). DEDUCED: notes/assumptions/58.md. -/
def imageBytes (kind stripes : Nat) (sec acc col spm : List Byte) : List Byte :=
  let at' (n : Nat) : List Byte := bytesOfNat 4 (if kind = 1 then n else 0)
  let c := 8192 + acc.length
  let p := c + col.length
  let hd (chk : Nat) : List Byte :=
    bytesOfNat 4 (p + spm.length) ++ bytesOfNat 1 3 ++ bytesOfNat 1 kind
    ++ bytesOfNat 2 stripes ++ at' 8192 ++ at' c ++ at' p ++ bytesOfNat 4 chk ++ List.replicate 40 0
  let body := padTo 8128 sec ++ acc ++ col ++ spm
  hd (chkStep 1 0 [] (hd 0 ++ body)).1 ++ body

/-- The accumulator section: the window's words in logical order (R200, R391). -/
def accSection (a : Array) (k : Task) : List Byte :=
  (tabulate (k.winCount * 2048) fun i => bytesOfNat 4 (a.word (16 * k.winBase + i / 128) (i % 128)).toNat).flatten

/-- A buffer's plan entry (R106). -/
def Buf.bytes (b : Buf) : List Byte :=
  bytesOfNat 4 b.off ++ bytesOfNat 4 b.size ++ bytesOfNat 4 b.first ++ bytesOfNat 4 b.last ++ bytesOfNat 1 b.kind
  ++ List.replicate 3 0 ++ bytesOfNat 4 b.sym ++ List.replicate 8 0

/-- The scratchpad section: each buffer kept, after its plan entry (R391). -/
def spmSection (s : State) (t : Nat) (keep : List Buf) : List Byte :=
  (keep.map fun b => b.bytes ++ s.bytes (spmAddr t b.off) b.size).flatten

/-- The collar section of a task resident on a tile (R391). -/
def taskColSection (s : State) (t n : Nat) : List Byte := colSection (s.collar t) ((s.task n).regions.map (·.1))

/-- The image of a task resident on a tile with this sequencer section, with all that a pre-emption saves; `keep` is
what it holds of the scratchpad (R391). DEDUCED: notes/assumptions/58.md. -/
def wholeImage (s : State) (t n : Nat) (sec : List Byte) (keep : List Buf) : List Byte :=
  let k := s.task n
  imageBytes 1 k.winCount sec (accSection (s.arr t) k) (taskColSection s t n) (spmSection s t keep)

/-- The image of the task running on a tile (R391). -/
def imageOfTask (s : State) (t n kind : Nat) (keep : List Buf := []) : List Byte :=
  let x := s.tile t
  let sec := seqSection x.ctx x.sys x.dec x.wd (s.task n).tokens
  if kind = 1 then wholeImage s t n sec keep else imageBytes kind 0 sec [] [] []

/-- Bytes of a pre-emption image that hold what cannot be read: words with a parity error and poisoned words
(R63, R102, R373). DEDUCED: notes/assumptions/89.md. -/
def imageBad (s : State) (t n : Nat) (keep : List Buf) : List Nat :=
  let k := s.task n
  let a := s.arr t
  let acc := (List.range (k.winCount * 2048)).filterMap fun i =>
    if a.accBad.contains (accIdx (16 * k.winBase + i / 128) (i % 128)) then some (8192 + 4 * i) else none
  (keep.foldl (fun (l : List Nat × Nat) b =>
    (l.1 ++ (List.range b.size).filterMap (fun i =>
      if isPoisoned s (spmAddr t (b.off + i)) then some (l.2 + 32 + i) else none), l.2 + 32 + b.size))
    (acc, 8192 + k.winCount * 8192 + (taskColSection s t n).length)).1

/-! ### What an image gives back (R391, R392) -/

/-- The image fails its checks: its level, or ICHK (R1, R200, R392). -/
def imageFails (b : List Byte) : Bool :=
  blk b 4 1 != 3 || (chkStep 1 0 [] (b.take 20 ++ List.replicate 4 0 ++ b.drop 24)).1 != blk b 20 4

/-- Registers, masks, loop stack and PC of an image. -/
def ctxOfImage (b : List Byte) (c : Ctx) : Ctx :=
  let w (o : Nat) : W64 := BitVec.ofNat 64 (blk b (64 + o) 8)
  { c with
    s := tabulate 31 fun r => (r + 1, w (8 * (r + 1)))
    m := tabulate 7 fun r => (r + 1, BitVec.ofNat 32 (blk b (64 + 0x100 + 4 * (r + 1)) 4))
    pc := w 0x120
    loops := tabulate (min 6 (blk b (64 + 0x128) 1)) fun i =>
      let o := 0x130 + 32 * i
      { body := w o, rem := w (o + 8), idx := w (o + 16), stride := w (o + 24) }
    v := tabulate 32 fun r => (r, vregOfBytes ((b.drop (64 + 0xFC0 + 128 * r)).take 128)) }

/-- System registers and generator states of an image. -/
def sysOfImage (b : List Byte) (y : Sys) : Sys :=
  let w (i : Nat) : W64 := BitVec.ofNat 64 (blk b (64 + 0x1F0 + 8 * i) 8)
  { y with
    tinst := w 0, tnode := w 1, vmode := w 2, vseed := w 3, vflags := w 4
    th := tabulate 8 fun i => (i, (w (12 + i)).setWidth 32)
    tcyc := w 20, hcyc := w 21, bfetch := w 22, bissue := w 23, scopeA := w 24, scopeB := w 25, scopeC := w 26
    gens := tabulate 32 fun i => blk b (64 + 0x500 + 4 * i) 4 }

def decOfImage (b : List Byte) (d : Decoder) : Decoder :=
  let o := 64 + 0x600
  { d with
    addr := BitVec.ofNat 64 (blk b o 8), left := blk b (o + 8) 8, rmax := blk b (o + 16) 8
    fifo := tabulate (min 16 (blk b (o + 24) 8)) fun i => vregOfBytes ((b.drop (o + 64 + 128 * i)).take 128) }

/-- The state of R324, where `wdBytes` puts it. -/
def wdOfImage (b : List Byte) (w : Wd) : Wd :=
  let n (o k : Nat) : Nat := blk b (64 + 0x580 + o) k
  { w with
    wpc := n 0 8, links := tabulate (min 4 (n 8 1)) fun i => n (9 + 8 * i) 8
    row0 := n 41 4, m := n 45 4, dfirst := n 49 2, dcnt := n 51 2, dom := bit (n 53 1) 0, wnext := n 54 1
    wlast := n 55 1, lv := bit (n 56 1) 0, pairlast := n 57 1, wlastb := n 58 8, on := bit (n 66 1) 0
    pc := BitVec.ofNat 64 (n 67 8) }

/-- The token table of an image; what a DONE covers is no part of it. -/
def tokensOfImage (b : List Byte) (l : Tbl Token) : Tbl Token :=
  (List.range 64).foldl (fun l k =>
    let w : W64 := BitVec.ofNat 64 (blk b (64 + 0x300 + 8 * k) 8)
    if (tget ({} : Token) l k).word = w then l else tput l k { tget ({} : Token) l k with word := w }) l

/-- The accumulator section's words in a window. -/
def accOfImage (b : List Byte) (base count : Nat) (a : Array) : Array :=
  let o := blk b 8 4
  (List.range (count * 2048)).foldl (fun a i =>
    a.setWord (16 * base + i / 128) (i % 128) (BitVec.ofNat 32 (blk b (o + 4 * i) 4)) none) a

/-- The regions that the collar section of a pre-emption image holds. -/
def regionsOfImage (b : List Byte) : List SavedRegion :=
  if blk b 5 1 = 1 then colOfImage ((b.drop (blk b 12 4)).take (blk b 16 4 - blk b 12 4)) else []

/-- The buffers of a scratchpad section, by slice offset. -/
def spmOfImage : Nat → List Byte → List (Nat × List Byte)
  | 0, _ => []
  | fuel + 1, b =>
    if b.length ≤ 32 then []
    else
      let n := blk b 4 4
      (blk b 0 4, (b.drop 32).take n) :: spmOfImage fuel (b.drop (32 + n))

/-! ### Resources (R108, R126, R193, R360) -/

def maskInter (a b : Nat) : Bool := (a &&& b) != 0

/-- Resident tasks of a tile: the running one, the parked ones, and those that wait to fail (R360, R392). -/
def residents (x : Tile) : List Nat := x.task.toList ++ x.parked.map (·.task) ++ x.failing.map (·.1)

/-- Windows are disjoint. -/
def winFree (b n : Nat) (k : Task) : Bool :=
  n == 0 || k.winCount == 0 || decide (b + n ≤ k.winBase) || decide (k.winBase + k.winCount ≤ b)

/-- The lowest window of `n` stripes free of every resident task's (R193). DESIGN CHOICE: notes/assumptions/47.md. -/
def findWindow (s : State) (x : Tile) (n : Nat) : Option Nat :=
  (List.range (129 - min 128 n)).find? fun b => (residents x).all fun k => winFree b n (s.task k)

/-- A node's regions: number, element mask, box mask. -/
def nodeRegions (nd : Node) : List (Nat × Nat × Nat) :=
  (maskList 4 nd.regions).map fun r => (r, (tget (0, 0) nd.masks r).1, (tget (0, 0) nd.masks r).2)

/-- The node entry a record names. -/
def nodeOf (s : State) (r : TRec) : Option Node :=
  (tget [] (tget ({} : Asid) s.asids r.asid).templates r.template)[r.node]?

/-- The stripes of a task's window: its kernel's, or what firmware chose at launch where the kernel names none (R398). -/
def Node.win (nd : Node) (r : TRec) : Nat := if nd.window = 0 then r.win else nd.window

/-- A record is dispatchable: its regions, banks and window are disjoint from every resident task's
(R360). -/
def dispatchable (s : State) (t : Nat) (r : TRec) : Bool :=
  let x := s.tile t
  match nodeOf s r with
  | none => false
  | some nd =>
    (residents x).all (fun k =>
      let y := s.task k
      !maskInter y.bankMask nd.bankMask
      && y.regions.all fun (q, em, bm) => (nodeRegions nd).all fun (r, e, b) =>
          q != r && !maskInter em e && !maskInter bm b)
    && (findWindow s x (nd.win r)).isSome

/-! ### Scratchpad on resume (R109) -/

/-- Bytes that keep their values over a resume at a bundle number: preserved buffers in their live range,
park and log buffers. -/
def keptBufs (k : Task) (bundle : Nat) : List Buf :=
  k.plan.filter fun b => b.kind == 2 || b.kind == 3 || (b.kind == 0 && decide (b.first ≤ bundle) && decide (bundle ≤ b.last))

/-- The banks of a mask read zero but for the bytes kept (R109). -/
def clearBanks (s : State) (t mask : Nat) (keep : List Buf) : State :=
  let lo := spmAddr t 0
  let out (a : Nat) : Bool :=
    let o := a - lo
    decide (lo ≤ a) && decide (o < 0x1000000) && bit mask (o / 0x100000)
      && !keep.any fun b => decide (b.off ≤ o) && decide (o < b.off + b.size)
  { s with mem := { s.mem with
      cells := s.mem.cells.filter fun c => !out c.1
      hist := s.mem.hist.filter fun c => !out c.1
      poison := s.mem.poison.filter fun a => !out a } }

/-! ### Freeing what a task held (R131, R134, R303, R366) -/

/-- A region's routes and tokens are gone. -/
def clearRegion (c : Collar) (r : Nat) : Collar :=
  let g := c.region r
  let c1 := (maskList 256 g.emask).foldl (fun c e =>
    if thas c.elems e then c.setElem e { c.elem e with switching := [], final := [], goes := [], out := [], pout := [], fault := none, inbox := [] }
    else c) c
  { c1 with
    boxes := c1.boxes.map fun (b, x) =>
      (b, { x.settle with
        routes := x.routes.filter fun k => k.1 / 4 != r
        dbuf := x.dbuf.map fun (k, l) => (k, l.filter fun t => t.rgn != r || t.vc == 31)
        pbuf := x.pbuf.map fun (k, l) => (k, l.filter fun t => t.rgn != r)
        mesh := x.mesh.filter fun t => t.rgn != r
        meshPen := x.meshPen.filter fun t => t.rgn != r })
    -- what an agrmw still returns goes to nobody
    fly := c1.fly.map fun w => if bit g.emask w.elem then { w with rmw := w.rmw.map fun m => { m with ret := false } } else w
    loads := c1.loads.filter fun l => l.rgn != r
    starts := c1.starts.filter fun a => !bit g.emask a.elem }

/-- The region of a task that has retired: no rule clears what its registers and plane windows show (R136,
R137, R303). DEDUCED: notes/assumptions/48.md. -/
def leaveRegion (c : Collar) (r : Nat) : Collar :=
  let c1 := clearRegion c r
  c1.setRegion r { c1.region r with task := none, frozen := true, switches := [] }

/-- The planes of a region are free: the windows keep words, flags and counters, and CRERR stands until it is
written (R134, R136, R137, R363). DEDUCED: notes/assumptions/48.md. -/
def freeRegion (c : Collar) (r : Nat) : Collar :=
  let c0 := clearRegion c r
  let g := c0.region r
  let c1 := (maskList 256 g.emask).foldl (fun c e =>
    if thas c.elems e then
      let x := c.elem e
      c.setElem e { x with
        planes := x.planes.map fun (p, y) =>
          (p, { y with loaded := false, qa := [], qb := [], qc := [], qp := [], bank := { y.bank with st := {} }, trapped := false
                       cload := [], cuts := [], lines := [] })
        cur := [], staged := [], closed := [] }
    else c) c0
  c1.setRegion r { crerr := g.crerr, k := g.k }

/-- A task leaves its barriers; `rel` says whether it releases what it wrote. An abort takes back what its arrival
would release (R366). -/
def leaveBarriers (s : State) (n : Nat) (rel : Bool) : State :=
  let k := s.task n
  let s1 := k.barriers.foldl (fun s b =>
    let x := s.bar b
    s.setBar b { x with
      members := x.members.erase n, arrived := x.arrived.erase n
      covs := if rel then x.covs ++ [covOf s n] else x.covs.filter fun c => c.task != n }) s
  s1.setTask n { s1.task n with barriers := [], arrived := [], stepGroup := none }

/-- The place that the next packet of a queue to complete takes in the order of completion (R412). -/
def Queue.finNext (x : Queue) : Nat := x.packets.foldl (fun m p => max m p.fin) 0 + 1

/-- A launch packet's task is over (R356). -/
def launchDone (s : State) (n cause : Nat) : State :=
  let k := s.task n
  match k.launch with
  | none => s
  | some (q, pn) =>
    let x := tget ({} : Queue) s.queues q
    let f (p : Packet) : Packet :=
      if p.n = pn ∧ p.done = false then
        let w := p.waits.erase k.trec.inst
        { p with waits := w, done := w.isEmpty, fin := x.finNext, status := if p.status = 0 then cause else p.status
                 cov := p.cov ++ coveredNow s (.task n) }
      else p
    { s with queues := tput s.queues q { x with packets := x.packets.map f } }

/-- The requesters of a tile's sequencer, weight reader and decoder (kinds 2 to 6). -/
def seqReq (r : Nat) : Bool := decide (2 ≤ r / 2 ^ 40) && decide (r / 2 ^ 40 ≤ 6)

/-- What the running task's sequencer awaits of translation and at banks is dropped when it leaves the tile (R73). -/
def dropSeqReqs (s : State) (t : Nat) : State :=
  let gone (r : Nat) : Bool := seqReq r && r % 2 ^ 40 / 2 ^ 20 == t
  dropBanks (dropReqs s t gone) gone

/-- The same of all of a task's units. -/
def dropTaskReqs (s : State) (t n : Nat) : State :=
  let es := ((s.task n).regions.map fun (_, em, _) => maskList 256 em).flatten
  let gone (r : Nat) : Bool := es.any fun e => r == elemReq t e
  let s := if (s.tile t).task == some n then dropSeqReqs s t else s
  dropBanks (dropReqs s t gone) gone

/-- Operations that a task takes with it when it leaves a tile, or leaves pending there while it is parked (R226). -/
def savedOps (k : Task) : List Nat :=
  match k.savedCtx with
  | some (c, _, _, _) => c.ops.map (·.id)
  | none => []
/-- Operations that the parked tasks of a tile have left pending in its array. -/
def parkedOps (s : State) (x : Tile) : List Nat := (x.parked.map fun p => savedOps (s.task p.task)).flatten

/-- The array of a tile without what a task had in it: of the running task all but what parked tasks left, of a
parked one what it left (R197, R303, R363). The words of its window that no one had read are read no more. -/
def Array.without (a : Array) (k : Task) (gone : Option Nat → Bool) : Array :=
  let ms := a.mmas.filter fun m => !gone m.op
  let mine (i : Nat) : Bool := decide (16 * k.winBase ≤ i / 128) && decide (i / 128 < 16 * (k.winBase + k.winCount))
  { a with
    mmas := ms
    contribs := a.contribs.filter fun c => ms.any fun m => m.id == c.mma
    wtls := a.wtls.filter fun w => !gone (some w.2)
    deliv := a.deliv.filter fun d => d.slot.isNone && a.wtls.any fun w => !gone (some w.2)
    reads := a.reads.filter fun r => !gone (some r.1)
    stage := a.stage.filter fun e => !mine e.1
    preload := if (a.mmas.head?).map (·.id) == (ms.head?).map (·.id) then a.preload else none
    slots := a.slots.map fun (j, w) => (j, if w.st = 1 && gone w.op then { gen := w.gen } else w) }

/-- The task of a drain: its region's (R289). -/
def drainTask (c : Collar) (d : Drain) : Option Nat := d.arr.bind fun q => (c.region q.1).task

/-- A resident task gives up its regions, window and banks; the tile runs nothing if it was running. -/
def releaseTask (s : State) (t n : Nat) (retires : Bool := false) : State :=
  let s := dropTaskReqs s t n
  let s := if (s.tile t).task == some n then discardAhead s t else s
  let k := s.task n
  let c := k.regions.foldl (fun c (r, _, _) =>
    if (c.region r).task = some n then (if retires then leaveRegion c r else freeRegion c r) else c) (s.collar t)
  let s1 := s.setCollar t c
  let x := s1.tile t
  let mine := x.task == some n
  let x1 : Tile := { x with
    parked := x.parked.filter fun p => p.task != n
    spill := (x.parked.filterMap fun p => match p.place with
      | .stripe j => if p.task = n then some j else none
      | _ => none).foldl (fun l j => l.erase j) x.spill }
  let drains := x1.arr.drains.filter fun d => (drainTask c d).isSome && !(mine && d.wd)
  let took := if (x1.arr.drains.head?).map (·.id) == (drains.head?).map (·.id) then x1.arr.took else []
  let x2 : Tile := if mine then
      { x1 with
        task := none, ctx := {}, sys := {}, dec := {}, wd := { x1.wd with on := false, dropped := [], reload := none, readFault := none, wait := false, mid := false }
        atPs := false, doneWait := false, parkWait := none, limitTold := false, fetchBad := none, preempt := false, landing := false
        shadow := { x1.shadow with queue := [], back := [], running := false, esc := false, stopped := false }
        arr := { x1.arr.without k (fun o => !(o.any fun i => (parkedOps s x1).contains i)) with
                 drains := drains, took := took, ctx := none, winBase := 0, winCount := 0 } }
    else { x1 with arr := { x1.arr.without k (fun o => o.any fun i => (savedOps k).contains i) with
             drains := drains, took := took } }
  (s1.setTile t x2).setTask n { k with resident := false }

/-! ### Retry (R370) -/

/-- A command stands in a tile's queue registers: no other is accepted (R362). -/
def Tile.busy (x : Tile) : Bool := x.preempt || x.abort.isSome

/-- A tile takes a record at the tail of its queue (R362). -/
def takesRecord (s : State) (u : Nat) : Bool :=
  let x := s.tile u
  decide (u < 64) && !x.retired && !x.busy && decide (x.queue.length < 32)

/-- Firmware pushes the records of its run list, in their order, onto tiles of its choosing; one that no tile takes
waits, with those of its priority behind it (R370, R372, R394). DESIGN CHOICE: notes/assumptions/47.md. -/
def pushWaiting (s : State) : State :=
  let r := s.mod.runList.foldl (fun (acc : State × List (TRec × Option Nat)) e =>
    let s := acc.1
    let ok := (List.range 64).filter fun u => takesRecord s u && e.2 != some u
    let behind := acc.2.any fun w => w.1.prio == e.1.prio
    match if behind then none else ok[choose s (950 + acc.2.length) ok.length]? with
    | some u =>
      let x := s.tile u
      (s.setTile u { x with queue := x.queue ++ [e.1] }, acc.2)
    | none => (s, acc.2 ++ [e])) (s, [])
  { r.1 with mod := { r.1.mod with runList := r.2 } }

/-- A record joins firmware's run list; `not` names a tile it shall not go to. -/
def enlistRecord (s : State) (r : TRec) (not : Option Nat) : State :=
  { s with mod := { s.mod with runList := s.mod.runList ++ [(r, not)] } }

/-- Firmware pushes a failed task's record, with one retry fewer, onto another tile (R370). -/
def retryPush (s : State) (t : Nat) (k : Task) : State :=
  pushWaiting (enlistRecord s { k.trec with left := k.trec.left - 1 } (some t))

/-- The records outstanding in a task's regions, and its payload reader's: repairs of them find the region aborted
(R379). One is kept for each unit and region. -/
def noteGone (s : State) (t n : Nat) : State :=
  let c := s.collar t
  let rs := c.elems.filterMap fun (e, x) => if taskOf s t e = some n then x.fault else none
  let rs := rs ++ (if (s.tile t).task = some n then (s.tile t).wd.readFault.toList else [])
  let same (f g : FRec) : Bool := f.unit == g.unit && f.ctx % 4 == g.ctx % 4
  s.setCollar t { c with gone := (c.gone.filter fun f => !rs.any (same f)) ++ rs }

/-- A task fails with a cause, or is retried (R363, R370). -/
def failTask (s : State) (t n cause : Nat) (retry : Bool) : State :=
  let k := s.task n
  let s1 := releaseTask (leaveBarriers (noteGone s t n) n false) t n
  let k1 := s1.task n
  let s2 := s1.setTask n { k1 with log := [], retired := true, cause := cause }
  if retry && k.retry && decide (k.trec.left > 0) && !k.logFull then retryPush s2 t k else launchDone s2 n cause

/-- A logged line that is not written whole stands in memory poisoned (R63, R370). -/
def logLineBad (s : State) (l : Nat × List (Option Byte)) : Bool := l.2.any (·.isNone) && anyPoison s l.1 64

/-- A line of a task's log is written whole (R370). -/
def applyLine (s : State) (n : Nat) (l : Nat × List (Option Byte)) : State :=
  let old := s.bytes l.1 64
  memWrite s (.task n) l.1 (tabulate 64 fun i => (l.2.getD i none).getD (old.getD i 0))

end Sys2Proof.Machine
end

