-- ==== Sys2Proof/Machine/TaskQ.lean ====
section
/-!
DEFINITION. The tile's task queue: commands, dispatch, parking, pre-emption and retirement (R226, R282,
R303, R358-R366, R370, R390-R392).
-/
namespace Sys2Proof.Machine

/-! ### Commands (R362, R363) -/

def refuseTq (s : State) (t : Nat) : Out := .next (s.setTile t { s.tile t with cerr := true })

/-- TQREC as a record (R358). -/
def recOf (q : Tbl W64) : TRec :=
  let a := (tget 0 q 0).toNat
  let b := (tget 0 q 1).toNat
  { template := bits a 15 0, node := bits a 31 16, inst := bits a 63 32, prio := bits b 2 0, flags := bits b 15 8
    left := bits b 18 16, asid := bits b 43 32, image := (tget 0 q 2).toNat }
/-- A record as TQREC shows it (R358). -/
def recWords (r : TRec) : Tbl W64 :=
  [(0, BitVec.ofNat 64 (r.template + 2 ^ 16 * r.node + 2 ^ 32 * r.inst)),
   (1, BitVec.ofNat 64 (r.prio + 2 ^ 8 * r.flags + 2 ^ 16 * r.left + 2 ^ 32 * r.asid)),
   (2, BitVec.ofNat 64 r.image), (3, 0)]

/-- A push: refused while a command is in progress or the queue is full (R362). -/
def tqPush (s : State) (t : Nat) (f : List TRec → TRec → List TRec) : Out :=
  let x := s.tile t
  if x.busy || decide (x.queue.length ≥ 32) then refuseTq s t
  else .next (s.setTile t { x with queue := f x.queue (recOf x.tqrec) })
def execTqPushTail (t : Nat) (s : State) : Out := tqPush s t fun q r => q ++ [r]
def execTqPushHead (t : Nat) (s : State) : Out := tqPush s t fun q r => r :: q
/-- TQ OP 3: an entry goes to TQREC (R362). -/
def execTqRemove (t idx : Nat) (s : State) : Out :=
  let x := s.tile t
  match x.queue[idx]? with
  | some r =>
    if x.busy then refuseTq s t
    else .next (s.setTile t { x with queue := x.queue.eraseIdx idx, tqrec := recWords r })
  | none => refuseTq s t
/-- TQ OP 4: a request that lands later; refused where the task is not pre-emptible (R363). -/
def execTqPreempt (t : Nat) (s : State) : Out :=
  let x := s.tile t
  match x.task with
  | some n =>
    if x.busy || !bit (s.task n).trec.flags 1 then refuseTq s t else .next (s.setTile t { x with preempt := true })
  | none => refuseTq s t
/-- The soft error that a task is stopped at, in its elements or its tile's sequencer (R373, R393). -/
def softCause (s : State) (t n : Nat) : Option Nat :=
  let x := s.tile t
  let q := if x.task = some n then (x.shadow.queue ++ x.shadow.back).map (·.fr.cause) else []
  let e := (s.collar t).elems.filterMap fun (e, y) => if taskOf s t e = some n then y.fault.map (·.cause) else none
  (q.find? fun c => decide (0x34 ≤ c ∧ c ≤ 0x37)).or (e.find? fun c => decide (0x2A ≤ c ∧ c ≤ 0x2C))

/-- An aborted task's faults are over, and it issues no more (R363, R384). What it was stopped at is noted (R393). -/
def startAbort (s : State) (t : Nat) (idx : Option Nat) (retry : Bool) : Out :=
  let x := s.tile t
  let sh := match idx with
    | none => { x.shadow with queue := [], back := [], running := false, esc := false, stopped := false }
    | some _ => x.shadow
  let n := match idx with
    | none => x.task
    | some i => (x.parked[i]?).map (·.task)
  let s1 := match n with
    | some n => s.setTask n { s.task n with soft := softCause s t n }
    | none => s
  .next (s1.setTile t { x with abort := some (idx, retry), shadow := sh })
def execTqAbortRunning (t : Nat) (retry : Bool) (s : State) : Out :=
  let x := s.tile t
  if x.busy || x.task.isNone then refuseTq s t else startAbort s t none retry
def execTqAbortParked (t idx : Nat) (retry : Bool) (s : State) : Out :=
  let x := s.tile t
  if x.busy || decide (idx ≥ x.parked.length) then refuseTq s t else startAbort s t (some idx) retry

/-! ### Waiting for what is in flight (R226, R282) -/

/-- Every tag is complete and every result has landed (R226). An operation without a tag goes with the task, but a
store is waited for unless a fence holds it back. DEDUCED: notes/assumptions/32.md. -/
def drained (c : Ctx) : Bool :=
  let fenced := c.ops.any fun o => match o.kind with
    | .fence _ _ => true
    | _ => false
  c.busy.isEmpty && c.pend.isEmpty && c.mts.isEmpty && (fenced || c.ops.all fun o => o.kind.kinds == 0)

/-- A box holds tokens of a region on their way: results that no queue has taken in yet (R123).
DEDUCED: notes/assumptions/17.md. -/
def boxHolds (r : Nat) (x : Box) : Bool :=
  (x.dbuf.any fun (_, l) => l.any fun q => q.rgn == r && q.vc != 31) || (x.pbuf.any fun (_, l) => l.any fun q => q.rgn == r)
  || (x.mesh.any fun q => q.rgn == r) || x.meshPen.any fun q => q.rgn == r

/-- A region is quiescent (R282): no slot has work, and no result, start, drain or buffered line (R387) is on its
way, in an element or between two of them (notes/assumptions/17.md). DEDUCED: notes/assumptions/17.md. -/
def quiescent (s : State) (u r : Nat) : Bool :=
  let c := s.collar u
  let g := c.region r
  ([0, 1, 2, 3].all fun sl => slotIdle s u g sl)
  && (maskList 256 g.emask).all (fun e =>
      !thas c.elems e || ((c.elem e).out.isEmpty && (c.elem e).pout.isEmpty && (c.elem e).planes.all fun (_, y) => y.lines.isEmpty))
  && (c.starts.all fun a => !bit g.emask a.elem)
  && !(c.boxes.any fun (_, x) => boxHolds r x) && !(c.fly.any fun w => bit g.emask w.elem)
  && (s.arr u).drains.all fun d => match d.arr with
      | some (q, _) => q != r
      | none => true

def tasksQuiet (s : State) (t n : Nat) : Bool := (s.task n).regions.all fun r => quiescent s t r.1
def tokensPending (s : State) (n : Nat) : Bool := (s.task n).tokens.any fun (_, k) => k.st == 1

/-! ### Parking (R364, R365) -/

/-- What a parked task waits for has come (R302, R364). -/
def eligible (s : State) (p : Parked) : Bool :=
  match p.why with
  | .tokens mask any =>
    let l := (List.range 64).filter fun k => bit mask.toNat k
    let free (k : Nat) : Bool := (s.token p.task k).st != 1
    if any then l.isEmpty || l.any free else l.all free
  | .barrier b ph => let x := s.bar b; decide (x.phase > ph) || !x.members.contains p.task
  | .step b ph =>
    let x := s.bar b
    decide (x.phase > ph) || !x.members.contains p.task
    -- its bundle raises STEP_MISMATCH (R113)
    || (x.members.all x.arrived.contains && rotMismatch s x)

/-- The running task of a tile has run for its priority's quantum, and one of another priority waits on the tile. -/
def quantumOver (s : State) (t : Nat) : Bool :=
  let x := s.tile t
  match x.task with
  | none => false
  | some n =>
    let r := (s.task n).trec
    bit r.flags 1 && !x.busy && !x.landing
    && ((x.queue.any fun q => q.prio != r.prio)
        || x.parked.any fun p => (s.task p.task).trec.prio != r.prio && eligible s p)
    && decide (x.since + Config.quantum r.prio ≤ s.cycle)

/-- Firmware pushes what waits in its run list, and pre-empts what has run for its time. -/
def scheduleTurn (s : State) : State :=
  s.tiles.foldl (fun s (t, _) => if quantumOver s t then s.setTile t { s.tile t with preempt := true } else s) (pushWaiting s)

/-- An image fills one stripe of the accumulator store (R364). -/
def putStripe (a : Array) (k : Nat) (img : List Byte) : Array :=
  (List.range 2048).foldl (fun a i =>
    a.setWord (16 * k + i / 128) (i % 128) (BitVec.ofNat 32 (natOfBytes ((img.drop (4 * i)).take 4))) none) a

/-- The bytes of an image, where it reads whole (R392, R394). -/
def parkImage (s : State) (a : ImgAt) : Option (List Byte) :=
  match a with
  | .stripe t j =>
    let x := s.arr t
    if (List.range 2048).any fun i => x.accBad.contains (accIdx (16 * j + i / 128) (i % 128)) then none
    else some (tabulate 2048 fun i => bytesOfNat 4 (x.word (16 * j + i / 128) (i % 128)).toNat).flatten
  | .mem pa => if anyPoison s pa 8192 then none else some (s.bytes pa 8192)

/-- What a hardware switch moves asks the banks for at the tile's copy engine port (R100). -/
def switchAsk (s : State) (t : Nat) (ps : List (Nat × Nat)) : Bool × State :=
  askBanks s (portTo t 4) (tileReq 17 t 0) 256 ps

/-- Where an image's 8,192 bytes lie in memory. -/
def ImgAt.piece : ImgAt → List (Nat × Nat)
  | .stripe _ _ => []
  | .mem pa => [(pa, 8192)]

/-- The first stripe outside every resident task's window and clear in the spill map (R364). -/
def freeStripe (s : State) (x : Tile) : Option Nat :=
  (List.range 128).find? fun k =>
    !x.spill.contains k && (residents x).all fun n => winFree k 1 (s.task n)

/-- The running task is parked (R302, R364). A pre-emption request for it is over: it has left the tile. -/
def parkTask (s : State) (t n : Nat) (why : ParkWhy) : State :=
  let x := s.tile t
  let img := imageOfTask s t n 2
  let k := s.task n
  let s1 := (dropSeqReqs s t).setTask n { k with savedCtx := some (x.ctx, x.sys, x.dec, x.wd), arrCtx := x.arr.ctx }
  let away (x : Tile) (place : ParkAt) : Tile :=
    { x with
      task := none, ctx := {}, sys := {}, dec := {}, atPs := false, parkWait := none, limitTold := false, fetchBad := none
      preempt := false
      arr := { x.arr with ctx := none, winBase := 0, winCount := 0 }
      parked := x.parked ++ [{ task := n, why := why, place := place }] }
  match freeStripe s x with
  | some j =>
    s1.setTile t (away { x with arr := putStripe x.arr j img, spill := x.spill ++ [j] } (.stripe j))
  | none =>
    let (place, pa) := imageHome s t n
    match switchAsk s1 t [(pa, 8192)] with
    | (false, r) => { r with tasks := s.tasks }
    | (true, s1) => (rawWrite s1 pa img).setTile t (away x place)

/-- Resuming from a yield reads the tokens that its mask names: an acquire of those that are DONE (R337, R341). -/
def acquireYield (s : State) (n : Nat) (why : ParkWhy) : State :=
  match why with
  | .tokens mask _ => ((List.range 64).filter fun k => bit mask.toNat k).foldl (fun s k => (readToken s n k false).2) s
  | _ => s

/-- A yield on a tile with four parked tasks leaves the task running at the yield until its mask is met, and firmware
is told (R365). -/
def parkOrStay (s : State) (t n : Nat) (why : ParkWhy) : State :=
  let x := s.tile t
  if x.parked.length < 4 && !x.limitTold then parkTask s t n why
  else
    let s1 := if x.limitTold then s else (s.setTile t { x with limitTold := true }).reportF 0x2E t 257 []
    if eligible s { task := n, why := why, place := .image } then
      acquireYield (s1.setTile t { s1.tile t with parkWait := none, limitTold := false }) n why
    else s1

/-- Where the images go that a window's stripes give up. -/
def spillPieces (s : State) (t base count : Nat) : List (Nat × Nat) :=
  (s.tile t).parked.filterMap fun p => match p.place with
    | .stripe j => if base ≤ j ∧ j < base + count then some ((imageHome s t p.task).2, 8192) else none
    | _ => none

/-- Park images in stripes a window takes are moved to their owners' homes first (R365). -/
def moveSpills (s : State) (t base count : Nat) : State :=
  (s.tile t).parked.foldl (fun s p =>
    match p.place with
    | .stripe j =>
      if base ≤ j ∧ j < base + count then
        let x := s.tile t
        let img := (tabulate 2048 fun i => bytesOfNat 4 (x.arr.word (16 * j + i / 128) (i % 128)).toNat).flatten
        let (place, pa) := imageHome s t p.task
        -- a word with a parity error makes its bytes poisoned (R63, R373)
        let bad := (List.range 2048).filter fun i => x.arr.accBad.contains (accIdx (16 * j + i / 128) (i % 128))
        (poisonBytes (rawWrite s pa img) (bad.map fun i => pa + 4 * i)).setTile t { x with
          spill := x.spill.erase j
          parked := x.parked.map fun q => if q.task = p.task then { q with place := place } else q }
      else s
    | _ => s) s

/-! ### Dispatch (R235, R359-R361, R392) -/

/-- The pre-empted task a record names. -/
def savedTask (s : State) (r : TRec) : Option Nat :=
  (s.tasks.find? fun (_, k) =>
    { k.trec with of := none } == { r with of := none } && k.savedCtx.isSome && !k.resident && !k.retired).map (·.1)

/-- What a task waits for that was parked on another tile has come. -/
def savedReady (s : State) (r : TRec) : Bool :=
  match savedTask s r with
  | none => true
  | some n => ((s.task n).savedWhy).all fun why => eligible s { task := n, why := why, place := .image }

/-- The candidates of R361 in its order of choice: the parked task, or the queue entry. -/
def chooseNext (s : State) (t : Nat) : Option (Sum Parked Nat) :=
  let x := s.tile t
  let ps := x.parked.filter fun p => eligible s p
  let rs := (List.range x.queue.length).filter fun i => match x.queue[i]? with
    | some r => dispatchable s t r && savedReady s r
    | none => false
  let prioR (i : Nat) : Nat := ((x.queue[i]?).map (·.prio)).getD 0
  ([7, 6, 5, 4, 3, 2, 1, 0].findSome? fun pr =>
    match ps.find? fun p => (s.task p.task).trec.prio == pr with
    | some p => some (.inl p)
    | none => (rs.find? fun i => prioR i == pr).map .inr)

/-- The tile's registers for the task that runs next: XLCTL.ASID, XLROOT and ACCWIN; XLCTL.EN is the CP's (R77,
R202, R359). -/
def loadContext (s : State) (t n : Nat) : State :=
  let k := s.task n
  let s1 := s.setXu t { s.xu t with asid := k.trec.asid, root := (tget ({} : Asid) s.asids k.trec.asid).root }
  s1.setArr t { s1.arr t with winBase := k.winBase, winCount := k.winCount, ctx := k.arrCtx }

/-- A parked or pre-empted task's sequencer state is placed from its image; what the image does not hold goes with
the task. `moved` says that it has left the tile's array since. DESIGN CHOICE: notes/assumptions/46.md. -/
def placeSeq (s : State) (t n : Nat) (img : List Byte) (moved : Bool := false) : State :=
  let k := s.task n
  let x := s.tile t
  match k.savedCtx with
  | none => s
  | some (c, y, d, w) =>
    let c := ctxOfImage img c
    let y := sysOfImage img y
    let d := decOfImage img d
    let w := wdOfImage img w
    let reload : Option WBlk := if w.on && w.lv then some { addr := w.wlastb } else none
    let w1 := if w.on then { w with reload := reload, wait := false, mid := false, ahead := [], dropped := [], readFault := none } else x.wd
    -- an operation of the array that has ended meanwhile is over; a wtl that was saved begins again
    let ops := c.ops.filter fun o => o.kind != .mma || x.arr.mmas.any fun m => m.op == some o.id
    let again := ops.filterMap fun o => match o.kind with
      | .wtl k => if moved then some (k, o.id) else none
      | _ => none
    let ops := ops.filter fun o => match o.kind with
      | .wtl _ => moved || x.arr.wtls.any fun w => w.2 == o.id
      | _ => true
    let next := ops.foldl (fun m o => max m (o.id + 1)) x.nextOp
    let ord := ops.foldl (fun m o => max m (o.ord + 1)) x.ord
    let arr := { x.arr with
      wtls := x.arr.wtls ++ again
      slots := again.foldl (fun l e => tput l e.1 ({ st := 1, gen := (tget ({} : WSlot) l e.1).gen + 1, op := some e.2 } : WSlot)) x.arr.slots }
    (s.setTile t { x with
      task := some n, ctx := { c with ops := ops, nextIssue := x.tc, recent := [], lastW := [] }, sys := y, dec := d, wd := w1
      since := s.cycle, nextOp := next, ord := ord, arr := arr }).setTask n
      { k with savedCtx := none, savedWhy := none, resident := true, tile := t, tokens := tokensOfImage img k.tokens }

/-- The bundle number of a saved point, from the kernel's first bundle (R106, R109). -/
def savedBundle (k : Task) : Nat :=
  match k.savedCtx with
  | some (c, _, _, _) => pcNum c.pc - pcNum k.entry
  | none => 0

/-- A task that could not be resumed gives up its parking place and waits to fail (R94, R392, R394). -/
def refuseResume (s : State) (t n cause : Nat) : State :=
  let x := s.tile t
  let mine (p : Parked) : Bool := p.task == n
  let gone := x.parked.filterMap fun p => match p.place with
    | .stripe j => if mine p then some j else none
    | _ => none
  s.setTile t { x with
    failing := x.failing ++ [(n, cause)], parked := x.parked.filter fun p => !mine p
    spill := gone.foldl (fun l j => l.erase j) x.spill }

/-- Loads that failed while the task was away fault it when it runs again (R291). -/
def raiseLate (s : State) (t n : Nat) : State :=
  let k := s.task n
  k.lateFaults.foldl (fun s f => seqFault s t f.1 f.2 0 0 .config) (s.setTask n { k with lateFaults := [] })

/-- A parked task goes on, or is refused (R1, R302, R361, R365, R392). -/
def resumeParked (s : State) (t : Nat) (p : Parked) : State :=
  let n := p.task
  let k := s.task n
  match parkImage s (imgAtOf s t n p.place) with
  | none => refuseResume s t n 0x1D
  | some img =>
    if imageFails img then refuseResume s t n 0x3F
    else
      let s1 := clearBanks s t k.bankMask (keptBufs k (savedBundle k))
      let x := s1.tile t
      let s2 := s1.setTile t { x with
        parked := x.parked.filter fun q => q.task != n
        spill := match p.place with
          | .stripe j => x.spill.erase j
          | _ => x.spill }
      let s3 := loadContext (placeSeq (moveSpills s2 t k.winBase k.winCount) t n img) t n
      raiseLate (acquireYield s3 n p.why) t n

/-- The launch packet a record belongs to: the one it was formed for, or, of a record that has passed through
TQREC, the first that awaits its instance and whose task has not started (R356). -/
def findLaunch (s : State) (r : TRec) : Option (Nat × Nat) :=
  let taken (l : Nat × Nat) : Bool := s.tasks.any fun (_, k) => k.launch == some l && k.trec.inst == r.inst && !k.retired
  r.of.or (s.queues.findSome? fun (q, x) =>
    (x.packets.find? fun p =>
      blk p.bytes 0 1 == 1 && !p.done && p.begun && x.asid == r.asid && blk p.bytes 8 2 == r.template
      && blk p.bytes 10 2 == r.node && p.waits.contains r.inst && !taken (q, p.n)).map fun p => (q, p.n))

/-- Arguments of a node for an instance (R359). -/
def nodeArgs (nd : Node) (inst : Nat) : Tbl W64 :=
  (List.range nd.narg).map fun k =>
    (k + 1, (nd.bases.getD k 0) + BitVec.ofNat 64 (wrapInt 64 ((inst : Int) * sextInt 32 (nd.strides.getD k 0).toNat)))

/-- Regions that tasks have left give up a region's number, elements and boxes. -/
def clearWay (c : Collar) (r em bm : Nat) : Collar :=
  c.regions.foldl (fun c (q, g) =>
    if g.task.isNone && (q == r || maskInter g.emask em || maskInter g.bmask bm) then freeRegion c q else c) c

/-- The regions of a task become its own on its tile (R125, R360), with the banner interval of its context, which is 0
until firmware writes one (R386). DEDUCED: notes/assumptions/48.md. -/
def takeRegions (s : State) (t n : Nat) (l : List (Nat × Nat × Nat)) : State :=
  s.setCollar t (l.foldl (fun c (r, em, bm) =>
    let c := clearWay c r em bm
    c.setRegion r { c.region r with task := some n, emask := em, bmask := bm, k := 0 }) (s.collar t))

/-- A task starts for the first time (R216, R235, R359). -/
def startTask (s : State) (t : Nat) (r : TRec) (nd : Node) (base : Nat) : State :=
  let n := s.mod.nextTask
  let k : Task :=
    { trec := r, tile := t, launch := findLaunch s r, resident := true, started := true
      regions := nodeRegions nd, bankMask := nd.bankMask, winBase := base, winCount := nd.win r, plan := nd.plan
      entry := nd.entry, scopeA := nd.scopeA, scopeB := nd.scopeB, scopeC := nd.scopeC }
  let s1 := { s with mod := { s.mod with nextTask := n + 1 } }.setTask n k
  let s2 := takeRegions (moveSpills s1 t base (nd.win r)) t n k.regions
  let x := s2.tile t
  let y : Sys := { tinst := BitVec.ofNat 64 r.inst, tnode := BitVec.ofNat 64 (r.node + 2 ^ 16 * r.template)
                   scopeA := nd.scopeA, scopeB := nd.scopeB, scopeC := nd.scopeC }
  loadContext (s2.setTile t { x with
    since := s.cycle, task := some n, ctx := { pc := nd.entry, s := nodeArgs nd r.inst, nextIssue := x.tc }, sys := y, dec := {}
    atPs := true }) t n

/-- A plane's words come again from its image in the tile's context store (R392). -/
def replane (s : State) (t e : Nat) (y : Plane) : Plane :=
  match if y.loaded then (imageOf s t y.image).elems.find? fun r => r.e == e else none with
  | some r => { y with op := r.op, mode := r.mode, const := r.const, vct := (planeFrom r y.image).vct }
  | none => y

/-- An image number of the saved planes is not resident in the tile's context store (R392). -/
def imagesMissing (s : State) (t : Nat) (l : List SavedRegion) : Bool :=
  l.any fun g => g.elems.any fun (e, x) => x.planes.any fun (_, y) =>
    let i := imageOf s t y.image
    !i.hdrOk || !i.elems.any fun r => r.e == e

/-- A saved element takes its place: its planes' words from their images, then what was saved. Its fault numbers are the
unit's own (R392, R437). -/
def placeElem (s : State) (t : Nat) (c : Collar) (e : Nat) (x : Elem) : Collar :=
  let own := c.elem e
  c.setElem e { x with
    planes := x.planes.foldl (fun l (p, y) => tput l p (replane s t e y)) own.planes
    fault := none, fseq := own.fseq, flt := own.flt }

/-- A saved box's tokens and words take their places. -/
def placeBox (c : Collar) (b : Nat) (x : Box) : Collar :=
  let y := c.box b
  c.setBox b (Box.settle { y with
    routes := x.routes.foldl (fun l (j, w) => tput l j w) y.routes
    dbuf := x.dbuf.foldl (fun l (j, ts) => tput l j (tget [] l j ++ ts)) y.dbuf
    pbuf := x.pbuf.foldl (fun l (j, ts) => tput l j (tget [] l j ++ ts)) y.pbuf
    mesh := y.mesh ++ x.mesh, meshPen := y.meshPen ++ x.meshPen })

/-- Saved collar state returns to a tile: a unit that had a record raises it again, with its next number, and an
element's streams go on there (R347, R390, R392, R437). -/
def placeCollar (s : State) (t n : Nat) (l : List SavedRegion) : State :=
  let c := l.foldl (fun c g =>
    let c := clearWay c g.num g.region.emask g.region.bmask
    let c := c.setRegion g.num { g.region with task := some n, crerr := (c.region g.num).crerr }
    g.boxes.foldl (fun c (b, x) => placeBox c b x) (g.elems.foldl (fun c (e, x) => placeElem s t c e x) c)) (s.collar t)
  let elems := (l.map (·.elems)).flatten
  let s1 := elems.foldl (fun s (e, x) => x.strm.foldl (fun s (slot, k) =>
    let m := s.ag (.stream k)
    if m.task = some n then s.setAg (.stream k) { m with str := some (t, e, slot) } else s) s) (s.setCollar t c)
  elems.foldl (fun s (e, x) =>
    match x.fault with
    | none => s
    | some f =>
      let f' := { f with fseq := ((s.elemOf t e).fseq + 1) % 256, tile := t }
      sendFault (s.setElem t e { s.elemOf t e with fault := some f', fseq := f'.fseq }) f') s1

/-! #### Another tile's slice (R109) -/

/-- The leaf word of 256 KiB for a page: in a bank of a mask in one tile's slice it maps the same offset of another's. -/
def remapWord (old new mask pte pa : Nat) : Nat :=
  let flags := pte % 2 ^ 6 + 2 ^ 6 + 2 ^ 8 * bits pte 8 8
  match place pa with
  | .spm t off => flags + (if t = old ∧ bit mask (off / 0x100000) = true then spmAddr new off else pa)
  | _ => flags + pa

/-- A leaf of a table that maps a bank of a mask in one tile's slice maps the same offset of another's. A leaf of 32 MiB,
which maps two tiles' slices, gives way to a table of leaves of 256 KiB, on a page that firmware has; without one it
maps nothing any more (R68, R103). -/
def remapEntry (s : State) (old new mask ea pte : Nat) : State :=
  let pa := bits pte 47 10 * 2 ^ 10
  if bits pte 7 6 = 1 then
    let w := remapWord old new mask pte pa
    if w = pte then s else rawWrite s ea (bytesOfNat 8 w)
  else if bits pte 7 6 = 2 then
    match place pa, place (pa + 0x1000000) with
    | .spm t _, .spm u _ =>
      if t ≠ old ∧ u ≠ old then s
      else match s.mod.tablePages with
        | [] => rawWrite s ea (bytesOfNat 8 0)
        | p :: rest =>
          let l := (tabulate 128 fun i => bytesOfNat 8 (remapWord old new mask pte (pa + 2 ^ 18 * i))).flatten
          rawWrite (rawWrite { s with mod := { s.mod with tablePages := rest } } p l) ea (bytesOfNat 8 (p + 1))
    | _, _ => s
  else s

/-- Firmware remaps a task's scratchpad pages in the tables from one on (R68, R109). DEDUCED: notes/assumptions/90.md. -/
def remapTable (old new mask : Nat) : Nat → Nat → Nat → State → State
  | 0, _, _, s => s
  | fuel + 1, l, table, s =>
    (List.range (levelMask l + 1)).foldl (fun s i =>
      let ea := table + 8 * i
      let pte := natOfBytes (s.bytes ea 8)
      if pte % 2 = 0 then s
      else if bits pte 7 6 = 0 then (if l < 3 then remapTable old new mask fuel (l + 1) (bits pte 47 10 * 2 ^ 10) s else s)
      else remapEntry s old new mask ea pte) s

/-- The pages of a task that resumes on another tile, with no translation of the old ones left cached. -/
def remapSlice (s : State) (k : Task) (t : Nat) : State :=
  if k.tile = t then s
  else
    let asid := k.trec.asid
    let s1 := remapTable k.tile t k.bankMask 4 0 (tget ({} : Asid) s.asids asid).root s
    let stale (e : TlbE) : Bool := e.asid == asid && (match place e.pa with
      | .spm u _ => u == k.tile
      | _ => false)
    { s1 with xus := s1.xus.map fun (u, x) => (u, { x with tlb := x.tlb.filter fun e => !stale e }) }

/-- The image of a pre-empted task, and what stands in the way of its resuming: it does not read whole, or a check
of it fails (R1, R200, R392). -/
def savedImage (s : State) (t n : Nat) : Except Nat (List Byte) :=
  let k := s.task n
  let size := max 8192 (natOfBytes (s.bytes k.trec.image 4))
  if anyPoison s k.trec.image size then .error 0x1D
  else
    let b := s.bytes k.trec.image size
    if imageFails b || blk b 6 2 != k.winCount || imagesMissing s t (regionsOfImage b) then .error 0x3F else .ok b

/-- Buffers at their slice offsets. -/
def placeBufs (s : State) (t : Nat) (bufs : List (Nat × List Byte)) : State :=
  bufs.foldl (fun s (o, b) => rawWrite s (spmAddr t o) b) s

/-- A pre-empted task, or one that was parked on another tile, resumes from its image, in the order of R392 (R109,
R200, R394). DESIGN CHOICE: notes/assumptions/46.md. -/
def resumeSaved (s : State) (t n base : Nat) : State :=
  let k := s.task n
  match savedImage s t n with
  | .error c =>
    refuseResume (s.setTask n { k with tile := t, savedCtx := none, regions := [], bankMask := 0, winCount := 0 }) t n c
  | .ok b =>
    let s0 := (remapSlice s k t).setTask n { k with winBase := base, tile := t }
    let s1 := placeCollar (moveSpills s0 t base k.winCount) t n (regionsOfImage b)
    let s2 := clearBanks (s1.setArr t (accOfImage b base k.winCount (s1.arr t))) t k.bankMask []
    let s3 := placeBufs s2 t (if blk b 5 1 = 1 then spmOfImage 1024 (b.drop (blk b 16 4)) else [])
    let s4 := loadContext (placeSeq s3 t n b true) t n
    raiseLate (match k.savedWhy with
      | some why => acquireYield s4 n why
      | none => s4) t n

/-- What the saving of a task, and its resuming, reads and writes of memory (R391). -/
def imagePieces (s : State) (t n : Nat) (keep : List Buf) : List (Nat × Nat) :=
  let k := s.task n
  (keep.map fun b => (spmAddr t b.off, b.size))
    ++ [(k.trec.image, 8192 + k.winCount * 8192 + (taskColSection s t n).length + natSum (keep.map fun b => 32 + b.size))]

/-- What a dispatch reads and writes of memory (R365, R391, R392). -/
def dispatchPieces (s : State) (t : Nat) (c : Sum Parked Nat) : List (Nat × Nat) :=
  match c with
  | .inl p =>
    let k := s.task p.task
    (imgAtOf s t p.task p.place).piece ++ spillPieces s t k.winBase k.winCount
  | .inr i => match (s.tile t).queue[i]?.bind (savedTask s) with
    | some n => imagePieces s t n (keptBufs (s.task n) (savedBundle (s.task n)))
    | none => []

/-- TASK_DISPATCH (R361): the switch waits for the banks it moves images through (R100). -/
def execTaskDispatch (t : Nat) (s : State) : Out :=
  let x := s.tile t
  if x.task.isSome || x.retired || x.abort.isSome || !x.shadow.queue.isEmpty then .next s
  else match chooseNext s t with
    | none => .next s
    | some c => match switchAsk s t (dispatchPieces s t c), c with
      | (false, s), _ => .next s
      | (true, s), .inl p => .next (resumeParked s t p)
      | (true, s), .inr i =>
        match x.queue[i]? with
        | none => .next s
        | some r =>
          let s1 := s.setTile t { x with queue := x.queue.eraseIdx i }
          match savedTask s r, nodeOf s r with
          | some n, _ => .next (resumeSaved s1 t n ((findWindow s x (s.task n).winCount).getD 0))
          | none, some nd => .next (startTask s1 t r nd ((findWindow s x (nd.win r)).getD 0))
          | none, none => .next s

/-! ### Pre-emption (R324, R363, R390, R391) -/

/-- A region stops firing. -/
def freezeRegions (s : State) (t n : Nat) : State :=
  s.setCollar t ((s.task n).regions.foldl (fun c (r, _, _) => c.setRegion r { c.region r with frozen := true }) (s.collar t))

/-- Weight-driven mode has come to a point where it can be saved (R324). -/
def wdStill (x : Tile) : Bool :=
  !x.wd.on || (x.wd.readFault.isNone && (x.wd.dropped ++ x.wd.reload.toList ++ x.wd.ahead).all fun b => match b.slot with
      | some k => (x.arr.slotOf k).st != 1
      | none => true)

/-- A reply stream that the task requested has not delivered its EOS: requests or replies are on their way, or
a memory node serves one (R105, R390). -/
def repliesPending (s : State) (t n : Nat) : Bool :=
  let c := s.collar t
  let node (y : Plane) : Bool := y.opcode == 0x3E && descNode s t y
  let asked (q : Tok) : Bool :=
    taskOf s t q.src == some n
      && (let y := (c.elem q.src).plane q.plane
          y.opcode == 0x40 || node y)
  (c.elems.any fun (e, x) => taskOf s t e == some n && (x.out.any (fun o => asked o.tok)
      || x.planes.any fun (_, y) => node y && (!y.qa.isEmpty || y.bank.st.req.isSome)))
  || c.boxes.any fun (_, b) => b.mesh.any asked || b.dbuf.any fun (_, l) => l.any asked

/-- Starts on their way reach the task's sources: the streams begin from the image (R390, R392). -/
def arriveStarts (s : State) (t n : Nat) : State :=
  let c := s.collar t
  let mine := c.starts.filter fun a => taskOf s t a.elem == some n
  let s1 := s.setCollar t { c with starts := c.starts.map fun a => if mine.contains a then { a with at' := s.cycle } else a }
  mine.foldl (fun s a => match execSourceStartArrival t a.elem s with
    | .next s => s
    | _ => s) s1

/-- A matrix operation or a drain of the running task has not come to its end (R390). -/
def arrayRuns (s : State) (t : Nat) : Bool :=
  let x := s.tile t
  let l := parkedOps s x
  x.arr.mmas.any (fun m => !(m.op.any fun i => l.contains i))
  || x.arr.drains.any fun d => d.wd || drainTask (s.collar t) d == x.task

/-- PREEMPTION_LAND: steps 1 to 4 of R390; the record goes back to the head of the queue (R363).
DEDUCED: notes/assumptions/32.md. -/
def execPreemptionLand (t : Nat) (s : State) : Out :=
  let x := s.tile t
  match x.task with
  | none => .next s
  | some n =>
    if !x.landing || !x.shadow.queue.isEmpty || !drained x.ctx || arrayRuns s t || !wdStill x
        || repliesPending s t n || (s.collar t).loads.any fun l => l.task == n then .next s
    else
      let keep := keptBufs (s.task n) (pcNum x.ctx.pc - pcNum (s.task n).entry)
      match switchAsk s t (imagePieces s t n keep) with
      | (false, s) => .next s
      | (true, s) =>
          let mine (w : Fly) : Bool := taskOf s t w.elem == some n
          let s1 := freezeRegions (landElems (arriveStarts (discardAhead s t) t n) t mine) t n
          let x := s1.tile t
          let k := s1.task n
          let s2 := poisonBytes (rawWrite s1 k.trec.image (imageOfTask s1 t n 1 keep))
            ((imageBad s1 t n keep).map (k.trec.image + ·))
          let s3 := releaseTask (s2.setTask n { k with savedCtx := some (x.ctx, x.sys, x.dec, x.wd), arrCtx := x.arr.ctx }) t n
          let y := s3.tile t
          .next (s3.setTile t { y with queue := k.trec :: y.queue })

/-! ### Retirement (R303, R363, R366, R370) -/

/-- A task that is done: its log is applied line by line at the sequencer port, in order of first entry, and then it
retires (R100, R303, R370). -/
def retireDone (s : State) (t n : Nat) : State :=
  let k := s.task n
  if k.log.any (logLineBad s) then failTask s t n 0x1E false
  else match k.log with
    | l :: rest => match askBanks s (portTo t 5) (tileReq 16 t 0) 256 [(l.1, 64)] with
      | (false, s) => s
      | (true, s) => applyLine (s.setTask n { s.task n with log := rest }) n l
    | [] =>
      let s2 := releaseTask (launchDone (leaveBarriers s n true) n 0) t n true
      s2.setTask n { s2.task n with retired := true, log := [] }

/-- What an aborted task fails with: the retirement of its tile, the soft error that stopped it, or FW_ABORT (R363, R393,
R394). -/
def abortCause (s : State) (x : Tile) (n : Nat) : Nat := if x.retired then 0x3D else ((s.task n).soft).getD 0x3C

/-- TASK_RETIRE: done, an abort, or a resume that was refused comes to its end (R94, R303, R363, R392, R394). -/
def execTaskRetire (t : Nat) (s : State) : Out :=
  let x := s.tile t
  match x.failing.find? fun f => !tokensPending s f.1 with
  | some (n, c) =>
    .next (failTask (s.setTile t { x with failing := x.failing.filter fun f => f.1 != n }) t n c (c == 0x3D))
  | none => match x.abort with
    | some (idx, retry) =>
      let n := match idx with
        | none => x.task
        | some i => (x.parked[i]?).map (·.task)
      (match n with
      | none => .next (s.setTile t { x with abort := none })
      | some n =>
        if tokensPending s n then .next s
        else .next (failTask (s.setTile t { x with abort := none }) t n (abortCause s x n) retry))
    | none => match x.task with
      | none => .next s
      | some n =>
        if !x.doneWait || !drained x.ctx || accessPending x.ctx || !tasksQuiet s t n || tokensPending s n
            || !x.shadow.queue.isEmpty then .next s
        else .next (retireDone s t n)

end Sys2Proof.Machine
end

