-- ==== Sys2Proof/Machine/HostPort.lean ====
section
/-!
DEFINITION. The host's requests, doorbells, queues, completion records, event frames and the front end
(R344, R345, R348-R352, R408-R414).
-/
namespace Sys2Proof.Machine

def State.queue (s : State) (q : Nat) : Queue := tget {} s.queues q
def State.setQueue (s : State) (q : Nat) (x : Queue) : State := { s with queues := tput s.queues q x }
def State.qp (s : State) (n : Nat) : Qp := tget {} s.qps n
def State.setQp (s : State) (n : Nat) (x : Qp) : State := { s with qps := tput s.qps n x }
/-- Ring entries of a queue; a reserved LOGN counts as 12 (R348, R411). DESIGN CHOICE: notes/assumptions/88.md. -/
def Queue.entries (x : Queue) : Nat := 2 ^ (min 12 x.logn + 4)
def Queue.cqEntries (x : Queue) : Nat := 2 ^ (x.cqlog + 4)

/-- The Ethernet port has trained, and a queue pair is connected and not in error: its requests are served (R408,
R409, R433). The port holds 512. Requests of others have no effect. DEDUCED: notes/assumptions/45.md. -/
def qpServed (s : State) (n : Nat) : Bool := s.mod.ethUp && decide (n < 512) && (s.qp n).st == 2 && !(s.qp n).err

/-! ### Windows (R409) -/

/-- A failed check: a remote access error, the queue pair in error, and a report (R409).
DEDUCED: notes/assumptions/45.md. DESIGN CHOICE: notes/assumptions/52.md. -/
def nakAccess (s : State) (qp : Nat) : State :=
  ({ s with outbox := s.outbox ++ [OutMsg.nak qp true] }.setQp qp { s.qp qp with err := true }).reportF 0x11 64 0 (bytesOfNat 8 qp)

/-- The window a key names, if its tag is the window's (R409). -/
def keyWindow (s : State) (key : W32) : Option Window :=
  let w := tget ({} : Window) s.windows (key.toNat % 1024)
  if w.v && key.toNat / 1024 == w.key then some w else none

/-- Pieces of a request through an ordinary window; `none` where the check fails (R409). -/
def windowPieces (s : State) (w : Window) (va n : Nat) (write : Bool) : Option (VRes × State) :=
  let ok := (if write then w.w else w.r) && !w.reg && decide (w.base.toNat ≤ va)
    && decide (va + n ≤ w.base.toNat + w.len.toNat)
  if !ok then none
  else
    let a := tget ({} : Asid) s.asids w.asid
    some (vaPieces 76 w.asid a.root true (reqId 9 w.asid) (if write then pWR else pRD) false (n / 2 ^ 18 + 2) va n s)

/-- A request that waits for a walk comes first again. DEDUCED: notes/assumptions/75.md. -/
def again (s : State) (i : Instr) : State := { s with inputs := i :: s.inputs }

/-! ### Doorbells (R349, R350) -/

/-- Whether a fetch slot maps a queue. -/
def mappedSlot (s : State) (q : Nat) : Option Nat :=
  (s.fe.slots.find? fun (_, x) => x.v && x.q == q).map (·.1)

/-- A doorbell that is discarded is counted (R349, R351). -/
def badDoorbell (s : State) : State := { s with fe := { s.fe with baddb := min 0xFFFF (s.fe.baddb + 1) } }

/-- A doorbell value arrives through a window of an ASID (R349, R350, R344). DESIGN CHOICE: notes/assumptions/27.md. -/
def doorbellDo (s : State) (qp q asid val : Nat) : State :=
  let x := s.queue q
  if !x.open' || x.asid != asid then badDoorbell s
  else if val = x.wridx then s
  else if (val + 2 ^ 32 - x.rdidx) % 2 ^ 32 > x.entries then
    (s.setQueue q { x with fstall := true, scause := 0x1B }).reportF 0x1B 64 0 (bytesOfNat 8 q)
  else
    let ws := (s.ag (.qp qp)).written
    let s1 := s.setQueue q { x with wridx := val, floor := x.floor ++ ws.filter fun w => !x.floor.contains w }
    if (mappedSlot s q).isSome || s.fe.pend.contains q then s1
    else ({ s1 with fe := { s1.fe with pend := s1.fe.pend ++ [q] } }).reportF 0 64 0 (bytesOfNat 8 q)

/-- The host's consumed count: the queue pair that writes it has seen the records it counts, which are releases at sys
scope (R345, R356, R412). DEDUCED: notes/assumptions/101.md. -/
def consumedDo (s : State) (qp q asid val : Nat) : State :=
  let x := s.queue q
  if !x.open' || x.asid != asid then s
  else
    let seen (r : Nat × List WId) : Bool := decide ((val + 2 ^ 32 - r.1) % 2 ^ 32 < 2 ^ 31)
    let s1 := (x.told.filter seen).foldl (fun s r => s.addFloor (.qp qp) r.2) s
    s1.setQueue q { x with cqdone := val, told := x.told.filter fun r => !seen r }

/-- A write of 4 bytes through a register window (R409). -/
def regWindowWrite (s : State) (qp : Nat) (w : Window) (f : Nat → State) : State :=
  if w.reg && w.w then f w.asid else nakAccess s qp

/-- DOORBELL_WRITE (R349, R409). -/
def execDoorbellWrite (qp : Nat) (key : W32) (q : Nat) (val : W32) (s : State) : Out :=
  if !qpServed s qp then .next s
  else match keyWindow s key with
    | none => .next (nakAccess s qp)
    | some w => .next (regWindowWrite s qp w fun asid => doorbellDo s qp q asid val.toNat)
/-- CQ_CONSUMED_WRITE (R409, R412). -/
def execCqConsumedWrite (qp : Nat) (key : W32) (q : Nat) (val : W32) (s : State) : Out :=
  if !qpServed s qp then .next s
  else match keyWindow s key with
    | none => .next (nakAccess s qp)
    | some w => .next (regWindowWrite s qp w fun asid => consumedDo s qp q asid val.toNat)

/-! ### RDMA (R344, R408, R409) -/

/-- The queue and word a register address of pages 75-90 names: true for the doorbell. -/
def doorbellAt (pa : Nat) : Option (Nat × Bool) :=
  match place pa with
  | .reg page off =>
    if 75 ≤ page ∧ page ≤ 90 ∧ off % 0x1000 = 0 then some ((page - 75) * 64 + off / 0x1000, true)
    else if 75 ≤ page ∧ page ≤ 90 ∧ off % 0x1000 = 8 then some ((page - 75) * 64 + off / 0x1000, false)
    else none
  | _ => none

/-- HOST_RDMA_WRITE: performed in the order issued; after a flush read its writes are releases at sys
(R344, R409). DEDUCED: notes/assumptions/75.md. -/
def execHostRdmaWrite (qp : Nat) (key : W32) (addr : W64) (data : List Byte) (s : State) : Out :=
  if !qpServed s qp then .next s
  else match keyWindow s key with
    | none => .next (nakAccess s qp)
    | some w =>
      if w.reg then
        match doorbellAt addr.toNat with
        | some (q, true) =>
          if data.length = 4 then
            .next (regWindowWrite s qp w fun asid => doorbellDo s qp q asid (natOfBytes data))
          else .next (nakAccess s qp)
        | some (q, false) =>
          if data.length = 4 then
            .next (regWindowWrite s qp w fun asid => consumedDo s qp q asid (natOfBytes data))
          else .next (nakAccess s qp)
        | none => .next (nakAccess s qp)
      else match windowPieces s w addr.toNat data.length true with
        | none => .next (nakAccess s qp)
        | some (.wait, s) => .next (again s (.hostRdmaWrite qp key addr data))
        | some (.fail _ _, s) => .next (nakAccess s qp)
        | some (.ok ps, s) =>
          let a := AgentId.qp qp
          let rels : List Rel := if (s.qp qp).flushed then [relOf s a .sys (coveredNow s a)] else []
          match linesWrite s meshPort (reqId 9 w.asid) 256 none ps fun o pa n s =>
              ([], physWrite s a pa ((data.drop o).take n) 8 rels) with
          | (none, s) => .next (again s (.hostRdmaWrite qp key addr data))
          | (some _, s) => .next s

/-- HOST_RDMA_READ; poisoned data is not sent (R63, R409). -/
def execHostRdmaRead (qp : Nat) (key : W32) (addr : W64) (len : Nat) (s : State) : Out :=
  if !qpServed s qp then .next s
  else match keyWindow s key with
    | none => .next (nakAccess s qp)
    | some w =>
      if w.reg then
        if w.r && len == 8 && place addr.toNat == .reg 74 0 then
          .next ({ s with outbox := s.outbox ++ [OutMsg.readReply qp (List.replicate 8 0)] }.setQp qp { s.qp qp with flushed := true })
        else .next (nakAccess s qp)
      else match windowPieces s w addr.toNat len false with
        | none => .next (nakAccess s qp)
        | some (.wait, s) => .next (again s (.hostRdmaRead qp key addr len))
        | some (.fail _ _, s) => .next (nakAccess s qp)
        | some (.ok ps, s) => match lineAccess s meshPort (reqId 9 w.asid) 256 none false ps (lineRead (.qp qp) 8) with
          | (none, s) => .next (again s (.hostRdmaRead qp key addr len))
          | (some d, s) =>
            .next { s with outbox := s.outbox ++ [if d.any (·.2) then OutMsg.nak qp false else OutMsg.readReply qp (d.map (·.1))] }

/-- FLUSH_READ: it completes after every earlier write of its queue pair, and returns zero (R344, R409). -/
def execFlushRead (qp : Nat) (key : W32) (s : State) : Out :=
  if !qpServed s qp then .next s
  else match keyWindow s key with
    | none => .next (nakAccess s qp)
    | some w =>
      if w.reg && w.r then
        .next ({ s with outbox := s.outbox ++ [OutMsg.readReply qp (List.replicate 8 0)] }.setQp qp { s.qp qp with flushed := true })
      else .next (nakAccess s qp)

/-- INVALID_REQUEST: a request the port does not support is answered with a NAK (R407). -/
def execInvalidRequest (qp : Nat) (s : State) : Out :=
  if s.mod.ethUp then .next { s with outbox := s.outbox ++ [OutMsg.nak qp false] } else .next s

/-! ### The front end (R350-R352) -/

def State.fslot (s : State) (n : Nat) : FeSlot := tget {} s.fe.slots n
def State.setFslot (s : State) (n : Nat) (x : FeSlot) : State :=
  { s with fe := { s.fe with slots := tput s.fe.slots n x } }

/-- FESLOT written with V = 1 (R351). -/
def execFeslotMap (n q : Nat) (s : State) : Out :=
  let x := s.fslot n
  if x.v || x.busy || !(s.queue q).open' || (mappedSlot s q).isSome then
    .next { s with fe := { s.fe with cerr := true } }
  else
    let s1 := s.setFslot n { q := q, shown := q, v := true }
    .next { s1 with fe := { s1.fe with pend := s1.fe.pend.filter (· != q) } }
/-- FESLOT written with V = 0: the unmapping waits for a fetch in progress (R350, R351). -/
def execFeslotUnmap (n : Nat) (s : State) : Out :=
  let x := s.fslot n
  if !x.v then .next s
  else if x.fetching then .next (s.setFslot n { x with busy := true })
  else .next (s.setFslot n { x with v := false })
/-- The fetch that an unmapping waits for has ended (R350). -/
def execFeslotUnmapEnd (n : Nat) (s : State) : Out :=
  let x := s.fslot n
  if x.busy && !x.fetching then .next (s.setFslot n { x with v := false, busy := false }) else .next s
/-- FESTAT.CLR (R351). -/
def execFestatClr (s : State) : Out := .next { s with fe := { s.fe with baddb := 0 } }

/-- No room is left in a completion ring (R412). -/
def Queue.cqFull (x : Queue) : Bool := (x.cqidx + 2 ^ 32 - x.cqdone) % 2 ^ 32 == x.cqEntries

/-- A queue may have its next packet fetched (R349, R352, R412, R414). -/
def fetchable (x : Queue) : Bool := x.open' && !x.fstall && x.rdidx != x.wridx && !x.cqFull

/-- PACKET_FETCH: the next ring entry of a mapped queue; a failure stalls the queue and is reported
(R344, R352). -/
def execPacketFetch (slot : Nat) (s : State) : Out :=
  let f := { s.fslot slot with seenAt := s.cycle }
  let x := s.queue f.q
  if !f.v || (!f.fetching && (f.busy || !fetchable x)) then .next (s.setFslot slot f)
  else
    let a := tget ({} : Asid) s.asids x.asid
    let va := x.qbase + x.rdidx % x.entries * 64
    let fail (s : State) (c : Nat) : State :=
      ((s.setQueue f.q { x with fstall := true, scause := c }).setFslot slot { f with fetching := false }).reportF c 64 0
        (bytesOfNat 8 f.q ++ bytesOfNat 8 va)
    match vaPieces 64 x.asid a.root true (reqId 10 f.q) pRD false 2 va 64 s with
    | (.wait, s) => .next (s.setFslot slot { f with fetching := true })
    | (.fail c _, s) => .next (fail s c)
    | (.ok ps, s) => match askBanks s meshPort (reqId 10 f.q) 256 ps with
      | (false, s) => .next (s.setFslot slot { f with fetching := true })
      | (true, s) =>
      if poisonedPiece s ps then .next (fail s 0x14)
      else
        let (b, s) := readPieces .sched 8 ps (s.addFloor .sched x.floor)
        let x := { x with floor := [] }
        let p : Packet := { n := x.rdidx, bytes := b }
        .next ((s.setQueue f.q { x with rdidx := (x.rdidx + 1) % 2 ^ 32, packets := x.packets ++ [p] }).setFslot slot
          { f with fetching := false })

/-! ### Completion records and event frames (R345, R412-R414) -/

/-- The 32 bytes of a record (R412). -/
def recordBytes (q : Nat) (x : Queue) (p : Packet) : List Byte :=
  bytesOfNat 4 (blk p.bytes 4 4) ++ bytesOfNat 4 p.n ++ bytesOfNat 2 q ++ bytesOfNat 1 (blk p.bytes 0 1)
  ++ bytesOfNat 1 (p.status % 64) ++ bytesOfNat 4 p.detail ++ bytesOfNat 8 p.value.toNat ++ List.replicate 7 0
  ++ bytesOfNat 1 ((x.cqidx / x.cqEntries + 1) % 2)

/-- The completed packet whose record is written next: the one that completed first (R412). -/
def Queue.firstDone (x : Queue) : Option Packet :=
  x.packets.find? fun p => p.done && x.packets.all fun r => !r.done || decide (p.fin ≤ r.fin)

/-- COMPLETION_RECORD_WRITE: records go to the host in the order of completion; a packet without CR leaves
none (R353, R412, R414). -/
def execCompletionRecordWrite (q : Nat) (s : State) : Out :=
  let x := s.queue q
  match x.firstDone with
  | none => .next s
  | some p =>
    let fl := blk p.bytes 1 1
    let rest := x.packets.filter fun r => r.n != p.n
    let past := x.past ++ p.cov.filter fun w => !x.past.contains w
    if !bit fl 0 then .next (s.setQueue q { x with packets := rest, ev := x.ev || bit fl 1, past := past })
    else if x.cqFull || (x.fstall && x.scause == 0x18) then .next s
    else
      let addr := x.cqaddr + BitVec.ofNat 64 (x.cqidx % x.cqEntries * 32)
      let s1 := { s with outbox := s.outbox ++ [OutMsg.rdmaWrite x.cqh x.cqkey addr (recordBytes q x p)] }
      .next (s1.setQueue q { x with
        packets := rest, past := past, told := x.told ++ [((x.cqidx + 1) % 2 ^ 32, p.cov)]
        cqidx := (x.cqidx + 1) % 2 ^ 32, ev := x.ev || bit fl 1
        p := x.p + 1, t0 := (if x.p = 0 then s.cycle else x.t0), sent := [p], sentP := 0 })

/-- A queue is idle with a record to announce (R413). -/
def Queue.idle (x : Queue) : Bool := x.rdidx == x.wridx && x.packets.all (·.done) && decide (x.p ≥ 1)

/-- EVENT_FRAME_SEND (R353, R413): HOLD, and the time within which the frame of an idle queue goes, are counted
at the clock in force. DESIGN CHOICE: notes/assumptions/56.md. -/
def execEventFrameSend (q : Nat) (s : State) : Out :=
  let x := s.queue q
  let soon := x.idle && (choose s (40960 + q) 2 == 1 || decide (s.cycle + 1 ≥ x.idleAt + 2 * s.mod.mhz))
  if !x.even || (x.fstall && x.scause == 0x18) || decide (x.p = 0)
      || !(decide (x.p ≥ x.thresh) || decide (s.cycle ≥ x.t0 + x.hold * s.mod.mhz) || soon || x.ev) then
    .next (if x.idle then s else s.setQueue q { x with idleAt := s.cycle })
  else
    let imm := BitVec.ofNat 32 (q % 1024 + x.cqidx % 2 ^ 16 * 2 ^ 16)
    .next ({ s with outbox := s.outbox ++ [OutMsg.writeImm x.cqh imm] }.setQueue q
      { x with p := 0, ev := false, sent := [], sentP := x.p, idleAt := s.cycle })

/-- COMPLETION_WRITE_FAILURE: the last record, or frame, counts as unwritten (R414).
DESIGN CHOICE: notes/assumptions/91.md. -/
def execCompletionWriteFailure (q : Nat) (s : State) : Out :=
  let x := s.queue q
  .next ((s.setQueue q { x with
    fstall := true, scause := 0x18, packets := x.sent.map (fun p => { p with fin := 0 }) ++ x.packets
    cqidx := (x.cqidx + 2 ^ 32 - x.sent.length) % 2 ^ 32, p := x.p - x.sent.length + x.sentP
    sent := [], sentP := 0 }).reportF 0x18 64 0 (bytesOfNat 8 q))

/-! ### Queue and window descriptions (R410, R411) -/

/-- QUEUE_DESC_WRITE: a write to the description of a queue; opening starts its indices at 0 (R348,
R411). -/
def execQueueDescWrite (q off : Nat) (v : W64) (s : State) : Out :=
  let x := s.queue q
  let n := v.toNat
  let set (x : Queue) : Out := .next (s.setQueue q x)
  if off = 0 then set (if x.open' then x else { x with qbase := bits n 51 6 * 64 })
  else if off = 8 then
    let op := bit n 16
    let x1 := if x.open' then x else { x with even := bit n 25, asid := bits n 15 4, logn := bits n 3 0 }
    let x2 := if op && !x.open' then { x1 with rdidx := 0, wridx := 0 } else x1
    set { x2 with open' := op, fstall := x2.fstall && !bit n 18 }
  else if off = 0x18 then set { x with cqaddr := v }
  else if off = 0x20 then set { x with cqlog := bits n 43 40, cqh := bits n 39 32, cqkey := v.setWidth 32 }
  else if off = 0x28 then set { x with hold := bits n 25 16, thresh := bits n 15 0 }
  else .next s
/-- FSTALL cleared: the queue goes on at the same packet (R352, R411, R414). -/
def execQueueFstallClear (q : Nat) (s : State) : Out := .next (s.setQueue q { s.queue q with fstall := false })

/-- RDMA_WINDOW_WRITE: while V = 1 only V changes (R410). -/
def execRdmaWindowWrite (w off : Nat) (v : W64) (s : State) : Out :=
  let x := tget ({} : Window) s.windows w
  let n := v.toNat
  let set (x : Window) : Out := .next { s with windows := tput s.windows w x }
  if off = 0 then set (if x.v then x else { x with base := v })
  else if off = 8 then set (if x.v then x else { x with len := v })
  else if off = 0x10 then
    if x.v then set { x with v := bit n 15 }
    else set { x with key := bits n 53 32, v := bit n 15, reg := bit n 14, w := bit n 13, r := bit n 12, asid := bits n 11 0 }
  else .next s

end Sys2Proof.Machine
end

