-- ==== Sys2Proof/Machine/Loader.lean ====
section
/-!
DEFINITION. Page tables as firmware writes them, and the loading of Hiber objects (R68-R70, R126, R310,
R313, R357, R395-R397, R402-R406, R420).
-/
namespace Sys2Proof.Machine

/-! ### Writing page tables (R68, R69, R356) -/

def pteWord (pa perm sz : Nat) (g : Bool) : Nat := 1 + 2 * perm + 64 * sz + 256 * boolNat g + pa / 1024 * 1024

/-- The table that a level's entry leads to; an absent one is taken from fresh, zeroed pages. -/
def tableDown (s : State) (table l va : Nat) (fresh : List Nat) : Option (State × Nat × List Nat) :=
  let ea := table + ((va >>> levelShift l) &&& levelMask l) * 8
  let pte := natOfBytes (s.bytes ea 8)
  if pte % 2 = 1 then
    (if bits pte 7 6 = 0 then some (s, bits pte 47 10 * 1024, fresh) else none)
  else match fresh with
    | [] => none
    | p :: rest =>
      let s1 := rawWrite s p (List.replicate (tableSize (l + 1)) 0)
      some (rawWrite s1 ea (bytesOfNat 8 (pteWord p 0 0 false)), p, rest)

def descend (va : Nat) : Nat → Nat → State → Nat → List Nat → Option (State × Nat × List Nat)
  | 0, _, s, table, fresh => some (s, table, fresh)
  | n + 1, l, s, table, fresh =>
    match tableDown s table l va fresh with
    | none => none
    | some (s, t, fresh) => descend va n (l + 1) s t fresh

/-- Write the leaf of one page of size code `ps` (R69, R356). -/
def mapPage (s : State) (root va pa perm ps : Nat) (g : Bool) (fresh : List Nat) : Option (State × List Nat) :=
  let l := 4 - ps
  match descend va l 0 s root fresh with
  | none => none
  | some (s, table, fresh) =>
    let ea := table + ((va >>> levelShift l) &&& levelMask l) * 8
    some (rawWrite s ea (bytesOfNat 8 (pteWord pa perm ps g)), fresh)

/-- Remove the leaf that maps an address, giving its page's size; none where nothing maps it (R356). -/
def unmapPage (s : State) (va : Nat) : Nat → Nat → Nat → Option (State × Nat)
  | 0, _, _ => none
  | n + 1, l, table =>
    let ea := table + ((va >>> levelShift l) &&& levelMask l) * 8
    let pte := natOfBytes (s.bytes ea 8)
    if pte % 2 = 0 then none
    else if bits pte 7 6 ≠ 0 then some (rawWrite s ea (bytesOfNat 8 0), leafSize (bits pte 7 6))
    else unmapPage s va n (l + 1) (bits pte 47 10 * 1024)

/-! ### Objects (R395, R397) -/

structure Sect where
  ty : Nat
  ksym : Nat
  off : Nat
  size : Nat
deriving DecidableEq, Repr

structure ObjSym where
  name : List Byte
  sect : Nat
  bind : Nat
  kind : Nat
  value : Nat
  size : Nat
  kattr : Nat
deriving DecidableEq, Repr

def sectsOf (b : List Byte) : List Sect :=
  tabulate (blk b 6 2) fun i =>
    let o := 64 + 32 * i
    { ty := blk b o 1, ksym := blk b (o + 4) 4, off := blk b (o + 8) 8, size := blk b (o + 16) 8 }

def symsOf (b : List Byte) (x : Sect) : List ObjSym :=
  let t := (b.drop x.off).take x.size
  let n := blk t 0 4
  let names := t.drop (16 + 32 * n)
  tabulate n fun i =>
    let o := 16 + 32 * i
    { name := (names.drop (blk t o 4)).takeWhile (· != 0), sect := blk t (o + 4) 2, bind := blk t (o + 6) 1
      kind := blk t (o + 7) 1, value := blk t (o + 8) 8, size := blk t (o + 16) 8, kattr := blk t (o + 24) 8 }

/-- The symbols of an object, if it has a symbol section. -/
def objSyms (b : List Byte) (l : List Sect) : List ObjSym :=
  match l.find? fun x => x.ty == 6 with
  | some x => symsOf b x
  | none => []

/-- The header and section table follow R395: a plan or pin section names the symbol of a kernel. -/
def objOk (b : List Byte) : Bool :=
  let l := sectsOf b
  let kernel (k : Nat) : Bool := ((objSyms b l)[k]?).any fun y => y.kind == 1
  let one (ty : Nat) : Bool := decide ((l.filter fun x => x.ty == ty).length ≤ 1)
  let perK (ty : Nat) : Bool :=
    l.all fun x => x.ty != ty || decide ((l.filter fun y => y.ty == ty && y.ksym == x.ksym).length ≤ 1)
  blk b 0 4 == 0x52424948 && decide (blk b 5 1 < 2) && decide (1 ≤ blk b 6 2) && decide (blk b 6 2 ≤ 64)
  && blk b 12 4 == 0 && blk b 24 40 == 0 && blk b 16 8 == b.length
  && (l.all fun x =>
      decide (1 ≤ x.ty) && decide (x.ty ≤ 10) && decide (x.off % (if x.ty = 3 then 256 else 64) = 0)
      && decide (x.off + x.size ≤ b.length) && (x.ty == 4 || x.ty == 8 || x.ksym == 0))
  && ((List.range l.length).all fun i =>
      let o := 64 + 32 * i
      blk b (o + 1) 3 == 0 && blk b (o + 24) 8 == 0
      && (List.range l.length).all fun j =>
        decide (i ≥ j) || (match l[i]?, l[j]? with
          | some x, some y => x.size == 0 || y.size == 0 || decide (x.off + x.size ≤ y.off) || decide (y.off + y.size ≤ x.off)
          | _, _ => true))
  && (l.all fun x => (x.ty != 4 && x.ty != 8) || kernel x.ksym)
  && one 5 && one 6 && one 7 && one 10 && perK 4 && perK 8
  && (bit (blk b 5 1) 0 == l.any fun x => x.ty == 10)
  && (l.all fun x => x.ty != 10 || l.all fun y => decide (y.off ≤ x.off))

/-- A plan section follows R106. -/
def planOf (t : List Byte) : Option (Nat × List Buf) :=
  let n := blk t 0 4
  let bufs : List Buf := tabulate n fun i =>
    let o := 16 + 32 * i
    { off := blk t o 4, size := blk t (o + 4) 4, first := blk t (o + 8) 4, last := blk t (o + 12) 4, kind := blk t (o + 16) 1
      sym := blk t (o + 20) 4 }
  let banks := (bufs.map fun b => b.off / 0x100000).foldl (fun m k => m ||| 2 ^ k) 0
  let apart (i j : Nat) : Bool := match bufs[i]?, bufs[j]? with
    | some x, some y => decide (x.off + x.size ≤ y.off) || decide (y.off + y.size ≤ x.off)
    | _, _ => true
  let ok := t.length == 16 + 32 * n && blk t 6 10 == 0 && blk t 4 2 == banks
    && ((List.range n).all fun i => (List.range i).all (apart i)) && decide (bufs.countP (·.kind == 2) ≤ 1)
    && (bufs.all fun b => decide (b.off < 2 ^ 24) && decide (b.off % 64 = 0) && decide (b.size % 64 = 0) && decide (64 ≤ b.size)
      && decide (b.off / 0x100000 = (b.off + b.size - 1) / 0x100000) && decide (b.first ≤ b.last) && decide (b.kind ≤ 3))
    && (List.range n).all fun i => blk t (16 + 32 * i + 17) 3 == 0 && blk t (16 + 32 * i + 24) 8 == 0
  if ok then some (banks, bufs) else none

/-! ### Sites of relocations (R217, R403) -/

/-- A field of a little-endian value inside bytes is replaced. -/
def putBits (b : List Byte) (base len lo w v : Nat) : List Byte :=
  let n := natOfBytes ((b.drop base).take len)
  let m := n - bits n (lo + w - 1) lo * 2 ^ lo + v % 2 ^ w * 2 ^ lo
  b.take base ++ bytesOfNat len m ++ b.drop (base + len)

/-- A bundle's two slots, by number, in a bundle section. -/
def bundleAt (b : List Byte) (n : Nat) : Nat × Nat :=
  let g := natOfBytes ((b.drop (n / 3 * 32)).take 32)
  let w := g / 2 ^ (80 * (n % 3)) % 2 ^ 80
  (w / 2 ^ 32 % 2 ^ 32, w % 2 ^ 32)

/-- A relocation applied to its section's bytes; `none` is load error 9 (R403). -/
def relocate (b : List Byte) (ty sty addr off sv : Nat) : Option (List Byte) :=
  let n := off
  let inBundles := sty == 1 && decide (n / 3 * 32 + 32 ≤ b.length)
  let (a, w) := bundleAt b n
  let putA (v : Nat) : List Byte := putBits b (n / 3 * 32) 32 (80 * (n % 3) + 32) 20 v
  match ty with
  | 1 => if off + 8 ≤ b.length then some (b.take off ++ bytesOfNat 8 (blk b off 8 + sv) ++ b.drop (off + 8)) else none
  | 2 => if inBundles && (match decodeA a with
      | .ok (.li20 _ _) => true
      | _ => false) then some (putA (bits sv 59 40)) else none
  | 3 => if inBundles && (match decodeA a with
      | .ok (.lih _ _) => true
      | _ => false) then some (putA (bits sv 39 20)) else none
  | 4 => if inBundles && (match decodeA a with
      | .ok (.lih _ _) => true
      | _ => false) then some (putA (bits sv 19 0)) else none
  | 5 => if inBundles && (match decodeB w with
      | .ok (.cfgs _ _ _ _) => true
      | _ => false) then some (putBits b (n / 3 * 32) 32 (80 * (n % 3) + 4) 5 sv) else none
  | 6 => if inBundles && (match decodeB w with
      | .ok (.bjoin _ _ _) => true
      | .ok (.bleave _ _) => true
      | .ok (.barv _ _) => true
      | .ok (.bwait _ _) => true
      | _ => false) then some (putBits b (n / 3 * 32) 32 (80 * (n % 3)) 14 sv) else none
  | 7 =>
    let blkOff := off / 256 * 256
    let link := off % 256
    if sty = 3 ∧ (link = 8 ∨ link = 16) ∧ off + 8 ≤ b.length ∧ sv % 256 = 0 then
      let d : Int := ((sv : Int) - ((addr + blkOff : Nat) : Int)) / 256
      let b1 := b.take off ++ bytesOfNat 8 (wrapInt 64 d) ++ b.drop (off + 8)
      let h := natOfBytes ((b1.drop blkOff).take 28)
      some (b1.take (blkOff + 28) ++ bytesOfNat 4 (csum32 0 (headerWords h)) ++ b1.drop (blkOff + 32))
    else none
  | _ => none

/-! ### Symbols (R404) -/

def bodyOf (b : List Byte) (l : List Sect) (y : ObjSym) : List Byte :=
  match l[y.sect]? with
  | some x => (b.drop (x.off + y.value)).take y.size
  | none => []

/-- The value of a symbol that its object defines: an address, an image number or a barrier pair (R403). -/
def symValue (fw : LoadFw) (i : Nat) (y : ObjSym) : Nat :=
  if y.kind = 2 then ((fw.images.find? fun x => x.1 == i).map (·.2)).getD 0
  else if y.kind = 4 then y.value
  else ((fw.alloc.find? fun x => x.1 == y.sect).map (·.2)).getD 0 + y.value

/-- Bind the global symbols of an object in entry order: the ASID's symbols after, or a conflict. -/
def bindSyms (b : List Byte) (l : List Sect) (fw : LoadFw) : Nat → List ObjSym → List Sym → Option (List Sym)
  | _, [], g => some g
  | i, y :: rest, g =>
    if y.bind = 0 ∨ y.sect = 0xFFFF then bindSyms b l fw (i + 1) rest g
    else
      let h := (Config.sha256 (bodyOf b l y)).toNat
      let new : Sym := { owner := fw.handle, name := y.name, weak := y.bind == 2, kind := y.kind, value := BitVec.ofNat 64 (symValue fw i y)
                         hash := h, size := y.size }
      match g.find? fun x => x.name == y.name with
      | none => bindSyms b l fw (i + 1) rest (g ++ [new])
      | some old =>
        if old.hash = h ∧ old.size = y.size then bindSyms b l fw (i + 1) rest g
        else if y.bind = 2 then bindSyms b l fw (i + 1) rest g
        else if old.weak then bindSyms b l fw (i + 1) rest (g.map fun x => if x.name == y.name then new else x)
        else none

/-- What a symbol of an object stands for once bound; none where it is undefined (R399, R404). -/
def resolved (fw : LoadFw) (g : List Sym) (i : Nat) (y : ObjSym) : Option Nat :=
  if y.bind = 0 then some (symValue fw i y) else (g.find? fun x => x.name == y.name).map fun x => x.value.toNat

/-! ### Templates (R357, R402) -/

/-- A node entry's fields follow R357. -/
def nodeOk (e : List Byte) : Bool :=
  pcOk (BitVec.ofNat 64 (blk e 0 8)) && decide (blk e 8 1 ≤ 8) && decide (blk e 9 1 < 8) && decide (blk e 10 1 < 8)
  && blk e 14 2 == 0 && blk e 112 16 == 0

/-- Region masks that a kernel's cfgs bundles give: the union of the images each region is staged with. -/
def kernelMasks (body : List Byte) (imgs : List (Nat × List Byte)) : Tbl (Nat × Nat) :=
  (List.range (body.length / 32 * 3)).foldl (fun m n =>
    match decodeB (bundleAt body n).2 with
    | .ok (.cfgs r _ _ img) =>
      match imgs.find? fun x => x.1 == img.toNat with
      | some (_, i) =>
        let old := tget (0, 0) m r.toNat
        tput m r.toNat (old.1 ||| blk i 16 32, old.2 ||| blk i 48 8)
      | none => m
    | _ => m) []

/-- An object as its loading goes on. -/
structure LoadIn where
  b : List Byte
  sects : List Sect
  syms : List ObjSym
  fw : LoadFw
deriving DecidableEq, Repr

def LoadIn.sectBytes (x : LoadIn) (i : Nat) : List Byte :=
  match x.sects[i]? with
  | some y => (x.b.drop y.off).take y.size
  | none => []
def LoadIn.findSect (x : LoadIn) (ty : Nat) : Option (Nat × Sect) :=
  ((List.range x.sects.length).filterMap fun i => (x.sects[i]?).map fun y => (i, y)).find? fun y => y.2.ty == ty
/-- The section of a type that belongs to a kernel. -/
def LoadIn.kernelSect (x : LoadIn) (ty k : Nat) : List Byte :=
  match x.sects.find? fun y => y.ty == ty && y.ksym == k with
  | some y => (x.b.drop y.off).take y.size
  | none => []
def LoadIn.placeOf (x : LoadIn) (k : Nat) : List Nat := ((x.fw.placement.find? fun p => p.1 == k).map (·.2)).getD []
/-- Section bytes after every relocation , or the load error (R403). -/
def LoadIn.relocated (x : LoadIn) (g : List Sym) : Except Nat (List (List Byte)) :=
  let start := tabulate x.sects.length x.sectBytes
  match x.findSect 7 with
  | none => .ok start
  | some (i, y) =>
    let t := x.sectBytes i
    (List.range (y.size / 16)).foldl (fun acc k =>
      match acc with
      | .error e => .error e
      | .ok l =>
        let o := 16 * k
        let sec := blk t o 2
        let si := blk t (o + 4) 4
        match x.syms[si]?, x.sects[sec]? with
        | some y, some sc =>
          match resolved x.fw g si y with
          | none => .error 11
          | some v =>
            let addr := ((x.fw.alloc.find? fun a => a.1 == sec).map (·.2)).getD 0
            if blk t (o + 3) 1 ≠ 0 then .error 9
            else match relocate (l.getD sec []) (blk t (o + 2) 1) sc.ty addr (blk t (o + 8) 8) v with
              | some nb => .ok (lset l sec nb)
              | none => .error 9
        | _, _ => .error 9) (.ok start)

/-- The blocks of a section at `addr` that links reach from those still to visit; `none` where one fails R313:
its header lies outside the section or is bad, a link target has bits [63:52], or a frame record is bad. -/
def chainOk (b : List Byte) (addr : Nat) : Nat → List Nat → List Nat → Bool
  | 0, _, _ => true
  | _ + 1, [], _ => true
  | fuel + 1, o :: rest, seen =>
    if seen.contains o then chainOk b addr fuel rest seen
    else if o + 32 > b.length then false
    else match decodeW (natOfBytes ((b.drop o).take 32)) with
      | .bad _ => false
      | .ok i _ =>
        let ls := wLinks (addr + o) i
        let frame := match i with
          | .wScale _ => frameOk ((b.drop (o + 32)).take 64)
          | _ => true
        if !frame || ls.any (fun l => decide (l ≥ 2 ^ 52)) then false
        else
          let here := (ls.filter fun l => decide (addr ≤ l) && decide (l < addr + b.length)).map (· - addr)
          chainOk b addr fuel (rest ++ here) (o :: seen)

/-- Every weight block that a weight symbol names, or that links reach from one within its section, passes
R313's checks of headers and frame records. -/
def weightsOk (x : LoadIn) (secs : List (List Byte)) : Bool :=
  x.syms.all fun y =>
    if y.kind ≠ 3 ∨ y.sect = 0xFFFF then true
    else
      let b := secs.getD y.sect []
      chainOk b (((x.fw.alloc.find? fun z => z.1 == y.sect).map (·.2)).getD 0) (3 * (b.length / 256 + 1)) [y.value] []

/-- A kernel has no plan section (R106). -/
def planless (syms : List ObjSym) (sects : List Sect) : Bool :=
  (List.range syms.length).any fun i => match syms[i]? with
    | some y => y.kind == 1 && y.sect != 0xFFFF && !sects.any fun x => x.ty == 4 && x.ksym == i
    | none => false

/-- The plan of a retry-eligible task's kernel has exactly one log buffer, of at most 4 MiB (R106). -/
def logOk (nd : Node) : Bool :=
  !bit nd.flags 0 || (match nd.plan.filter fun b => b.kind == 3 with
    | [b] => decide (b.size ≤ 0x400000)
    | _ => false)

/-- A body as the relocated sections hold it. -/
def bodyIn (secs : List (List Byte)) (y : ObjSym) : List Byte := ((secs.getD y.sect []).drop y.value).take y.size

/-- Configuration images: number and bytes, as the relocated sections hold them (R402, R403). -/
def LoadIn.imgs (x : LoadIn) (secs : List (List Byte)) : List (Nat × List Byte) :=
  x.fw.images.filterMap fun (i, n) => (x.syms[i]?).map fun y => (n, bodyIn secs y)

/-- A configuration image follows R126: its header, its records in ascending order under the masks, their heads, and
zeros to its SIZE. -/
def imageFits (b : List Byte) : Bool :=
  let i := parseImage b
  let maskOf (l : List Nat) : Nat := natSum (l.map fun e => 2 ^ e)
  i.hdrOk && i.size == b.length && b.length % 64 == 0 && decide (64 ≤ b.length) && decide (b.length ≤ 0x4000)
  && decide (i.used ≤ i.size) && rising (i.elems.map (·.e)) && rising (i.boxes.map (·.b))
  && i.emask == maskOf (i.elems.map (·.e)) && i.bmask == maskOf (i.boxes.map (·.b))
  && (i.elems.all fun r => r.head / 2 ^ 14 == 0 && decide (bits r.head 13 8 ≤ 32) && r.vcs.all fun v => v.raw / 32 % 2 ^ 11 == 0)
  && (i.boxes.all fun r => r.head / 2 ^ 13 == 0 && bits r.head 7 6 == 0 && decide (bits r.head 12 8 ≤ 16) && r.pad == 0)
  && (b.drop i.used).all (· == 0)

/-- The image numbers that a kernel's cfgs bundles name. -/
def kernelImages (body : List Byte) : List Nat :=
  ((List.range (body.length / 32 * 3)).filterMap fun n =>
    match decodeB (bundleAt body n).2 with
    | .ok (.cfgs _ _ _ img) => some img.toNat
    | _ => none).eraseDups

/-- The kernels of an object, each at its own address (R397, R402). `old` are the images that the ASID holds: a kernel may
name one of them by a symbol that another object defines (R404). -/
def LoadIn.kernels (x : LoadIn) (secs : List (List Byte)) (old : Tbl (List Byte)) : List (Kern × List Byte) :=
  (List.range x.syms.length).filterMap fun i => (x.syms[i]?).bind fun y =>
    if y.kind ≠ 1 ∨ y.sect = 0xFFFF then none
    else
      let plan := (planOf (x.kernelSect 4 i)).getD (0, [])
      let body := bodyIn secs y
      some ({ owner := x.fw.handle, pc := symValue x.fw i y, plan := plan.2, bankMask := plan.1
              window := bits y.kattr 7 0, regions := bits y.kattr 11 8
              masks := kernelMasks body (x.imgs secs ++ old), place := x.placeOf i }, body)

/-- The images that enter context stores: number, bytes and tile (R402 step 6). -/
def LoadIn.stores (x : LoadIn) (secs : List (List Byte)) (old : Tbl (List Byte)) : List (Nat × List Byte × Nat) :=
  ((x.kernels secs old).map fun (k, body) =>
    ((kernelImages body).filterMap fun n =>
      ((x.imgs secs ++ old).find? fun i => i.1 == n).map fun i => k.place.map fun t => (n, i.2, t)).flatten).flatten

/-- The graph template's nodes, with what the loader binds to each (R357, R402 step 7): a node's kernel is the one at its
entry, of this object or of an earlier one to which its symbol resolved (R404). -/
def LoadIn.nodes (x : LoadIn) (ks : List Kern) (secs : List (List Byte)) : Option (List Node) :=
  match x.findSect 5 with
  | none => some []
  | some (i, _) =>
    let t := secs.getD i []
    let es := tabulate (blk t 0 4) fun k => (t.drop (16 + 128 * k)).take 128
    if blk t 4 12 ≠ 0 ∨ t.length ≠ 16 + 128 * blk t 0 4 ∨ !es.all nodeOk then none
    else
      let kern (e : List Byte) : Kern := (ks.find? fun k => k.pc == blk e 0 8).getD {}
      let district (o id : Nat) : W64 :=
        if id = 0xFF then 0
        else BitVec.ofNat 64 ((es.filter fun e => blk e o 1 == id).foldl (fun m e =>
          (kern e).place.foldl (fun m t => m ||| 2 ^ t) m) 0)
      some (es.map fun e =>
        let k := kern e
        { entry := BitVec.ofNat 64 (blk e 0 8), narg := blk e 8 1, flags := blk e 9 1, retries := blk e 10 1
          bases := tabulate 8 fun j => BitVec.ofNat 64 (blk e (16 + 8 * j) 8)
          strides := tabulate 8 fun j => BitVec.ofNat 32 (blk e (80 + 4 * j) 4)
          scopeA := district 11 (blk e 11 1), scopeB := district 12 (blk e 12 1), scopeC := district 13 (blk e 13 1)
          plan := k.plan, bankMask := k.bankMask, window := k.window, regions := k.regions
          masks := k.masks, place := k.place })

/-! ### Pins (R405) -/

/-- The 128-byte lines of a kernel's pin section. -/
def pinLines (x : LoadIn) (k : Nat) (y : ObjSym) : List Nat :=
  let t := x.kernelSect 8 k
  let base := symValue x.fw k y
  ((List.range (t.length / 16)).map fun i =>
    let first := blk t (16 * i) 8
    let cnt := blk t (16 * i + 8) 8
    (List.range cnt).map fun j => (base + (first + j) / 3 * 32) / 128 * 128).flatten.eraseDups

def pinnedOn (s : State) (t asid : Nat) : Nat := 128 * ((s.tile t).icache.filter fun l => l.pins != 0 && l.asid == asid).length
def pinnedAll (s : State) (t : Nat) : Nat := 128 * ((s.tile t).icache.filter fun l => l.pins != 0).length

/-- The line holds bundles of the body that a loop buffer captures or holds (R229). -/
def loopLine (c : Ctx) (l : ILine) : Bool :=
  match c.loopBuf with
  | none => false
  | some b =>
    let n := l.va / 32 * 3
    decide (n < pcNum b.body + 64) && decide (pcNum b.body < n + 12)

/-- A line enters the cache; in a full cache it replaces any that is not pinned. What the loop buffers hold
stays. DEDUCED: notes/assumptions/28.md. -/
def insertLine (s : State) (t : Nat) (l : ILine) : State :=
  let x := s.tile t
  if x.icache.length < 1024 then s.setTile t { x with icache := x.icache ++ [l] }
  else
    let cand := x.icache.filter fun m => m.pins == 0 && !loopLine x.ctx m && !loopLine x.shadow.ctx m
    match cand[choose s 330 cand.length]? with
    | some v => s.setTile t { x with icache := x.icache.filter (· != v) ++ [l] }
    | none => s

/-- Pin the line of a tile's instruction cache that lies at a physical address. -/
def pinLine (s : State) (t asid va pa : Nat) : State :=
  let x := s.tile t
  let l : ILine := { asid := asid, va := va, bytes := s.bytes pa 128, pa := pa, ver := s.mem.nextId, pins := 1 }
  if x.icache.any fun m => m.asid == asid && m.va == va then
    s.setTile t { x with icache := x.icache.map fun m =>
      if m.asid = asid ∧ m.va = va then { l with pins := m.pins + 1 } else m }
  else insertLine s t l

/-- The lines that an object's kernels ask to have pinned, by tile and address (R405). -/
def pinList (x : LoadIn) : List (Nat × Nat) :=
  ((List.range x.syms.length).map fun i => match x.syms[i]? with
    | some y => if y.kind = 1 ∧ y.sect ≠ 0xFFFF ∧ bit y.kattr 12 = true then
        ((x.placeOf i).map fun t => (pinLines x i y).map fun va => (t, va)).flatten else []
    | none => []).flatten

/-- Pin what an object asks for; none beyond a limit (R405). -/
def pinAll (s : State) (asid : Nat) (x : LoadIn) (paOf : Nat → Option Nat) : Option State :=
  let quota := (tget ({} : Asid) s.asids asid).quota
  let s1 := (pinList x).foldl (fun s (t, va) => match paOf va with
    | some pa => pinLine s t asid va pa
    | none => s) s
  if (List.range 64).any fun t => decide (pinnedOn s1 t asid > quota) || decide (pinnedAll s1 t > 0x10000) then none
  else some s1

/-- The pins of an object are released (R405). -/
def unpin (s : State) (asid : Nat) (o : Obj) : State :=
  o.pins.foldl (fun s (t, va) =>
    let x := s.tile t
    s.setTile t { x with icache := x.icache.map fun l =>
      if l.asid = asid ∧ l.va = va then { l with pins := l.pins - 1 } else l }) s

/-- An object is unloaded: its pins are released, and what it brought is gone (R405, R406). DEDUCED: notes/assumptions/45.md. -/
def unloadObject (s : State) (asid handle : Nat) : State :=
  let a := tget ({} : Asid) s.asids asid
  let mine (o : Nat) : Bool := o == handle
  let s1 := (a.objects.filter fun o => mine o.handle).foldl (fun s o => unpin s asid o) s
  if !a.objects.any fun o => mine o.handle then s
  else { s1 with asids := tput s1.asids asid { a with
    objects := a.objects.filter fun o => !mine o.handle
    symbols := a.symbols.filter fun y => !mine y.owner
    kernels := a.kernels.filter fun k => !mine k.owner
    templates := tdel a.templates (handle % 2 ^ 16), gone := a.gone ++ [handle % 2 ^ 16] } }

/-- Every loaded object of an ASID is discarded (R406). -/
def discardObjects (s : State) (asid : Nat) : State :=
  (tget ({} : Asid) s.asids asid).objects.foldl (fun s o => unloadObject s asid o.handle) s

/-! ### The load (R396, R402) -/

/-- A signature section: slot, signature under the key that the key store holds in that slot (R420). After an alarm none
is accepted (R425). -/
def signatureOk (s : State) (x : LoadIn) : Bool :=
  match x.findSect 10 with
  | none => true
  | some (i, y) =>
    let t := x.sectBytes i
    let slot := blk t 0 4
    !s.mod.alarm && decide (4 ≤ slot) && decide (slot ≤ 15) && thas s.mod.keys slot && Config.lmsVerify (tget 0 s.mod.keys slot) (x.b.take y.off) (t.drop 4)

/-- Copy a section's bytes to its pages (R402 step 3). -/
def copySection (s : State) (fw : LoadFw) (va : Nat) (b : List Byte) : State :=
  (List.range ((b.length + 63) / 64)).foldl (fun s i =>
    let a := va + 64 * i
    match fw.pages.find? fun p => p.1 == a / 2 ^ 18 * 2 ^ 18 with
    | some (_, pa) => memWrite s .sched (pa + a % 2 ^ 18) ((b.drop (64 * i)).take 64)
    | none => s) s

/-- Permissions of a copied section, none for one that is not copied (R402 step 3). -/
def sectPerm (ty : Nat) : Option Nat :=
  if ty = 1 then some pXB else if ty = 3 then some pXW else if ty = 9 then some (pRD + pWR) else none

/-- Map the pages of a section. -/
def mapSection (s : State) (root : Nat) (fw : LoadFw) (va n perm : Nat) (fresh : List Nat) : Option (State × List Nat) :=
  (List.range (n / 2 ^ 18 + 2)).foldl (fun o i => o.bind fun (s, fresh) =>
    let p := (va / 2 ^ 18 + i) * 2 ^ 18
    if p ≥ va + n then some (s, fresh)
    else match fw.pages.find? fun x => x.1 == p with
      | none => none
      | some (_, pa) => mapPage s root p pa perm 1 false fresh) (some (s, fresh))

/-- Load an object for an ASID: the state after with the handle, or the load error (R396, R402). -/
def loadObject (s : State) (asid : Nat) (b : List Byte) (opts : Nat) (fw : LoadFw) : Except Nat (State × Nat) :=
  if b.length < 64 ∨ b.length < 64 + 32 * blk b 6 2 ∨ !objOk b then .error 1
  else if blk b 4 1 ≠ 3 then .error 2
  else
    let sects := sectsOf b
    let syms := objSyms b sects
    let x : LoadIn := { b := b, sects := sects, syms := syms, fw := fw }
    let a := tget ({} : Asid) s.asids asid
    if (bit opts 0 || fw.mustSign) && (x.findSect 10).isNone then .error 3
    else if !signatureOk s x then .error 4
    else if !fw.versions.contains (blk b 8 4) then .error 5
    else if planless syms sects || sects.any fun y => y.ty == 4 && (planOf ((b.drop y.off).take y.size)).isNone then .error 6
    else if fw.noRoom then .error 13
    else match bindSyms b sects fw 0 syms a.symbols with
      | none => .error 10
      | some g =>
        if (List.range syms.length).any fun i => match syms[i]? with
            | some y => (resolved fw g i y).isNone
            | none => false then .error 11
        else match x.relocated g with
          | .error e => .error e
          | .ok secs =>
            if !(x.imgs secs).all fun i => imageFits i.2 then .error 7
            else if !weightsOk x secs then .error 8
            else
              let ks := (x.kernels secs a.images).map (·.1) ++ a.kernels
              match x.nodes ks secs with
              | none => .error 8
              | some nodes =>
                if !nodes.all logOk then .error 6 else
                let copied := (List.range sects.length).filterMap fun i => (sects[i]?).bind fun y =>
                  (sectPerm y.ty).map fun p => (i, y, p)
                let vaOf (i : Nat) : Nat := ((fw.alloc.find? fun z => z.1 == i).map (·.2)).getD 0
                let mapped := copied.foldl (fun (o : Option (State × List Nat)) (i, y, p) => o.bind fun (s, fr) =>
                  mapSection s a.root fw (vaOf i) y.size p fr) (some (s, fw.tables))
                match mapped with
                | none => .error 13
                | some (s1, _) =>
                  let s2 := copied.foldl (fun s (i, _, _) => copySection s fw (vaOf i) (secs.getD i [])) s1
                  let s3 := (x.stores secs a.images).foldl (fun s (n, i, t) => rawWrite s (ctxAddr t (n * 0x4000)) i) s2
                  let paOf (va : Nat) : Option Nat :=
                    (fw.pages.find? fun p => p.1 == va / 2 ^ 18 * 2 ^ 18).map fun p => p.2 + va % 2 ^ 18
                  -- what the caches hold of the replaced ranges is dropped (R232)
                  let new (l : ILine) : Bool := l.asid == asid && l.pins == 0 && copied.any fun (i, y, _) =>
                    decide (vaOf i < l.va + 128) && decide (l.va < vaOf i + y.size)
                  let own (pa : Nat) : Bool := fw.pages.any fun p => p.2 == pa / 2 ^ 18 * 2 ^ 18
                  let s3 := { s3 with
                    tiles := s3.tiles.map fun (t, x) => (t, { x with icache := x.icache.filter fun l => !new l })
                    tasks := s3.tasks.map fun (n, k) => (n, { k with seen := k.seen.filter fun q => !own q.1 }) }
                  match (if bit opts 1 then some s3 else pinAll s3 asid x paOf) with
                  | none => .error 12
                  | some s4 =>
                    let h := fw.handle % 2 ^ 16
                    let a' := { a with
                      symbols := g, templates := tput a.templates h nodes, kernels := ks
                      images := (x.imgs secs).foldl (fun m (n, i) => tput m n i) a.images
                      gone := a.gone.filter (· != h)
                      objects := a.objects ++ [{ handle := fw.handle, hash := (Config.sha256 b).toNat
                                                 pins := if bit opts 1 then [] else pinList x }] }
                    .ok ({ s4 with asids := tput s4.asids asid a' }, fw.handle)

end Sys2Proof.Machine
end

