-- ==== Sys2Proof/Machine/Packets.lean ====
section
/-!
DEFINITION. Command packets (R345, R353-R356, R367, R368, R396).
-/
namespace Sys2Proof.Machine

def Packet.ty (p : Packet) : Nat := blk p.bytes 0 1
def Packet.f (p : Packet) (o n : Nat) : Nat := blk p.bytes o n
/-- Bytes `o` to `o + n - 1` of a packet are zero. -/
def Packet.zero (p : Packet) (o n : Nat) : Bool := blk p.bytes o n == 0

def setPacket (s : State) (q : Nat) (p : Packet) : State :=
  let x := s.queue q
  s.setQueue q { x with packets := x.packets.map fun r => if r.n = p.n then p else r }
def finishPacket (s : State) (q : Nat) (p : Packet) (status : Nat) (value detail : Nat := 0) : State :=
  setPacket s q { p with
    begun := true, done := true, fin := (s.queue q).finNext, status := status, value := BitVec.ofNat 64 value, detail := detail }

/-- Every earlier packet of the queue has completed. -/
def earlierDone (x : Queue) (p : Packet) : Bool :=
  (x.packets.takeWhile fun r => r.n != p.n).all fun r => r.done
/-- A packet may begin: in index order, after a WAIT that has been met, and with BAR after all earlier
packets (R353, R355). -/
def mayBegin (x : Queue) (p : Packet) : Bool :=
  (x.packets.takeWhile fun r => r.n != p.n).all (fun r => r.done || (r.begun && r.ty != 7))
  && (!bit (p.f 1 1) 2 || earlierDone x p)

/-- The header's reserved fields and the ASID (R353, R355). -/
def headBad (x : Queue) (p : Packet) : Bool :=
  decide (p.ty = 0) || decide (p.ty > 10) || decide (p.f 1 1 ≥ 8) || p.f 2 2 != x.asid

/-- A packet of a type takes its turn: it begins if it may, is refused if its fields are bad, and then
acts by `f` until it is done. -/
def packetTurn (s : State) (q n ty : Nat) (bad : Packet → Bool) (f : State → Packet → State) : Out :=
  let x := s.queue q
  match x.packets.find? fun p => p.n == n with
  | none => .next s
  | some p =>
    -- a reserved TYPE is refused by the turn of FENCE
    if (p.ty ≠ ty ∧ ¬(ty = 9 ∧ (p.ty = 0 ∨ p.ty > 10))) ∨ p.done = true then .next s
    else if p.begun then .next (f s p)
    else if !mayBegin x p then .next s
    else if headBad x p || bad p then .next (finishPacket s q p 0x08)
    else
      let p1 := { p with begun := true }
      .next (f (setPacket s q p1) p1)

def asidOf (s : State) (q : Nat) : Asid := tget ({} : Asid) s.asids (s.queue q).asid

/-! ### LAUNCH (R356, R358, R367) -/

/-- The record of an instance (R358). -/
def launchRec (s : State) (q : Nat) (p : Packet) (nd : Node) (i image : Nat) : TRec :=
  { template := p.f 8 2, node := p.f 10 2, inst := (p.f 12 4 + i) % 2 ^ 32, prio := p.f 20 1, flags := nd.flags
    left := nd.retries, asid := (s.queue q).asid, image := image, win := nd.chosen, of := some (q, p.n) }

/-- Records of an earlier packet of the same priority have not all been pushed, or stand in firmware's run list (R372). -/
def launchBehind (s : State) (q : Nat) (p : Packet) : Bool :=
  (((s.queue q).packets.takeWhile fun r => r.n != p.n).any fun r =>
    r.ty == 1 && !r.done && r.f 20 1 == p.f 20 1 && decide (r.pushed < r.f 16 4))
  || s.mod.runList.any fun e => e.1.prio == p.f 20 1

/-- Firmware pushes records at the tiles it has chosen; a gang is pushed whole or not at all (R367). -/
def pushLaunch (s : State) (q : Nat) (p : Packet) (nd : Node) (place : List (Nat × Nat)) : State :=
  let count := p.f 16 4
  let left := place.take (count - p.pushed)
  let room (t : Nat) : Bool :=
    !(s.tile t).retired && !(s.tile t).busy && decide ((s.tile t).queue.length + (left.filter fun x => x.1 == t).length ≤ 32)
  let recs := (List.range left.length).filterMap fun i => (left[i]?).map fun x => (x.1, launchRec s q p nd (p.pushed + i) x.2)
  let gang := bit nd.flags 2
  let ok := !launchBehind s q p && left.all (fun x => room x.1)
    && (!gang || (decide (left.length = count)
        && recs.all fun (t, r) => dispatchable s t r && decide ((recs.filter fun x => x.1 == t).length = 1)))
  if !ok then s
  else
    let s1 := recs.foldl (fun s (t, r) =>
      let x := s.tile t
      s.setTile t { x with queue := if gang then r :: x.queue else x.queue ++ [r] }) s
    setPacket s1 q { p with pushed := p.pushed + recs.length }

/-- PKT_LAUNCH at tiles and with images that firmware chooses. A template or node that the ASID does not hold completes with IMAGE_BAD, error 5 (R406).
DESIGN CHOICE: notes/assumptions/44.md. DEDUCED: notes/assumptions/45.md. -/
def execPktLaunch (q n : Nat) (place : List (Nat × Nat)) (s : State) : Out :=
  packetTurn s q n 1
    (fun p => !p.zero 21 43 || decide (p.f 20 1 ≥ 8) || decide (p.f 16 4 = 0) || decide (p.f 16 4 > 2 ^ 24))
    fun s p =>
      match (tget [] (asidOf s q).templates (p.f 8 2))[p.f 10 2]? with
      | none => finishPacket s q p 0x3F 0 5
      | some nd =>
        let p1 := if p.pushed = 0 ∧ p.waits = [] then
            { p with waits := tabulate (p.f 16 4) fun i => (p.f 12 4 + i) % 2 ^ 32 } else p
        pushLaunch (setPacket s q p1) q p1 nd place

/-! ### BIND (R345, R368) -/

structure BindE where
  base : Nat
  elem : Nat
  rgn : Nat
  slot : Nat
  sink : Bool
  dom : Bool
deriving DecidableEq, Repr

def bindsOf (p : Packet) : List BindE :=
  (List.range 3).filterMap fun i =>
    let o := 16 + 16 * i
    let f := p.f (o + 9) 1
    if bit f 4 then
      some { base := p.f o 8, elem := p.f (o + 8) 1, rgn := bits f 1 0, slot := bits f 3 2, sink := bit f 5, dom := bit f 6 }
    else none

/-- The resident task a BIND names (R354). -/
def bindTask (s : State) (q : Nat) (p : Packet) : Option Nat :=
  (s.tasks.find? fun (_, k) => k.resident && k.trec.asid == (s.queue q).asid && k.trec.template == p.f 8 2
    && k.trec.node == p.f 10 2 && k.trec.inst == p.f 12 4).map (·.1)

/-- An entry's element holds agld, agst or agrmw with TRIG = 0 in the task's region and slot. -/
def bindOk (s : State) (t n : Nat) (b : BindE) : Bool :=
  let c := s.collar t
  let x := c.elem b.elem
  regionOf c b.elem == some b.rgn && (c.region b.rgn).task == some n
  && (match x.curOf b.slot with
    | some p =>
      let y := x.plane p
      (y.opcode == 0x3E || y.opcode == 0x3F || y.opcode == 0x41) && !descTrig s t y
    | none => false)

/-- A SINK element has performed the store of its stream's EOS token in a slot: no start is on its way or held, the
stream is over, and no line is buffered or on its way to memory (R104, R368, R387). -/
def sinkDone (s : State) (u e slot : Nat) : Bool :=
  let c := s.collar u
  let x := c.elem e
  (c.starts.all fun a => a.elem != e || a.slot != slot) && !(c.fly.any fun w => w.elem == e)
  && (match x.curOf slot with
    | none => true
    | some p =>
      let y := x.plane p
      !y.bank.st.on && y.bank.st.held.isNone && y.lines.isEmpty)

/-- PKT_BIND: the descriptors' bases are written, the starts sent; it completes when every SINK element has
performed the store of its stream's EOS token. A template that firmware has discarded is IMAGE_BAD, error 5 (R406). -/
def execPktBind (q n : Nat) (s : State) : Out :=
  packetTurn s q n 2
    (fun p =>
      ((List.range 3).any fun i => bit (p.f (16 + 16 * i + 9) 1) 7 || !p.zero (16 + 16 * i + 10) 6)
      || !(bindsOf p).any fun b => b.sink)
    fun s p =>
      if p.sinks.isEmpty then
        if (asidOf s q).gone.contains (p.f 8 2) then finishPacket s q p 0x3F 0 5
        else match bindTask s q p with
        | none => finishPacket s q p 0x08
        | some k =>
          let t := (s.task k).tile
          let bs := bindsOf p
          if !bs.all (bindOk s t k) then finishPacket s q p 0x26
          else if bs.any fun b => startFull { s with cur := { s.cur with unit := t } } b.slot [b.elem] then
            setPacket s q { p with begun := false }
          else
            let s1 := bs.foldl (fun s b =>
              let x := s.elemOf t b.elem
              let y := x.plane ((x.curOf b.slot).getD 0)
              let s := memWrite s .sched (descPa t y) (bytesOfNat 8 b.base)
              let c := s.collar t
              s.setCollar t { c with starts := c.starts ++
                [{ elem := b.elem, slot := b.slot, dom := boolNat b.dom, at' := s.cycle + 2 }] }) s
            setPacket s1 q { p with sinks := (bs.filter fun b => b.sink).map fun b => (t, b.elem, b.slot) }
      else if p.sinks.all fun x => sinkDone s x.1 x.2.1 x.2.2 then
        let cov := (p.sinks.map fun x => ((taskOf s x.1 x.2.1).map (streamsWritten s)).getD []).flatten
        setPacket s q { p with done := true, fin := (s.queue q).finNext, cov := cov }
      else s

/-! ### LOADOBJ, MAP, UNMAP (R356, R396) -/

/-- Firmware reads memory for a packet under its ASID. -/
def packetRead (s : State) (q va n : Nat) : Except (Option Nat) (List Byte) × State :=
  let asid := (s.queue q).asid
  match vaPieces 64 asid (asidOf s q).root true (reqId 11 q) pRD false (n / 2 ^ 18 + 2) va n s with
  | (.wait, s) => (.error none, s)
  | (.fail c _, s) => (.error (some c), s)
  | (.ok ps, s) => match lineAccess s meshPort (reqId 11 q) 256 none false ps (lineRead .sched 8) with
    | (none, s) => (.error none, s)
    | (some d, s) => (if d.any (·.2) then .error (some 0x14) else .ok (d.map (·.1)), s)

/-- Another LOADOBJ of the ASID that began earlier goes on (R402). -/
def loadBehind (s : State) (asid : Nat) (p : Packet) : Bool :=
  s.queues.any fun (_, x) => x.asid == asid && x.packets.any fun r =>
    r.ty == 3 && r.begun && !r.done && r.no != 0 && decide (r.no < p.no)

/-- PKT_LOADOBJ: the loads of an ASID run one at a time in the order they begin (R402). DESIGN CHOICE: notes/assumptions/44.md. -/
def execPktLoadobj (q n : Nat) (fw : LoadFw) (s : State) : Out :=
  packetTurn s q n 3 (fun p => !p.zero 28 36 || decide (p.f 24 4 ≥ 4)) fun s p =>
    let a := asidOf s q
    let first := decide (p.no = 0)
    let p := if first then { p with no := a.loads + 1 } else p
    let s := if first then { setPacket s q p with asids := tput s.asids (s.queue q).asid { a with loads := a.loads + 1 } } else s
    if loadBehind s (s.queue q).asid p then s
    else match packetRead s q (p.f 8 8) (p.f 16 8) with
    | (.error none, s) => s
    | (.error (some _), s) => finishPacket s q p 0x3F 0 14
    | (.ok b, s1) =>
      match loadObject s1 (s.queue q).asid b (p.f 24 4) fw with
      | .error e => finishPacket s1 q p 0x3F 0 e
      | .ok (s2, h) => finishPacket s2 q p 0 h

/-- PKT_MAP: leaves are written into the tables of the packet's ASID; `tables` are pages that firmware
gives for tables that are missing. -/
def execPktMap (q n : Nat) (tables : List Nat) (s : State) : Out :=
  packetTurn s q n 4
    (fun p =>
      let ps := bits (p.f 33 1) 1 0
      let sz := leafSize ps
      !p.zero 34 30 || bits (p.f 33 1) 7 2 != 0 || bit (p.f 32 1) 0 || bit (p.f 32 1) 7 || ps == 0
      || p.f 24 8 % sz != 0 || p.f 24 8 == 0 || p.f 8 8 % sz != 0 || p.f 16 8 % sz != 0
      || decide (p.f 8 8 + p.f 24 8 > 2 ^ 52) || !leafRangeOk (p.f 16 8) sz (bits (p.f 32 1) 5 1))
    fun s p =>
      let ps := bits (p.f 33 1) 1 0
      let sz := leafSize ps
      let r := (List.range (p.f 24 8 / sz)).foldl (fun (o : Option (State × List Nat)) i => o.bind fun (s, fr) =>
        mapPage s (asidOf s q).root (p.f 8 8 + i * sz) (p.f 16 8 + i * sz) (bits (p.f 32 1) 5 1) ps (bit (p.f 32 1) 6) fr)
        (some (s, tables))
      match r with
      | some (s, left) =>
        finishPacket { s with mod := { s.mod with tablePages := s.mod.tablePages ++ left } } q p 0
      | none => finishPacket s q p 0x08

/-- Leaves of a range are removed. -/
def unmapRange (root : Nat) : Nat → Nat → Nat → State → State
  | 0, _, _, s => s
  | fuel + 1, va, hi, s =>
    if va ≥ hi then s
    else match unmapPage s va 4 0 root with
      | some (s, sz) => unmapRange root fuel (va / sz * sz + sz) hi s
      | none => unmapRange root fuel (va / 2 ^ 18 * 2 ^ 18 + 2 ^ 18) hi s

/-- PKT_UNMAP: it completes after the invalidation of R78 and the commands that may have translated the
pages. -/
def execPktUnmap (q n : Nat) (s : State) : Out :=
  packetTurn s q n 5
    (fun p => !p.zero 24 40 || p.f 8 8 % 2 ^ 18 != 0 || p.f 16 8 % 2 ^ 18 != 0 || decide (p.f 8 8 + p.f 16 8 > 2 ^ 52))
    fun s p =>
      let asid := (s.queue q).asid
      let s1 :=
        if p.pushed = 0 then
          let s1 := unmapRange (asidOf s q).root (p.f 16 8 / 2 ^ 18 + 1) (p.f 8 8) (p.f 8 8 + p.f 16 8) s
          let inv : Inv := { kind := 3, asid := asid, vpn := 0, bc := true }
          let s2 := { s1 with
            xus := s1.xus.map fun (u, x) =>
              (u, { x with tlb := x.tlb.filter (fun e => !invHits inv e), miss := x.miss.filter fun e => !invMiss inv e })
            walkers := s1.walkers.map fun (d, w) => (d, { w with ptrs := [] }) }
          setPacket s2 q { p with pushed := 1 }
        else s
      if s1.engines.any fun (_, e) => e.q.any fun c => c.asid == asid then s1
      else finishPacket s1 q p 0

/-! ### SIGNAL, WAIT, COPY, FENCE, CTX (R356) -/

def setAsid (s : State) (a : Nat) (x : Asid) : State := { s with asids := tput s.asids a x }

/-- PKT_SIGNAL. -/
def execPktSignal (q n : Nat) (s : State) : Out :=
  packetTurn s q n 6
    (fun p => decide (p.f 8 2 > 255) || decide (p.f 10 1 > 1) || !p.zero 11 5 || !p.zero 24 40)
    fun s p =>
      let a := asidOf s q
      let v := BitVec.ofNat 64 (p.f 16 8)
      let new := if p.f 10 1 = 0 then v else tget 0 a.signals (p.f 8 2) + v
      finishPacket (setAsid s (s.queue q).asid { a with signals := tput a.signals (p.f 8 2) new }) q p 0 new.toNat

/-- PKT_WAIT: it blocks its queue until the signal meets the condition. -/
def execPktWait (q n : Nat) (s : State) : Out :=
  packetTurn s q n 7
    (fun p => decide (p.f 8 2 > 255) || decide (p.f 10 1 > 1) || !p.zero 11 5 || !p.zero 24 40)
    fun s p =>
      let v := tget 0 (asidOf s q).signals (p.f 8 2)
      let c := BitVec.ofNat 64 (p.f 16 8)
      if (if p.f 10 1 = 0 then decide (v.toNat ≥ c.toNat) else v == c) then finishPacket s q p 0 else s

/-- PKT_COPY: the block runs on the copy engine of the tile firmware chooses; its token bytes are ignored. -/
def execPktCopy (q n tile : Nat) (s : State) : Out :=
  packetTurn s q n 8 (fun p => !p.zero 16 48 || p.f 8 8 % 64 != 0) fun s p =>
    if p.pushed = 1 || !engFree s (.tile tile) then s
    else match packetRead s q (p.f 8 8) 64 with
      | (.error none, s) => s
      | (.error (some c), s) => finishPacket s q p c
      | (.ok b, s1) =>
        let b1 := b.take 2 ++ List.replicate 4 0 ++ b.drop 6
        let asid := (s.queue q).asid
        let read := match (vaPieces 64 asid (asidOf s1 q).root true (reqId 11 q) pRD false 2 (p.f 8 8) 64 s1).1 with
          | .ok ps => ps.map fun r => (r.1, b.take r.2)
          | _ => []
        setPacket (acceptCmd s1 (.tile tile) none tile asid (asidOf s q).root b1 [1] none (some (q, n)) read) q
          { p with pushed := 1 }

/-- PKT_FENCE: complete when every earlier packet is; its record releases their writes. -/
def execPktFence (q n : Nat) (s : State) : Out :=
  packetTurn s q n 9 (fun p => !p.zero 8 56) fun s p =>
    let x := s.queue q
    if earlierDone x p then
      let ws := (x.packets.takeWhile fun r => r.n != p.n).foldl (fun l r => l ++ r.cov.filter fun w => !l.contains w) x.past
      finishPacket s q { p with cov := ws } 0
    else s

/-- A root table address (R68). -/
def rootOk (pa : Nat) : Bool := decide (pa % 8192 = 0) && decide (pa + 8192 ≤ hbmEnd)

def ctxBad (p : Packet) (op : Nat) (root : Bool) : Bool :=
  p.f 8 1 != op || !p.zero 9 7 || !p.zero 24 40 || (if root then !rootOk (p.f 16 8) else !p.zero 16 8)

/-- The CTX packets, one for each OP. Another OP's turn leaves the packet alone. -/
def ctxTurn (s : State) (q n op : Nat) (root : Bool) (f : State → Packet → State) : Out :=
  match (s.queue q).packets.find? fun p => p.n == n with
  | some p =>
    -- a reserved OP is refused by the turn of OP 0
    if p.f 8 1 = op ∨ (op = 0 ∧ p.f 8 1 > 2) then
      packetTurn s q n 10 (fun p => ctxBad p op root) fun s p => finishPacket (f s p) q p 0
    else .next s
  | none => .next s

/-- PKT_CTX_CREATE: signals start at 0. -/
def execPktCtxCreate (q n : Nat) (s : State) : Out :=
  ctxTurn s q n 0 true fun s p =>
    setAsid s (s.queue q).asid { live := true, root := p.f 16 8, quota := (asidOf s q).quota }
/-- PKT_CTX_DESTROY: the context's objects go, and their pins are released (R405). -/
def execPktCtxDestroy (q n : Nat) (s : State) : Out :=
  ctxTurn s q n 1 false fun s _ => setAsid (discardObjects s (s.queue q).asid) (s.queue q).asid {}
/-- PKT_CTX_SET_ROOT. -/
def execPktCtxSetRoot (q n : Nat) (s : State) : Out :=
  ctxTurn s q n 2 true fun s p => setAsid s (s.queue q).asid { asidOf s q with root := p.f 16 8 }

end Sys2Proof.Machine
end

