-- ==== Sys2Proof/Machine/Repair.lean ====
section
/-!
DEFINITION. Repair tokens, and the corner that answers fault tokens (R80, R375-R380, R386-R389, R393).
-/
namespace Sys2Proof.Machine

/-! ### Which repairs are accepted (R377, R379, R393) -/

/-- The cause a record's repairs are judged by: that of the fault a refused rollback was for (R377). -/
def FRec.origCause (f : FRec) : Nat := if f.cause = 0x28 then f.detail % 64 else f.cause

/-- Whether an action is accepted for a cause (R377, R393). -/
def actionFor (act cause : Nat) : Bool :=
  match act with
  | 0 => [0x08, 0x0D, 0x10, 0x11, 0x12, 0x13, 0x14, 0x16, 0x1A, 0x1F, 0x20, 0x21, 0x22, 0x23, 0x24, 0x3A].contains cause
  | 1 => decide (0x30 ≤ cause) && decide (cause ≤ 0x33)
  | 2 => decide (0x30 ≤ cause) && decide (cause ≤ 0x33)
  | 3 => [0x10, 0x11, 0x12, 0x13, 0x14, 0x1F].contains cause
  | 4 => [0x08, 0x0D, 0x16, 0x1A, 0x20, 0x21, 0x22, 0x23, 0x24, 0x3A].contains cause
  | 5 => true
  | 6 => true
  | _ => false

/-- Whether a record accepts an action: the payload reader takes three, and a refused rollback is not
asked for again (R377). -/
def FRec.accepts (f : FRec) (act : Nat) : Bool :=
  actionFor act f.origCause && !(f.cause == 0x28 && act == 5)
  && (f.unit != 256 || act == 0 || act == 3 || act == 6)

/-- The corner has answered the fault token of a record (R378). -/
def cornerDone (s : State) (f : FRec) : State :=
  let st := stripOf f.tile
  let c := s.collar st
  s.setCollar st { c with corner := c.corner.filter fun g => !(g.tile == f.tile && g.unit == f.unit && g.fseq == f.fseq) }

/-- A repair token arrives: it takes effect where it matches the record and its action is accepted, else
it is discarded (R378, R379). -/
def repairWith (act : Nat) (r : Repair) (s : State) (f : FRec → State → State) : Out :=
  match outstanding s r with
  | none => .next (repairBad s act r)
  | some g => if repairNames r g && g.accepts act then .next (f g (cornerDone s g)) else .next (repairBad s act r)

/-! ### What the actions do (R377) -/

def FRec.slot (f : FRec) : Nat := bits f.ctx 3 2
def FRec.plane (f : FRec) : Nat := bits f.ctx 5 4

/-- The unit attempts its operation again. -/
def clearFault (s : State) (f : FRec) : State :=
  if f.unit = 256 then
    let x := s.tile f.tile
    s.setTile f.tile { x with wd := { x.wd with readFault := none } }
  else s.setElem f.tile f.unit { s.elemOf f.tile f.unit with fault := none }

/-- The attempt is made under a grant: 1 REPLACE, 2 DEFAULT, 3 ZERO, 4 DISCARD at a switch. -/
def grantTo (s : State) (f : FRec) (g value : Nat) : State :=
  let s1 := clearFault s f
  let y := s1.planeOf f.tile f.unit f.plane
  s1.setPlane f.tile f.unit f.plane
    { y with bank := { y.bank with st := { y.bank.st with grant := some g, value := value } } }

/-- A translation is redone from the root: none held before the fault is used (R80). -/
def dropTranslation (s : State) (f : FRec) : State :=
  let i : Inv := { kind := 0, asid := f.asid, vpn := f.addr / 2 ^ 18, bc := false }
  let x := s.xu f.tile
  let d := unitDie f.tile
  let w := tget ({} : Walker) s.walkers d
  let s1 := if thas s.xus f.tile then s.setXu f.tile { x with tlb := x.tlb.filter fun e => !invHits i e } else s
  if thas s.walkers d then
    { s1 with walkers := tput s.walkers d { w with ptrs := w.ptrs.filter fun p => !invPtr i p } }
  else s1

/-- REPAIR_RETRY (R80, R377). -/
def execRepairRetry (r : Repair) (s : State) : Out :=
  repairWith 0 r s fun f s =>
    let s1 := clearFault s f
    if [0x10, 0x11, 0x12, 0x14, 0x1F].contains f.origCause then dropTranslation s1 f else s1

/-- REPAIR_REPLACE: VALUE stands for each value that met a condition (R377). -/
def execRepairReplace (r : Repair) (s : State) : Out :=
  repairWith 1 r s fun f s => grantTo s f 1 r.value.toNat

/-- REPAIR_DEFAULT: the element fires as if sv were 0 (R377). -/
def execRepairDefault (r : Repair) (s : State) : Out :=
  repairWith 2 r s fun f s => grantTo s f 2 0

/-- REPAIR_ZERO: the line is delivered as zeros, or skipped (R377). A descriptor that could not be read is
read again, since no iteration has a line yet. DEDUCED: notes/assumptions/49.md. -/
def execRepairZero (r : Repair) (s : State) : Out :=
  repairWith 3 r s fun f s =>
    if f.unit = 256 then
      let s1 := clearFault s f
      let x := s1.tile f.tile
      let addr := f.idx.getD 0 0 + 2 ^ 32 * f.idx.getD 1 0
      match readerBlk x.wd with
      | some b => if b.addr = addr then setWd s1 f.tile (putBlk x.wd { b with zero := b.zero ++ [f.addr / 64 * 64] }) else s1
      | none => s1
    else
      let y := s.planeOf f.tile f.unit f.plane
      if y.bank.st.wantDesc || !(y.opcode == 0x3E || y.opcode == 0x3F || y.opcode == 0x41) then clearFault s f
      else grantTo s f 3 0

/-- Count dropped tokens in DISC (R136, R377). -/
def Plane.disc (y : Plane) (n : Nat) : Plane :=
  { y with bank := { y.bank with disc := min 0xFFFF (y.bank.disc + n) } }

/-- The token that no queue of an element takes is dropped at the box before it. -/
def dropEdge (s : State) (u e : Nat) : State :=
  let c := s.collar u
  let b := boxOf e
  let x := c.box b
  let bad (k : Nat) : Bool := match tget [] x.dbuf k with
    | t :: _ => (match intake s u e t with
        | .fault _ _ => true
        | _ => false)
    | [] => false
  let drop (k : Nat) : State := s.setCollar u (c.setBox b { x with dbuf := tput x.dbuf k ((tget [] x.dbuf k).drop 1) }.settle)
  if bad (portOf e) then drop (portOf e)
  else if bad (16 + portOf e) then drop (16 + portOf e)
  else s.setCollar u (c.setBox b { x with pbuf := tput x.pbuf (portOf e) ((tget [] x.pbuf (portOf e)).drop 1) }.settle)

/-- The result that a box refused is dropped. -/
def dropResult (s : State) (u e : Nat) : State :=
  let c := s.collar u
  let x := c.elem e
  let data := match x.out with
    | o :: _ => !pathOk c o.tok.rgn o.tok.plane o.tok.vc false 64 (boxOf e) (portOf e)
    | [] => false
  s.setElem u e (if data then { x with out := x.out.drop 1 } else { x with pout := x.pout.drop 1 })

/-- The withheld tokens are dropped and counted (R145, R377). DEDUCED: notes/assumptions/49.md. -/
def discardAt (s : State) (f : FRec) : State :=
  let u := f.tile
  let e := f.unit
  let s1 := clearFault s f
  let x := s1.elemOf u e
  let p := f.plane
  let y := x.plane p
  let cause := f.origCause
  let heads := (srcQ y.eop).filter fun q => !(y.queue q).isEmpty
  let put (y : Plane) (s : State) : State := s.setPlane u e p y
  let again (s : State) (n : Nat) : State := put ((s.planeOf u e p).disc n) s
  if cause = 0x22 then
    if x.switching.contains f.slot && thas x.final f.slot then grantTo s f 4 0
    else put ((heads.filter fun q => !(((y.queue q).head?).map (·.eos)).getD true).foldl drainTo y) s1
  else if cause = 0x20 then again (dropEdge s1 u e) 1
  else if cause = 0x21 ∧ y.bank.st.req.isNone ∧ !(y.opcode == 0x3E && !heads.isEmpty) then again (dropResult s1 u e) 1
  else if cause = 0x24 ∧ y.opcode = 0x42 then
    -- the row part stands in the FEED (R189)
    again (match (feedHeld x f.slot).head? with
      | some t => s1.setElem u e { x with inbox := x.inbox.erase t }
      | none => s1) 1
  else if cause = 0x1A ∧ !y.lines.isEmpty ∧ x.place = 4 then again (put { y with lines := y.lines.drop 1 } s1) 1
  else
    let ended := heads.any fun q => (((y.queue q).head?).map (·.eos)).getD false
    let y1 := (y.consume heads y.eop.pg).disc heads.length
    let atEnd := (srcQ y.eop).all fun q => (((y.queue q).head?).map (·.eos)).getD false
    let y2 := { y1 with atend := y1.atend || ended, ended := y1.ended || atEnd
                        bank := { y1.bank with st := { y1.bank.st with req := none, ph := 0 } } }
    let s2 := put y2 s1
    let x2 := s2.elemOf u e
    if atEnd && x2.switching.contains f.slot then s2.setElem u e { x2 with final := tput x2.final f.slot s.cycle }
    else s2

/-- REPAIR_DISCARD (R377). -/
def execRepairDiscard (r : Repair) (s : State) : Out := repairWith 4 r s fun f s => discardAt s f

/-! ### Rollback (R388, R389) -/

/-- Why a rollback of a slot is refused, as DETAIL [10:8] gives it (R389). -/
def rollbackRefusal (s : State) (u r slot : Nat) : Option Nat :=
  let c := s.collar u
  let g := c.region r
  let ys := ((slotElems c g slot).map fun (e, p) => (c.elem e).plane p).filter fun y => y.opcode != 0
  if g.k = 0 ∨ ys.any (fun y => y.cutDone.isNone) = true then some 1
  else if g.broken.contains slot then some 2
  else if ys.any fun y => [0x40, 0x41, 0x44, 0x45, 0x46].contains y.opcode
      || (y.opcode == 0x3E && (descTrig s u y || descNode s u y)) then some 3
  else if g.switches.any fun w => w.slot == slot then some 4
  else none

/-- An element goes back to its bank of the last complete cut, without its tokens (R388). -/
def rollbackElem (x : Elem) (slot p : Nat) : Elem :=
  let y := x.plane p
  let (k, b) := y.cutDone.getD (0, y.bank)
  let y1 := { y with
    bank := { b with st := { b.st with grant := none } }
    qa := [], qb := [], qc := [], qp := [], cuts := [], cload := [], bnrs := k
    trapped := false, atend := false, ended := false, lines := y.lines.filter fun l => decide (l.ivl ≤ k), lineTo := min y.lineTo k }
  { x.setPlane p y1 with
    out := x.out.filter fun o => o.tok.slot != slot
    pout := x.pout.filter fun o => o.pen.slot != slot
    inbox := x.inbox.filter fun t => t.slot != slot
    closed := tdel x.closed p
    fault := match x.fault with
      | some f => if f.slot = slot then none else some f
      | none => none }

/-- The slot returns to its last complete cut (R388). -/
def rollbackSlot (s : State) (u r slot : Nat) : State :=
  let c := s.collar u
  let c1 := (slotElems c (c.region r) slot).foldl (fun c (e, p) => c.setElem e (rollbackElem (c.elem e) slot p)) c
  let off (t : Tok) : Bool := t.rgn != r || t.slot != slot || t.vc == 31
  let offP (t : Pen) : Bool := t.rgn != r || t.slot != slot
  let clean (x : Box) : Box := Box.settle { x with
    dbuf := x.dbuf.map fun (k, l) => (k, l.filter off)
    pbuf := x.pbuf.map fun (k, l) => (k, l.filter offP)
    mesh := x.mesh.filter off, meshPen := x.meshPen.filter offP }
  -- what an agrmw of the slot still returns is dropped with its results
  let mine := (slotElems c (c.region r) slot).map (·.1)
  s.setCollar u { c1 with
    boxes := c1.boxes.map fun (b, x) => (b, clean x)
    fly := c1.fly.map fun w => if mine.contains w.elem then { w with rmw := w.rmw.map fun m => { m with ret := false } } else w }

/-- REPAIR_ROLLBACK; a refused one is told by a record of its own (R388, R389). -/
def execRepairRollback (r : Repair) (s : State) : Out :=
  repairWith 5 r s fun f s =>
    let rg := f.ctx % 4
    match rollbackRefusal s f.tile rg f.slot with
    | none => rollbackSlot s f.tile rg f.slot
    | some why =>
      let x := s.elemOf f.tile f.unit
      let g : FRec := { f with cause := 0x28, fseq := (x.fseq + 1) % 256, detail := f.cause + 2 ^ 8 * why }
      sendFault (s.setElem f.tile f.unit { x with fault := some g, fseq := g.fseq }) g

/-- REPAIR_ESCALATE: the unit stays stopped, and the record goes to the CP mailbox (R377, R426). -/
def execRepairEscalate (r : Repair) (s : State) : Out :=
  repairWith 6 r s fun f s => s.report { kind := 1, src := f.tile, unit := f.unit, cause := f.cause, bytes := f.bytes }

/-! ### Registers of the corner (R380) -/

/-- RPTOK7: the assembled token goes on its way to its unit (R380). DEDUCED: notes/assumptions/74.md. -/
def execRptokSend (strip : Nat) (v : W64) (s : State) : Out :=
  let c := s.collar strip
  .next (sendRepair s strip (tabulate 8 fun n => bytesOfNat 8 (if n = 7 then v else tget 0 c.rptok n).toNat).flatten)

/-- CORNSTAT.CLR (R380). -/
def execCornstatClr (strip : Nat) (s : State) : Out := .next (s.setCollar strip { s.collar strip with rbad := 0 })

end Sys2Proof.Machine
end

