-- ==== Sys2Proof/Machine/Module.lean ====
section
/-!
DEFINITION. The mailbox, alarms, health, soft errors, retirement, clock, power and resets (R62, R102, R373,
R393, R394, R407, R420-R433).
-/
namespace Sys2Proof.Machine

/-! ### The mailbox (R426) -/

/-- The CP's machine external interrupt is asserted (R426). -/
def cpInterrupt (s : State) : Bool := !s.mod.inbox.isEmpty

/-- MBXPOP: the head message goes, and one that waited at its source comes in (R426). -/
def execMbxPop (s : State) : Out :=
  let m := s.mod
  match m.inbox with
  | [] => .next s
  | _ :: rest => .next { s with mod := { m with inbox := rest ++ m.waiting.take 1, waiting := m.waiting.drop 1 } }

/-- MBXSEND.GO (R426). -/
def execMbxSend (strip elem : Nat) (s : State) : Out :=
  let m := s.mod
  if m.outbox.length ≥ 16 then .next { s with mod := { m with serr := true } }
  else
    let b := (tabulate 8 fun n => bytesOfNat 8 (tget 0 m.mbxout n).toNat).flatten
    .next { s with mod := { m with outbox := m.outbox ++ [(strip, elem, b)] } }

/-- The slot and plane in which an element holds recv bound to the mailbox (R173, R426). -/
def recvPlane (x : Elem) : Option (Nat × Nat) :=
  x.cur.find? fun k => (x.plane k.2).opcode == 0x46 && (x.plane k.2).mf 10 8 == 3

/-- MAILBOX_DELIVER: the head outbound message reaches its PORT, or is discarded (R426).
DEDUCED: notes/assumptions/54.md. -/
def execMailboxDeliver (s : State) : Out :=
  let m := s.mod
  match m.outbox with
  | [] => .next s
  | (strip, elem, b) :: rest =>
    let x := s.elemOf strip elem
    match (if 64 ≤ strip ∧ strip < 68 then recvPlane x else none) with
    | none => .next { s with mod := { m with outbox := rest, serr := true } }
    | some (slot, p) =>
      if !x.inbox.isEmpty then .next s
      else
        let t : Tok := { vc := 0, lcnt := 16, seq := choose s 970 16, val := lineOfBytes b, slot := slot, plane := p, src := elem
                         rgn := regionNum (s.collar strip) elem, at' := s.cycle }
        .next ({ s with mod := { m with outbox := rest } }.setElem strip elem { x with inbox := [t] })

/-! ### Alarms (R424, R425, R427) -/

/-- The key store is erased (R425). DESIGN CHOICE: notes/assumptions/15.md. -/
def eraseKeys (s : State) : State := { s with mod := { s.mod with keys := [], idKey := none, erased := true } }

/-- An alarm latches ALARM and the first SRC, is reported, and under POLICY erases the key store (R425).
DESIGN CHOICE: notes/assumptions/52.md. -/
def alarmDo (s : State) (src : Nat) : State :=
  let m := s.mod
  let s1 := if m.alarm then s else { s with mod := { m with alarm := true, src := src } }
  let s2 := s1.reportF 0x3E 64 0 []
  if m.policy then eraseKeys s2 else s2
def execSecurityAlarm (src : Nat) (s : State) : Out := .next (alarmDo s src)

/-- POLICY is written once after a cold reset (R424). -/
def policyDo (s : State) (policy : Bool) : State :=
  if s.mod.lock then s
  else
    let s1 := { s with mod := { s.mod with policy := policy, lock := true } }
    if policy && s.mod.alarm then eraseKeys s1 else s1
def execSecalmPolicyWrite (policy : Bool) (s : State) : Out := .next (policyDo s policy)

/-- HEALTH: a write that lowers STATE or writes 3 is ignored (R430). DEDUCED: notes/assumptions/26.md. -/
def execHealthWrite (v : W64) (s : State) : Out :=
  let n := v.toNat
  let st := bits n 1 0
  if st = 3 ∨ st < s.mod.health then .next s
  else .next { s with mod := { s.mod with health := st, ready := bit n 24, dlane := bits n 23 16, rtile := bits n 15 8 } }

/-- The attestation report's bytes 0-119, which its signature covers (R422); `fw` and `objs` are the hashes
of bytes 56-87 and 88-119. -/
def reportBytes (ident health secalm : W64) (nonce fw objs : List Byte) : List Byte :=
  bytesOfNat 8 ident.toNat ++ bytesOfNat 8 health.toNat ++ bytesOfNat 8 secalm.toNat
  ++ nonce.take 32 ++ fw.take 32 ++ objs.take 32

/-- The key store signs a report with the identity key it holds: the leaf index advances before the signature is
released, and after 32,768 signatures, or under an alarm, none is given (R421, R425). DESIGN CHOICE: notes/assumptions/15.md. -/
def attest (s : State) (report : List Byte) : List Byte × State :=
  match s.mod.idKey with
  | none => (report ++ bytesOfNat 4 0, s)
  | some key =>
    if s.mod.alarm || s.mod.erased || decide (s.mod.leaf ≥ 32768) then (report ++ bytesOfNat 4 0, s)
    else
      let sig := Config.lmsSign key s.mod.leaf report
      (report ++ bytesOfNat 4 sig.length ++ sig, { s with mod := { s.mod with leaf := s.mod.leaf + 1 } })

/-! ### Soft errors (R62, R102, R127, R373, R393, R428, R429) -/

/-- The HBM stack of an address (R61). -/
def stackAt (pa : Nat) : Nat := 3 * (pa / 0x3000000000) + pa % 0x3000000000 / 0x1000 % 3

/-- The address within that stack (R61). -/
def stackLocal (pa : Nat) : Nat := pa % 0x3000000000 / 0x1000 / 3 * 0x1000 + pa % 0x1000

/-- A unit of memory becomes poisoned (R62, R102). -/
def poisonAt (s : State) (pa : Nat) : State :=
  let b := (poisonUnit pa).1
  if s.mem.poison.contains b then s else { s with mem := { s.mem with poison := s.mem.poison ++ [b] } }

/-- A stack with more than 64 poisoned half-lines asks for the module's replacement (R429). -/
def stackHealth (s : State) (pa : Nat) : State :=
  let n := (s.mem.poison.filter fun b => decide (b < hbmEnd) && stackAt b == stackAt pa).length
  if n > 64 then raiseHealth s 2 else s

/-- The slot and plane an element's error shows in: those it fires for, else its first. -/
def errorPlane (s : State) (u e : Nat) : Option (Nat × Nat) :=
  let c := s.collar u
  let x := c.elem e
  let sel := (regionOf c e).bind fun r => (c.region r).sel
  match x.cur.find? fun k => some k.1 == sel with
  | some k => some k
  | none => x.cur.head?

/-- Entry `i` of a list is changed. -/
def badAt {α : Type} (l : List α) (f : α → α) : Nat → List α
  | 0 => match l with
    | [] => []
    | a :: t => f a :: t
  | i + 1 => match l with
    | [] => []
    | a :: t => a :: badAt t f i

/-- SOFT_ERROR: what is hit is marked, and a later read finds it; a corrupted value is free.
DESIGN CHOICE: notes/assumptions/5.md. DEDUCED: notes/assumptions/50.md. -/
def execSoftError (e : SoftErr) (s : State) : Out :=
  match e with
  | .hbmCorrected k =>
    let s1 := { s with mem := { s.mem with ceHbm := tput s.mem.ceHbm k (tget 0 s.mem.ceHbm k + 1) } }
    .next (countError s1 (1024 + k) false)
  | .hbmHalf pa =>
    if place pa == .hbm then .next (stackHealth (countError (poisonAt s pa) (1024 + stackAt pa) true) pa) else .next s
  | .spmCorrected t =>
    let s1 := { s with mem := { s.mem with ceSpm := tput s.mem.ceSpm t (tget 0 s.mem.ceSpm t + 1) } }
    .next (countError s1 t false)
  | .spmWord pa =>
    match place pa with
    | .spm t _ => .next (countError (poisonAt s pa) t true)
    | _ => .next s
  | .queueEntry u el p q i =>
    let y := s.planeOf u el p
    let y := if q = 3 then { y with qp := badAt y.qp (fun t => { t with bad := true }) i }
      else y.setQueue q (badAt (y.queue q) (fun t => { t with bad := true }) i)
    .next (countError (s.setPlane u el p y) u true)
  | .boxEntry u b pen port i =>
    let c := s.collar u
    let x := c.box b
    let x := if pen then { x with pbuf := tput x.pbuf port (badAt (tget [] x.pbuf port) (fun t => { t with bad := true }) i) }
      else { x with dbuf := tput x.dbuf port (badAt (tget [] x.dbuf port) (fun t => { t with bad := true }) i) }
    .next (countError (s.setCollar u (c.setBox b x)) u true)
  | .planeWords u el =>
    match errorPlane s u el with
    | none => .next s
    | some (_, p) => .next (countError (s.setPlane u el p { s.planeOf u el p with bad := true }) u true)
  | .meshToken u el =>
    match errorPlane s u el with
    | none => .next s
    | some (slot, p) => .next (countError (elemFault s u el slot p 0x2C { detail := 4 }) u true)
  | .accWord t row col =>
    let a := s.arr t
    let k := accIdx row col
    .next (countError (s.setArr t { a with
      acc := tput a.acc k (BitVec.ofNat 32 (undef s 981)), accBad := a.accBad ++ [k] }) t true)
  | .regWord t vec r =>
    let x := s.tile t
    let d : Dest := if vec then .v (r % 32) else .s (r % 32)
    .next (countError (s.setTile t { x with
      ctx := x.ctx.put d (undef s 982), regBad := x.regBad ++ [destKey d] }) t true)
  | .weightSlot t slot =>
    let a := s.arr t
    .next (countError (s.setArr t { a with wbufBad := a.wbufBad ++ [slot % 4] }) t true)
  | .contextStore u img =>
    let k := choose s 983 ((imageOf s u img).size / 8)
    .next (countError (poisonAt s (ctxAddr u (img * 0x4000) + 8 * k)) u true)

/-! ### Retirement of a tile (R201, R394, R429) -/

/-- A record goes to the tile that firmware names, if it takes it and no other waits, and to the run list otherwise
(R394). -/
def placeRecord (s : State) (want : Option Nat) (r : TRec) : State :=
  match want with
  | some u =>
    if takesRecord s u && s.mod.runList.isEmpty then
      let x := s.tile u
      s.setTile u { x with queue := x.queue ++ [r] }
    else enlistRecord s r none
  | none => enlistRecord s r none

/-- A parked task leaves a tile that is retired: firmware copies its image to its IMAGE area, with the window, the
regions and the buffers that it has kept on the tile as a pre-emption saves them, and its record goes to another tile;
or it fails (R109, R391, R394). DEDUCED: notes/assumptions/90.md. -/
def moveParked (s : State) (t : Nat) (want : Option Nat) (p : Parked) : State :=
  let n := p.task
  let k := s.task n
  let keep := keptBufs k (savedBundle k)
  let s1 := landElems (arriveStarts s t n) t fun w => taskOf s t w.elem == some n
  match parkImage s (imgAtOf s t n p.place), imageBad s1 t n keep with
  | some b, [] =>
    let img := wholeImage s1 t n ((b.drop 64).take 8128) keep
    let s2 := releaseTask (rawWrite (s1.setTask n { s1.task n with savedWhy := some p.why }) k.trec.image img) t n
    placeRecord s2 want k.trec
  | _, _ => refuseResume s t n 0x3D

/-- TILE_RETIREMENT (R394). The running task's abort comes to its end as any abort does (R363). -/
def execTileRetirement (t : Nat) (moves : List Nat) (s : State) : Out :=
  let x := s.tile t
  if x.retired then .next s
  else
    let k := s.mod.rtile + 1
    let s1 := s.setTile t { x with retired := true, queue := [] }
    let s2 := { s1 with mod := { s1.mod with rtile := min 64 k, retired := s1.mod.retired ++ [t] } }
    let s3 := raiseHealth s2 (if k ≥ 4 then 2 else 1)
    let s4 := (List.range x.parked.length).foldl (fun s i =>
      match x.parked[i]? with
      | some p => moveParked s t moves[i]? p
      | none => s) s3
    let s5 := (List.range x.queue.length).foldl (fun s i =>
      match x.queue[i]? with
      | some r => placeRecord s moves[x.parked.length + i]? r
      | none => s) s4
    let s6 := pushWaiting s5
    if x.task.isSome then startAbort s6 t none true else .next s6

/-! ### Clock, power and the network's pauses (R407, R427, R431) -/

/-- CLOCK_THROTTLING: a step of 100 MHz down, no lower than 1.0 GHz (R431). DESIGN CHOICE: notes/assumptions/56.md. -/
def execClockThrottling (mhz : Nat) (s : State) : Out :=
  if 1000 ≤ mhz ∧ mhz + 100 = s.mod.mhz then .next { s with mod := { s.mod with mhz := mhz } } else .next s

/-- PAUSE_FRAME: a priority of the Ethernet port is paused or goes on (R407). DEDUCED: notes/assumptions/57.md. -/
def execPauseFrame (prio : BitVec 3) (pause : Bool) (s : State) : Out :=
  let rest := s.mod.paused.filter (· != prio.toNat)
  if !s.mod.ethUp then .next s
  else .next { s with mod := { s.mod with paused := if pause then rest ++ [prio.toNat] else rest } }

/-- What outlives the loss of power: the key store, firmware's settings and its log, with what has been sent.
DESIGN CHOICE: notes/assumptions/13.md. -/
def keepOver (s : State) (m : Module) : State :=
  { State.reset with
    cycle := s.cycle, free := s.free, inputs := s.inputs, outbox := s.outbox
    side := s.side
    mod := { m with keys := s.mod.keys, idKey := s.mod.idKey, leaf := s.mod.leaf, rootKeys := s.mod.rootKeys
                    revoked := s.mod.revoked, counts := s.mod.counts, ceMax := s.mod.ceMax, ueMax := s.mod.ueMax
                    dims := s.mod.dims, coord := s.mod.coord } }

/-- POWER_LOSS (R427). -/
def execPowerLoss (s : State) : Out := .next (keepOver s { powered := false })

/-! ### Resets and bring-up (R432, R433) -/

/-- The health state that the counts of the log give (R428, R429). -/
def logHealth (m : Module) : Nat :=
  if m.counts.any fun (k, n) => decide (n ≥ (if k % 2 = 1 then m.ueMax else m.ceMax)) then 1 else 0

/-- Repair fuses are applied (R202, R433). -/
def applyFuses (s : State) : State :=
  s.mod.fuses.foldl (fun s (t, m, a) =>
    s.setArr t { s.arr t with arrmap := m &&& BitVec.ofNat 64 arrmapMask, accspare := a &&& 0xFFFF }) s

/-- Steps 5 to 10 of bring-up (R433). `h` is the health state of the flash log. Where the Ethernet port fails to train, no
request from outside reaches the module. -/
def bringupFrom5 (s : State) (b : Bringup) (h : Nat) : State :=
  let s1 := applyFuses (policyDo s b.policy)
  let bad := b.badTiles.filter (· < 64)
  let s2 := bad.foldl (fun s t => s.setTile t { s.tile t with retired := true }) s1
  let s3 := (List.range 6).foldl (fun s i =>
    trainAt s (1 + i / 2) (i % 2) 0 (b.lanes.getD i 0)) s2
  let low := ((List.range 6).filter fun i => (s3.link (2 + i)).state == 2 && (s3.link (2 + i)).width != 0).length
  let tiles := if bad.length ≥ 4 then 2 else if bad.isEmpty then 0 else 1
  let st := [h, logHealth s.mod, tiles, if b.badStacks = 0 then 0 else 1, if b.usedSpares then 1 else 0,
             if b.ethOk then 0 else 2, if s3.mod.cpsel then 1 else 0].foldl max 0
  let s4 := raiseHealth s3 (min 2 st)
  { s4 with mod := { s4.mod with
      ready := true, ethUp := b.ethOk, dlane := low, rtile := bad.length, retired := bad, stopped := false, powered := true } }

/-- A region of a strip that the boot ROM configures: its corner, region 0, is the E arc, and the command front
end, region 1, the other three (R25, R115, R433). DESIGN CHOICE: notes/assumptions/82.md. -/
def bootRegion (s : State) (strip r : Nat) : State :=
  let arc (l : List Nat) (n : Nat) : Nat := natSum (l.map fun a => (2 ^ n - 1) * 2 ^ (n * a))
  let arcs := if r = 0 then [2] else [0, 1, 3]
  let c := s.collar strip
  let g : Region := { emask := arc arcs 64, bmask := arc arcs 16 }
  placeIn (s.setCollar strip (c.setRegion r g)) strip r 0 0 r (parseImage (Config.bootImage strip r))

/-- Step 4 of bring-up: the ROM configures every strip's corner and the front end of die 0 (R25, R433). -/
def bootStrips (s : State) : State :=
  bootRegion ([64, 65, 66, 67].foldl (fun s u => bootRegion s u 0) s) 64 1

/-- The ROM accepts the firmware: its signature verifies under a root key whose hash the fuses hold in a slot that is not
revoked (R420, R433). DESIGN CHOICE: notes/assumptions/105.md. -/
def fwAccepted (m : Module) (b : Bringup) : Bool :=
  b.fwOk && decide (b.fwSlot < 4) && thas m.rootKeys b.fwSlot && tget 0 m.rootKeys b.fwSlot == b.fwKey
  && !m.revoked.contains b.fwSlot

/-- A cold reset runs every step of bring-up (R427, R432, R433). DESIGN CHOICE: notes/assumptions/51.md. -/
def coldResetDo (s : State) (b : Bringup) : State :=
  let s0 := keepOver s { cpsel := !b.cpOk, fwHash := b.fwHash, fuses := b.fuses }
  let s2 := if b.tamper then alarmDo s0 2 else s0
  if !fwAccepted s.mod b then
    let s3 := alarmDo s2 1
    { s3 with mod := { s3.mod with stopped := true } }
  else if !b.romOk then { s2 with mod := { s2.mod with stopped := true } }
  else bringupFrom5 (bootStrips s2) b b.logState
def execColdReset (b : Bringup) (s : State) : Out := .next (coldResetDo s b)
/-- THERMAL_TRIP: a cold reset (R431, R432). -/
def execThermalTrip (b : Bringup) (s : State) : Out := .next (coldResetDo s b)

/-- A warm reset keeps CPSEL, the fields of SECALM that R424 keeps, the firmware, the key store and what the ROM
configured, and goes on at step 5 (R424, R425, R432). DESIGN CHOICE: notes/assumptions/51.md. -/
def warmResetDo (s : State) (b : Bringup) : State :=
  let m := s.mod
  let s0 := keepOver s { cpsel := m.cpsel, alarm := m.alarm, erased := m.erased, policy := m.policy, lock := m.lock
                         src := m.src, fwHash := m.fwHash, fuses := m.fuses }
  bringupFrom5 (bootStrips s0) b (max m.health b.logState)
def execWarmReset (b : Bringup) (s : State) : Out := .next (warmResetDo s b)

end Sys2Proof.Machine
end

