-- ==== Sys2Proof/Machine/Regs.lean ====
section
/-!
DEFINITION. The device register pages as loads and stores see them, and the control processor's accesses
(R7, R8, R24, R65, R66, R72, R77, R98, R137, R202, R206, R327, R337, R349-R351, R362, R380, R385, R386, R410,
R411, R419, R423-R432).
-/
namespace Sys2Proof.Machine

/-! ### Values (R7) -/

/-- A field at a bit position. -/
def fld (v lo : Nat) : Nat := v * 2 ^ lo
def bfld (b : Bool) (lo : Nat) : Nat := boolNat b * 2 ^ lo

/-- WBSLOT (R202). -/
def wbslot (a : Array) (k : Nat) : Nat :=
  let w := a.slotOf k
  let h := imgHdr w.toks
  let res := match a.resident with
    | some r => r.slot == k && r.gen == w.gen
    | none => false
  let hd := if w.st = 0 ∨ thas w.toks 0 = false then 0
    else fld (h.nout % 256) 32 + fld (h.k % 65536) 16 + bfld h.mx 11 + fld h.sparse 9 + fld (h.fmt % 16) 5
  w.st + bfld res 4 + fld w.fail 12 + hd

/-- WDSTAT (R327). -/
def wdstat (w : Wd) : Nat :=
  bfld w.on 0 + bfld w.flt 1 + bfld w.wait 2 + fld ((w.ahead.countP (·.read)) % 4) 3 + fld w.links.length 5 + bfld w.lv 8
  + fld (w.wlast % 4) 9 + fld (w.wnext % 4) 11 + fld (w.hdrd % 16) 13 + fld (w.blocks % 2 ^ 32) 17
/-- WDFRM (R327). -/
def wdfrm (w : Wd) : Nat :=
  w.row0 % 2 ^ 11 + fld (w.m % 2 ^ 12) 11 + fld (w.dfirst % 2 ^ 11) 23 + fld (w.dcnt % 2 ^ 12) 34 + bfld w.dom 46
  + fld (w.pairlast % 16) 48
/-- Bits [51:8] of a block's address (R327). -/
def wdaddr (a : Nat) : Nat := bits a 51 8 * 256

/-- A switch waits for the banks that what it moves goes through (R100, R362). -/
def switching (s : State) (t : Nat) : Bool :=
  s.collars.any fun (_, c) => c.banks.any fun (_, k) => k.pend.any fun r => r.who == tileReq 17 t 0

/-- TQSTAT (R362). -/
def tqstat (s : State) (t : Nat) : Nat :=
  let x := s.tile t
  let prio := match x.task with
    | some n => (s.task n).trec.prio
    | none => 0
  let elig := natSum ((List.range 4).map fun k => match x.parked[k]? with
    | some p => bfld (eligible s p) k
    | none => 0)
  x.queue.length % 64 + fld x.parked.length 8 + fld elig 12 + bfld x.task.isSome 16 + bfld x.held 17
  + bfld (x.landing || switching s t) 18 + bfld x.busy 19 + fld (prio % 8) 20 + bfld x.cerr 24

/-- SPILL0 and SPILL1 (R362). -/
def spillMap (x : Tile) (n : Nat) : Nat :=
  natSum (((List.range 64).filter fun j => x.spill.contains (64 * n + j)).map fun j => 2 ^ j)

/-- CRSTAT (R137). -/
def crstat (c : Collar) (r : Nat) : Nat :=
  let g := c.region r
  let slots := natSum ((List.range 4).map fun k =>
    fld (if g.armed.contains k then (if thas g.staged k then 3 else 2) else if g.loading.contains k then 1 else 0) (2 * k))
  let sw := match g.switches with
    | [] => 0
    | w :: _ =>
      let pend := if w.arrive = 0 then
          ((maskList 256 g.emask).filter fun e => thas c.elems e && (c.elem e).switching.contains w.slot).length
        else (switchElems c g w).length
      2 ^ 11 + fld w.slot 12 + fld w.to' 14 + fld pend 16
  slots + fld (g.last.getD 0) 8 + sw
/-- CRBNR (R386). -/
def crbnr (c : Collar) (r : Nat) : Nat :=
  let g := c.region r
  g.k + natSum ((List.range 4).map fun k => fld (tget 0 g.cut k) (16 + 8 * k) + bfld (g.broken.contains k) (48 + k))

/-- FLTCTL (R385). -/
def fltctl (sh : Shadow) : Nat := sh.act + fld sh.rsel 8 + bfld sh.esc 16

/-- A tile's registers (R77, R137, R202, R206, R327, R362, R385, R386). -/
def tileReg (s : State) (t off : Nat) : Nat :=
  let x := s.tile t
  let u := s.xu t
  let a := x.arr
  let n := off % 0x40 / 8
  if off = 0x100 then boolNat u.en + fld u.asid 4
  else if off = 0x108 then bits u.root 47 13 * 2 ^ 13
  else if off = 0x118 then bfld (!u.inv.isEmpty) 0 + bfld u.wfail 1 + fld (u.miss.length % 64) 16 + fld u.misses 32
  else if 0x400 ≤ off ∧ off < 0x420 then wbslot a n
  else if off = 0x420 then a.rsvcnt + bfld a.dsat 16
  else if off = 0x430 then a.winBase + fld a.winCount 8
  else if off = 0x438 then a.arrmap.toNat
  else if off = 0x440 then a.accspare.toNat
  else if 0x500 ≤ off ∧ off < 0x540 then (tget 0 x.sys.th n).toNat
  else if off = 0x540 then a.hdrop.toNat
  else if off = 0x600 then wdstat x.wd
  else if off = 0x608 then wdaddr x.wd.wpc
  else if 0x610 ≤ off ∧ off < 0x630 then wdaddr (x.wd.links.getD ((off - 0x610) / 8) 0)
  else if off = 0x630 then wdfrm x.wd
  else if off = 0x638 then wdaddr x.wd.wlastb
  else if off = 0x700 then tqstat s t
  else if 0x710 ≤ off ∧ off < 0x730 then (tget 0 x.tqrec ((off - 0x710) / 8)).toNat
  else if off = 0x730 then spillMap x 0
  else if off = 0x738 then spillMap x 1
  -- the held cycles of the running task, as the CP reads them (R33, R371; notes/assumptions/99.md)
  else if off = 0x740 then x.sys.hcyc.toNat
  else if 0x800 ≤ off ∧ off < 0x840 then (match x.shadow.fltrec with
    | some f => (f.word n).toNat
    | none => 0)
  else if off = 0x840 then fltctl x.shadow
  else if off = 0x848 then (if x.shadow.esc then (taskReg s t x.shadow.rsel 990).toNat else 0)
  else if off = 0x850 then x.shadow.stubpc.toNat
  else if 0x1000 ≤ off ∧ off < 0x1100 then
    let r := (off - 0x1000) / 0x40
    let c := s.collar t
    if n = 0 then crstat c r else if n = 1 then (c.region r).crerr else if n = 2 then crbnr c r else 0
  else 0

/-- A strip's registers, with the front end's in strip 64 (R24, R351, R380). -/
def stripReg (s : State) (u off : Nat) : Nat :=
  let c := s.collar u
  if off = 0x148 then fld c.fin 16 + fld c.rbad 32
  else if off = 0x180 then c.asid
  else if u = 64 ∧ 0x1000 ≤ off ∧ off < 0x1200 then
    let f := s.fslot ((off - 0x1000) / 8)
    f.shown + bfld f.v 16 + bfld f.busy 17
  else if u = 64 ∧ 0x1200 ≤ off ∧ off < 0x1280 then
    let n := (off - 0x1200) / 8
    natSum (((List.range 64).filter fun j => s.fe.pend.contains (64 * n + j)).map fun j => 2 ^ j)
  else if u = 64 ∧ off = 0x1280 then
    (s.fe.slots.filter fun k => k.2.v).length + bfld s.fe.cerr 24 + fld s.fe.baddb 32
  else 0

/-- The head message's source word (R426). -/
def mbxsrc (m : Module) : Nat :=
  match m.inbox with
  | [] => 0
  | h :: _ => h.kind + fld h.src 8 + fld h.unit 16 + fld h.cause 32

/-- The control processor's page (R423, R424, R426, R430). -/
def cpReg (s : State) (off : Nat) : Nat :=
  let m := s.mod
  if off = 0 then 3 + fld (Config.fuseStep % 256) 8 + bfld m.cpsel 16 + fld (Config.fuseModId % 2 ^ 32) 32
  else if off = 8 then m.health + fld m.rtile 8 + fld m.dlane 16 + bfld m.ready 24
  else if off = 0x10 then bfld m.alarm 0 + bfld m.erased 1 + bfld m.policy 2 + bfld m.lock 3 + fld m.src 8
  else if off = 0x100 then m.inbox.length + fld (16 - m.outbox.length) 16 + bfld m.serr 24
  else if off = 0x108 then mbxsrc m
  else if 0x110 ≤ off ∧ off < 0x150 then
    (match m.inbox with
      | [] => 0
      | h :: _ => natOfBytes ((h.bytes.drop (off - 0x110)).take 8))
  else if 0x158 ≤ off ∧ off < 0x198 then (tget 0 m.mbxout ((off - 0x158) / 8)).toNat
  else 0

/-- The Ethernet engine's page: queues and windows (R410, R411). -/
def ethReg (s : State) (off : Nat) : Nat :=
  if 0x10000 ≤ off ∧ off < 0x20000 then
    let q := (off - 0x10000) / 0x40
    let x := s.queue q
    match off % 0x40 with
    | 0x00 => x.qbase
    | 0x08 => x.logn + fld x.asid 4 + bfld x.open' 16 + bfld (mappedSlot s q).isSome 17 + bfld x.fstall 18
        + fld x.scause 19 + bfld x.even 25
    | 0x10 => x.rdidx + fld x.wridx 32
    | 0x18 => x.cqaddr.toNat
    | 0x20 => x.cqkey.toNat + fld x.cqh 32 + fld x.cqlog 40
    | 0x28 => x.thresh + fld x.hold 16
    | 0x30 => x.cqidx + fld x.cqdone 32
    | _ => 0
  else if 0x20000 ≤ off ∧ off < 0x28000 then
    let w := tget ({} : Window) s.windows ((off - 0x20000) / 0x20)
    match off % 0x20 with
    | 0x00 => w.base.toNat
    | 0x08 => w.len.toNat
    | 0x10 => w.asid + bfld w.r 12 + bfld w.w 13 + bfld w.reg 14 + bfld w.v 15 + fld w.key 32
    | _ => 0
  else 0

/-- The walker's last failure in its die's page (R76): VPN, ASID and cause, and the requesters attached.
DESIGN CHOICE: notes/assumptions/99.md. -/
def walkFail (w : Walker) (second : Bool) : Nat :=
  match w.fail with
  | none => 0
  | some (asid, vpn, c, n) => if second then n else c + fld asid 8 + fld vpn 30

/-- The 8-byte register at an aligned offset of a page (R65); an offset no rule names reads 0.
DEDUCED: notes/assumptions/25.md. DESIGN CHOICE: notes/assumptions/99.md. -/
def reg64 (s : State) (page off : Nat) : Nat :=
  if page < 64 then tileReg s page off
  else if page < 68 then stripReg s page off
  else if page < 72 then
    let d := page - 68
    if off = 0x800 then (lcinjOf s d).toNat
    else if off = 0x900 then lnkstat (s.link (linkKey d 0))
    else if off = 0x908 then lnkstat (s.link (linkKey d 1))
    else if off = 0xA00 ∨ off = 0xA08 then walkFail (tget ({} : Walker) s.walkers d) (off == 0xA08)
    else 0
  else if page = 72 then cpReg s off
  else if page = 73 then ethReg s off
  else 0

/-- A read of `n` bytes of a register page. DEDUCED: notes/assumptions/25.md. -/
def regRead (s : State) (page off n : Nat) : Nat :=
  reg64 s page (off / 8 * 8) >>> (8 * (off % 8)) % 2 ^ (8 * n)

/-! ### Writes (R7, R8) -/

/-- The state after a step that answers one. -/
def after (s : State) : Out → State
  | .next t => t
  | _ => s

/-- A command of TQCMD; a reserved bit or code is refused (R362). -/
def tqcmd (t n : Nat) (s : State) : Out :=
  let idx := bits n 12 8
  let retry := bit n 16
  if n / 2 ^ 17 ≠ 0 ∨ bits n 15 13 ≠ 0 ∨ bits n 7 3 ≠ 0 then refuseTq s t
  else match n % 8 with
    | 1 => execTqPushTail t s
    | 2 => execTqPushHead t s
    | 3 => execTqRemove t idx s
    | 4 => execTqPreempt t s
    | 5 => execTqAbortRunning t retry s
    | 6 => execTqAbortParked t idx retry s
    | _ => refuseTq s t

/-- XLINV (R77). -/
def xlinvReg (t n : Nat) (s : State) : Out :=
  let vpn := bits n 63 30
  let asid := bits n 15 4
  let bc := bit n 2
  match n % 4 with
  | 0 => execXlinvPage t asid vpn bc s
  | 1 => execXlinvAsid t asid bc s
  | 2 => execXlinvNonglobal t bc s
  | _ => execXlinvAll t bc s

/-- FLTCTL: RSEL and ACT are written, and GO acts (R385). -/
def fltctlReg (t v n : Nat) (s : State) : Out :=
  let x := s.tile t
  let s1 := s.setTile t { x with shadow := { x.shadow with rsel := bits v 12 8, act := v % 4 } }
  if !bit n 2 then .next s1
  else match v % 4 with
    | 0 => execFltctlGoResume t s1
    | 1 => execFltctlGoSkip t s1
    | 2 => execFltctlGoRerun t s1
    | _ => .next s1

/-- A tile's register is written: `v` is the register's new value where the bytes not written keep theirs,
`n` what was written with zeros there, `lo` whether the low four bytes were, and `cp` whether the CP writes. -/
def tileWrite (t off v n : Nat) (lo cp : Bool) (s : State) : Out :=
  let x := s.tile t
  let u := s.xu t
  let a := x.arr
  let w := BitVec.ofNat 64 v
  let arr (a : Array) : Out := .next (s.setArr t a)
  if off < 0x450 then
    if !cp then .next s
    else if off = 0x100 then .next (s.setXu t { u with en := bit v 0, asid := bits v 15 4 })
    else if off = 0x108 then .next (s.setXu t { u with root := bits v 47 13 * 2 ^ 13 })
    else if off = 0x110 then xlinvReg t n s
    else if off = 0x118 then .next (s.setXu t { u with wfail := u.wfail && !bit n 1 })
    else if off = 0x420 then arr { a with dsat := a.dsat && !bit n 16 }
    else if off = 0x428 then (if bit n 0 then execDcclr t s else .next s)
    else if off = 0x430 then arr { a with winBase := bits v 6 0, winCount := bits v 15 8 }
    else if off = 0x438 then execArrmapWrite t w s
    else if off = 0x440 then execAccspareWrite t w s
    else .next s
  else if 0x500 ≤ off ∧ off < 0x540 then
    .next (s.setTile t { x with sys := { x.sys with th := tput x.sys.th (off % 0x40 / 8) (w.setWidth 32) } })
  else if off = 0x540 then arr { a with hdrop := w.setWidth 32 }
  else if off = 0x700 then .next (s.setTile t { x with cerr := x.cerr && !bit n 24 })
  else if off = 0x708 then (if lo then tqcmd t n s else .next s)
  else if 0x710 ≤ off ∧ off < 0x730 then .next (s.setTile t { x with tqrec := tput x.tqrec ((off - 0x710) / 8) w })
  else if off = 0x840 then fltctlReg t v n s
  else if off = 0x848 then execFltrvalWrite t w s
  else if off = 0x850 then
    .next (s.setTile t { x with shadow := { x.shadow with stubpc := BitVec.ofNat 64 (bits v 47 5 * 32 + v % 4) } })
  else if 0x1000 ≤ off ∧ off < 0x1100 then
    let c := s.collar t
    let r := (off - 0x1000) / 0x40
    let g := c.region r
    let k := off % 0x40 / 8
    if k = 1 then
      .next (if bit n 21 && bit g.crerr 21 then s.setCollar t (c.setRegion r { g with crerr := g.crerr - 2 ^ 21 }) else s)
    else if k = 2 then .next (s.setCollar t (c.setRegion r { g with k := bits v 15 0 }))
    else .next s
  else .next s

/-- A strip's register is written (R24, R351, R380). -/
def stripWrite (u off v n : Nat) (lo cp : Bool) (s : State) : Out :=
  let c := s.collar u
  let w := BitVec.ofNat 64 v
  if 0x100 ≤ off ∧ off < 0x138 then
    .next (s.setCollar u { c with rptok := tput c.rptok ((off - 0x100) / 8) (BitVec.ofNat 64 n) })
  else if off = 0x138 then execRptokSend u w s
  else if off = 0x148 then (if bit n 0 then execCornstatClr u s else .next s)
  else if off = 0x180 then .next (s.setCollar u { c with asid := bits v 11 0 })
  else if u ≠ 64 ∨ cp = false then .next s
  else if 0x1000 ≤ off ∧ off < 0x1200 then
    let k := (off - 0x1000) / 8
    if !lo then .next s
    else if bit v 16 then execFeslotMap k (bits v 9 0) s
    else execFeslotUnmap k (s.setFslot k { s.fslot k with shown := bits v 9 0 })
  else if 0x1200 ≤ off ∧ off < 0x1280 then
    let k := (off - 0x1200) / 8
    .next { s with fe := { s.fe with pend := s.fe.pend.filter fun q => !(q / 64 == k && bit n (q % 64)) } }
  else if off = 0x1280 then
    let s1 := { s with fe := { s.fe with cerr := s.fe.cerr && !bit n 24 } }
    if bit n 16 then execFestatClr s1 else .next s1
  else .next s

/-- What bring-up finds after a reset that firmware asks for is not in the register written. -/
def freeBringup (s : State) : Bringup :=
  let c (k n : Nat) : Nat := choose s (1000 + k) n
  { cpOk := true, tamper := false, fwOk := true, romOk := true, policy := c 0 2 == 1, badStacks := c 1 13
    badTiles := maskList 64 (c 2 (2 ^ 64)), usedSpares := c 3 2 == 1
    lanes := tabulate 6 fun i => BitVec.ofNat 16 (undef s (1010 + i)), ethOk := c 4 2 == 1, logState := c 5 3 }

/-- A register of the control processor's page is written by the CP (R424, R426, R430, R432). -/
def cpWrite (off v n : Nat) (lo : Bool) (s : State) : Out :=
  let m := s.mod
  if off = 8 then execHealthWrite (BitVec.ofNat 64 v) s
  else if off = 0x10 then (if lo then execSecalmPolicyWrite (bit n 2) s else .next s)
  else if off = 0x18 then (if bit n 0 then execWarmReset (freeBringup s) s else .next s)
  else if off = 0x100 then .next { s with mod := { m with serr := m.serr && !bit n 24 } }
  else if off = 0x150 then (if bit n 0 then execMbxPop s else .next s)
  else if 0x158 ≤ off ∧ off < 0x198 then
    .next { s with mod := { m with mbxout := tput m.mbxout ((off - 0x158) / 8) (BitVec.ofNat 64 v) } }
  else if off = 0x198 then (if bit n 16 then execMbxSend (bits n 7 0) (bits n 15 8) s else .next s)
  else .next s

/-- A queue's or a window's description is written by the CP (R410, R411). -/
def ethWrite (off v : Nat) (s : State) : Out :=
  if 0x10000 ≤ off ∧ off < 0x20000 then
    execQueueDescWrite ((off - 0x10000) / 0x40) (off % 0x40) (BitVec.ofNat 64 v) s
  else if 0x20000 ≤ off ∧ off < 0x28000 then
    execRdmaWindowWrite ((off - 0x20000) / 0x20) (off % 0x20) (BitVec.ofNat 64 v) s
  else .next s

/-- A write of `k` bytes of value `val` at an offset of a register page. QCFG's FSTALL is cleared by ones,
so the bytes of it not written count as zero there. DESIGN CHOICE: notes/assumptions/27.md. -/
def regWrite (cp : Bool) (asid page off k val : Nat) (s : State) : Out :=
  let base := off / 8 * 8
  let sh := 8 * (off % 8)
  let n := val % 2 ^ (8 * k) * 2 ^ sh
  let old := reg64 s page base
  let field := (old >>> sh) % 2 ^ (8 * k)
  let v := old - field * 2 ^ sh + n
  let lo := decide (sh < 32)
  if page < 64 then tileWrite page base v n lo cp s
  else if page < 68 then stripWrite page base v n lo cp s
  else if page < 72 then
    if base = 0x800 then .next (setLcinj s (page - 68) (BitVec.ofNat 64 (v &&& 0xFFFFFFFF1EF1)))
    else if base = 0x900 ∨ base = 0x908 then
      (if bit n 4 then execLnkstatClr (page - 68) ((base - 0x900) / 8) s else .next s)
    else .next s
  else if page = 72 then (if cp then cpWrite base v n lo s else .next s)
  else if page = 73 then
    let v1 := if base % 0x40 = 8 ∧ base < 0x20000 ∧ !bit n 18 then v - bfld (bit v 18) 18 else v
    if cp then ethWrite base v1 s else .next s
  else if 75 ≤ page ∧ page ≤ 90 ∧ k = 4 ∧ off % 0x1000 = 0 then
    let q := (page - 75) * 64 + off / 0x1000
    .next (doorbellDo s (2 ^ 32) q (if cp then (s.queue q).asid else asid) (val % 2 ^ 32))
  else if 75 ≤ page ∧ page ≤ 90 ∧ k = 4 ∧ off % 0x1000 = 8 then
    let q := (page - 75) * 64 + off / 0x1000
    .next (consumedDo s (2 ^ 32) q (if cp then (s.queue q).asid else asid) (val % 2 ^ 32))
  else .next s

/-- REGISTER_WRITE: the CP writes a whole register (R7). -/
def execRegisterWrite (page off : Nat) (v : W64) (s : State) : Out :=
  regWrite true 0 page (off / 8 * 8) 8 v.toNat s

/-! ### The control processor's accesses (R64, R66, R331, R337) -/

/-- What the CP reads of one word; poisoned bytes are free. DESIGN CHOICE: notes/assumptions/53.md. -/
def cpRead (s : State) (pa n : Nat) : List Byte × State :=
  match place pa with
  | .reg page off => (bytesOfNat n (regRead s page off n), s)
  | .context _ _ => (s.bytes pa n, s)
  | .planes u off => (windowRead s u off n, s)
  | _ =>
    if anyPoison s pa n then (bytesOfNat n (undef s 991), s)
    else memRead s .cp pa n n

/-- What the CP writes of one word. -/
def cpPut (s : State) (pa : Nat) (b : List Byte) : State :=
  match place pa with
  | .reg page off => after s (regWrite true 0 page off b.length (natOfBytes b) s)
  | .planes u off => windowWrite s u off b
  | _ => memWrite s .cp pa b

/-- CP_LOAD_STORE (R64, R66, R337). DESIGN CHOICE: notes/assumptions/24.md. -/
def execCpLoadStore (op : CpOp) (s : State) : Out :=
  match op with
  | .load pa n =>
    let ps := cutUnits 8 n pa n
    if ps.any fun p => place p.1 == .hole then .fault (.hole pa)
    else match lineAccess s meshPort (reqId 18 0) 256 none false ps fun pa n s =>
        let (b, s) := cpRead s pa n
        (b.map fun x => (x, false), s) with
      | (none, s) => .next (again s (.cpLoadStore op))
      | (some d, s) => .next { s with outbox := s.outbox ++ [OutMsg.cpData (d.map (·.1))] }
  | .store pa n v =>
    let ps := cutUnits 8 n pa n
    let b := bytesOfNat n v
    if ps.any fun p => place p.1 == .hole then .fault (.hole pa)
    else match linesWrite s meshPort (reqId 18 0) 256 none ps fun o pa n s => ([], cpPut s pa ((b.drop o).take n)) with
      | (none, s) => .next (again s (.cpLoadStore op))
      | (some _, s) => .next s
  | .fence pred succ =>
    let s1 := if succ then acquire s .cp .sys (s.ag .cp).readRels else s
    if pred then
      .next (s1.setAg .cp { s1.ag .cp with relScopes := [.sys] })
    else .next s1

end Sys2Proof.Machine
end

