-- ==== Sys2Proof/Machine/Firmware.lean ====
section
/-!
DEFINITION. What firmware does on its own, and what the network marks (R96, R97, R372, R405-R408, R415, R420-R422,
R428, R429).
-/
namespace Sys2Proof.Machine

/-- The attestation report for an ASID (R422): the hash of its objects is taken over their hashes, in load order. -/
def reportFor (s : State) (asid : Nat) (nonce : List Byte) : List Byte :=
  let objs := ((tget ({} : Asid) s.asids asid).objects.map fun o => bytesOfNat 32 o.hash).flatten
  reportBytes (BitVec.ofNat 64 (reg64 s 72 0)) (BitVec.ofNat 64 (reg64 s 72 8)) (BitVec.ofNat 64 (reg64 s 72 0x10))
    (nonce ++ List.replicate 32 0) (bytesOfNat 32 s.mod.fwHash) (bytesOfNat 32 (Config.sha256 objs).toNat)

/-- A change of an ASID. -/
def withAsid (s : State) (n : Nat) (f : Asid → Asid) : State :=
  { s with asids := tput s.asids n (f (tget ({} : Asid) s.asids n)) }

/-- Dimensions and coordinates that R415 allows. -/
def torusOk (d c : Nat × Nat × Nat) : Bool :=
  decide (1 ≤ d.1 ∧ d.1 ≤ 32 ∧ 1 ≤ d.2.1 ∧ d.2.1 ≤ 32 ∧ 1 ≤ d.2.2 ∧ d.2.2 ≤ 16)
  && decide (c.1 < d.1 ∧ c.2.1 < d.2.1 ∧ c.2.2 < d.2.2)

/-- One step of firmware or mark of the network. DESIGN CHOICE: notes/assumptions/13.md. -/
def sideDo (f : Side) (s : State) : State :=
  match f with
  | .quota a n => withAsid s a fun x => { x with quota := n }
  | .window a t k n =>
    if n ≤ 128 then withAsid s a fun x =>
      let l := tget [] x.templates t
      { x with templates := if k < l.length then tput x.templates t (lset l k { l.getD k {} with chosen := n }) else x.templates }
    else s
  | .unload a h => unloadObject s a h
  | .discard a => discardObjects s a
  | .openLink a on => withAsid s a fun x => { x with link := on }
  | .openHandle n h => if n < 256 then { s with handles := tput s.handles n h } else s
  | .qpCreate n => if n < 512 ∧ (s.qp n).st = 0 then s.setQp n { st := 1 } else s
  | .qpConnect n => if (s.qp n).st = 1 then s.setQp n { s.qp n with st := 2 } else s
  | .qpRecover n => if (s.qp n).st = 2 then s.setQp n { st := 2 } else s
  | .torus d c => if torusOk d c then { s with mod := { s.mod with dims := d, coord := c } } else s
  | .thresholds ce ue => { s with mod := { s.mod with ceMax := ce, ueMax := ue } }
  | .ownerKey k v =>
    if 4 ≤ k ∧ k ≤ 15 then { s with mod := { s.mod with keys := tput s.mod.keys k v } } else s
  | .revoke k => { s with mod := { s.mod with revoked := s.mod.revoked ++ [k] } }
  | .attest a nonce =>
    let (r, s1) := attest s (reportFor s a nonce)
    { s1 with outbox := s1.outbox ++ [OutMsg.report a r] }
  | .tables l => { s with mod := { s.mod with tablePages := s.mod.tablePages ++ l } }
  | .ecnMark q => if qpServed s q then { s with outbox := s.outbox ++ [OutMsg.cnp q] } else s

/-- The next of the side's steps. -/
def sideTurn (s : State) : State :=
  match s.side with
  | [] => s
  | f :: rest => sideDo f { s with side := rest }

/-- Firmware retires the tiles that have met too many errors (R428), and sees the stacks that hold too many poisoned
half-lines, however the poison came there (R63, R429). -/
def healthTurn (s : State) : State :=
  let s1 := match s.mod.retiring with
    | [] => s
    | t :: rest =>
      let s := { s with mod := { s.mod with retiring := rest } }
      after s (execTileRetirement t [] s)
  if s1.mod.health ≥ 2 then s1
  else (List.range 12).foldl (fun s k =>
    if decide ((s.mem.poison.filter fun b => decide (b < hbmEnd) && stackAt b == k).length > 64) then raiseHealth s 2 else s) s1

/-- Firmware's turn of a cycle (R372, R428). -/
def firmwareTurn (s : State) : State := scheduleTurn (healthTurn (sideTurn s))

end Sys2Proof.Machine
end

