-- ==== Sys2Proof/Machine/ElemHaar.lean ====
section
/-!
DEFINITION. Haar operations of elements and tile headers (R166, R167, R203-R211, R215).
-/
namespace Sys2Proof.Machine

/-- Levels, tokens per row and tokens per segment (R166). -/
def FCtx.hL (c : FCtx) : Nat := c.y.mf 10 8
def FCtx.hRowt (c : FCtx) : Nat := c.y.mf 18 11
def FCtx.hTok (c : FCtx) : Nat := 2 ^ c.hL * c.hRowt

/-- A row's values: its tokens one after another. -/
abbrev HRow := List Nat

/-- Tokens of a segment as rows of values; missing tokens are zero (R166). -/
def rowsOf (w rowt n : Nat) (toks : List Line) : List HRow :=
  tabulate n fun r => ((List.range rowt).map fun j => valuesOf w (toks.getD (r * rowt + j) 0)).flatten

/-- A value-wise f32 step of R166: the sum or difference rounded, and halved for the forward step. -/
def haarStep (c : FCtx) (sub half : Bool) (x y : Nat) : Rnd :=
  let dec (z : Nat) : Val := decodeSv 1 c.flush z
  let r1 := roundFloat 1 { rnd := 0 } c.y.sat c.flush
    (Val.add false (dec x) (if sub then (dec y).negate else dec y))
  let r2 := roundFloat 1 { rnd := 0 } c.y.sat c.flush (Val.mul (dec r1.code) (.num false 1 (-1) false))
  let r : Rnd := if half then { r2 with fl := r1.fl.or r2.fl } else r1
  if (dec x).isNaN || (dec y).isNaN then r.met else r

/-- Values with the flags met on their way. -/
abbrev HVals := List Rnd

/-- Combine two rows value by value. Of the two rows that one pair makes, the sum carries on what the pair
counted. -/
def haarRow (c : FCtx) (sub half : Bool) (a b : HVals) : HVals :=
  List.zipWith (fun x y =>
    let r := haarStep c sub half x.code y.code
    let f := x.fl.or y.fl
    { r with fl := (if sub then f.uncounted else f).or r.fl }) a b

/-- One forward level over row pairs: the s rows and the d rows. -/
def haarLevel (c : FCtx) : List HVals → List HVals × List HVals
  | a :: b :: t =>
    let (s, d) := haarLevel c t
    (haarRow c false true a b :: s, haarRow c true true a b :: d)
  | _ => ([], [])

/-- The forward transform: rows in tree order (R166, R204). -/
def haarFwd (c : FCtx) : Nat → List HVals → List HVals
  | 0, rows => rows
  | l + 1, rows =>
    let (s, d) := haarLevel c rows
    haarFwd c l s ++ d

/-- One inverse level: each s and d row gives two rows. -/
def haarPairs (c : FCtx) : List HVals → List HVals → List HVals
  | s :: ss, d :: ds => haarRow c false false s d :: haarRow c true false s d :: haarPairs c ss ds
  | _, _ => []

/-- The inverse transform of rows in tree order (R166). -/
def haarInv (c : FCtx) : Nat → List HVals → List HVals → List HVals
  | 0, s, _ => s
  | l + 1, s, rest => haarInv c l (haarPairs c s (rest.take s.length)) (rest.drop s.length)

/-- Codes of the input format as f32 (exact, R166), under the policy of R49. -/
def toF32 (c : FCtx) (f : Nat) (row : HRow) : HVals :=
  row.map fun x => { code := (roundTo 1 { rnd := 0 } false false (decodeSv f c.flush x)).code }

/-- A list in parts of `n`. -/
def chunks {α : Type} (n : Nat) (l : List α) : List (List α) :=
  tabulate ((l.length + n - 1) / n) fun j => (l.drop (j * n)).take n

/-- The result tokens of a segment: each value converted by ROUND under RND or SR (R166), with the
generators after them; a format of another width than the input's gives other numbers of tokens (R144).
DEDUCED: notes/assumptions/64.md. -/
def haarOut (c : FCtx) (rows : List HVals) (dom : Nat) (eos : Bool) :
    Except (Nat × FInfo) (List Tok × Fl × List Nat) :=
  let f := c.o.fmt.toNat
  let w := wOf f
  let n := 512 / w
  let cells := chunks n rows.flatten
  let total := cells.length
  (List.range total).foldl (fun acc i =>
    match acc with
    | .error x => .error x
    | .ok (ts, fl, gens) =>
      let vs := cells.getD i []
      let rs := (List.range vs.length).map fun j =>
        let x := vs.getD j { code := 0 }
        let rm : RMode := { rnd := c.y.rnd.rnd, draw := if c.y.sr then some (drawAt gens n j) else none }
        let r := roundTo f rm c.y.sat c.flush (decodeVal 1 x.code)
        let r := if (decodeVal 1 x.code).isNaN then r.met else r
        { r with fl := x.fl.or r.fl }
      match c.settle n w 0 (c.o.sv == 2) rs with
      | .error e => .error e
      | .ok (codes, g) =>
        let t : Tok := { vc := c.o.ovc.toNat, dom := dom, seq := choose c.s (1000 + i) 16, lcnt := 16
                         eos := eos && i + 1 == total, val := lineOf w codes }
        .ok (ts ++ [t], fl.or g, if c.y.sr then gensAfter gens n else gens)) (.ok ([], {}, c.y.bank.gens))

/-- A token as a segment takes it: a NaN among its valid values traps with it, and REPLACE puts VALUE in the
NaN's place (R49, R377, R381). -/
def takeRow (c : FCtx) : Except (Nat × FInfo) Line :=
  let a := c.operand 0
  let rs : List Rnd := (a.2.take c.v).map fun x =>
    { code := x, fl := if (decodeVal a.1 x).isNaN then Fl.invalid else {} }
  match c.settle c.n (wOf c.inF) 0 (c.o.sv == 2) rs with
  | .error x => .error x
  | .ok (codes, _) => .ok (if rs.any (·.fl.inv) then lineOf (wOf a.1) codes else (c.like.map (·.val)).getD 0)

def hfwdFire (c : FCtx) : Fr :=
  let st := c.y.bank.st
  match takeRow c with
  | .error (k, i) => .fault k i
  | .ok row =>
    let rows := st.rows ++ [row]
    if rows.length ≥ c.hTok ∨ c.eos = true then
      let tree := haarFwd c c.hL ((rowsOf (wOf c.inF) c.hRowt (2 ^ c.hL) rows).map (toF32 c c.inF))
      match haarOut c tree 1 c.eos with
      | .error (k, i) => .fault k i
      | .ok (ts, fl, gens) =>
        .act { use := srcQ c.o
               bank := { c.y.bank.addFl fl with gens := gens, st := { st with rows := [], outq := ts } } }
    else .act { use := srcQ c.o, bank := { c.y.bank with st := { st with rows := rows } } }

/-- hfwd (R166). -/
def execHfwd (o : EOp) (s : State) : Out := .next (elemFire o {} hfwdFire s)

/-! ### hthr (R167, R205-R208) -/

/-- TH[n] as a sampling sees it: old or new while a write is on its way (R206); a strip has none. -/
def thNow (s : State) (u n : Nat) : Nat :=
  if u ≥ 64 then undef s 900 % 2 ^ 32
  else
    let x := s.tile u
    let old := (tget 0 x.sys.th n).toNat
    match x.ctx.mts.find? fun p => p.num == 0x18 + n with
    | some p => if choose s 901 2 = 1 then p.val.toNat % 2 ^ 32 else old
    | none => old

/-- Whether a value's magnitude is at or below a threshold (R205). -/
def belowTh (th : Nat) (v : Val) : Bool :=
  match decodeVal 1 th with
  | .nan => false
  | t => if t.sign && !t.isZero then false
         else if v.isNaN then false else Val.cmp v.abs t != .gt

def popcount (n b : Nat) : Nat := ((List.range n).filter fun i => bit b i).length

/-- The header line of a tile (R208). -/
def tileHeader (l axis thr layout rowt fmt nrow bmap thv : Nat) : Line :=
  BitVec.ofNat 512 ((2 ^ 14 + l * 2 ^ 11 + axis * 2 ^ 8 + thr * 2 ^ 5 + layout * 2 ^ 2)
    + rowt * 2 ^ 16 + fmt * 2 ^ 24 + nrow * 2 ^ 32 + bmap * 2 ^ 64 + thv * 2 ^ 128)

/-- The tokens an hthr emits for a segment, and its bitmap (R167, R205, R207). -/
def hthrOut (c : FCtx) (toks : List Line) (th : Nat) (eos : Bool) : List Tok × Nat :=
  let f := c.inF
  let w := wOf f
  let rowt := c.hRowt
  let n := 2 ^ c.hL
  let thr := c.y.mf 21 19
  let ze := bit c.y.mode 22
  let hdr := bit c.y.mode 23
  let rows := rowsOf w rowt n toks
  let keep (k : Nat) : Bool :=
    k == 0 || ze || !((rows.getD k []).all fun x => belowTh th (decodeVal f x))
  let bmap := natSum ((List.range n).map fun k => if keep k then 2 ^ k else 0)
  let kept := (List.range n).filter keep
  let rowToks (k : Nat) : List Line := tabulate rowt fun j =>
    let v := toks.getD (k * rowt + j) 0
    if ze && k != 0 then
      lineOf w ((valuesOf w v).map fun x => if belowTh th (decodeVal f x) then 0 else x)
    else v
  let body := (kept.map rowToks).flatten
  let vc := c.y.const % 32
  let bt : Tok := if hdr
    then { vc := vc, lcnt := 16
           val := tileHeader c.hL (bits c.y.const 7 5) thr (if ze then 1 else 0) rowt f (popcount 64 bmap) bmap th }
    else { vc := vc, lcnt := 2, val := BitVec.ofNat 512 bmap }
  let rt := body.map fun v => ({ vc := c.o.ovc.toNat, dom := 1, lcnt := 16, val := v } : Tok)
  let all := if hdr then bt :: rt else rt ++ [bt]
  let all := (List.range all.length).map fun i =>
    { all.getD i bt with seq := choose c.s (1000 + i) 16, eos := eos && i + 1 == all.length }
  (all, bmap)

def hthrFire (c : FCtx) : Fr :=
  let st := c.y.bank.st
  if (c.like.map (·.dom)).getD 0 ≠ 1 then .fault 0x3A { detail := (c.toks.head?.map (·.1)).getD 4 }
  else
    let th := if st.rows.isEmpty then thNow c.s c.u (c.y.mf 21 19) else st.thv
    let rows := st.rows ++ [(c.like.map (·.val)).getD 0]
    if rows.length ≥ c.hTok ∨ c.eos = true then
      let (ts, bmap) := hthrOut c rows th c.eos
      .act { use := srcQ c.o
             bank := { c.y.bank with st := { st with rows := [], outq := ts, bmap := bmap, thv := th } } }
    else .act { use := srcQ c.o, bank := { c.y.bank with st := { st with rows := rows, thv := th } } }

/-- hthr; HDROP counts the rows it drops (R206). -/
def execHthr (o : EOp) (s : State) : Out :=
  let c := fctx s o
  let s1 := elemFire o {} hthrFire s
  let st1 := (s1.planeOf c.u c.e c.p).bank.st
  let dropped :=
    if c.y.bank.st.outq.isEmpty && !st1.outq.isEmpty && decide (c.u < 64) then
      2 ^ c.hL - popcount (2 ^ c.hL) st1.bmap
    else 0
  if dropped = 0 then .next s1
  else
    let a := s1.arr c.u
    .next (s1.setArr c.u { a with hdrop := a.hdrop + BitVec.ofNat 32 dropped })

/-! ### hinv (R166, R215) -/

/-- The checks of a header token (R215). -/
def headerOk (c : FCtx) (h : Nat) : Bool :=
  let bmap := bits h 127 64
  bits h 15 14 == 1 && bits h 13 11 == c.hL && bits h 23 16 == c.hRowt && bits h 27 24 == c.inF
  && decide (bits h 4 2 < 2) && bits h 1 0 == 0 && bits h 31 28 == 0 && bits h 63 48 == 0
  && bits h 255 160 == 0 && bits h 47 32 == popcount 64 bmap

/-- A segment of hinv is over: the next one begins with the next firing (R443). -/
def OpState.endSegment (st : OpState) : OpState := { st with on := false, rows := [], bmap := 0 }

/-- Pennant handling of a firing that chooses its own queues (R147). Where guard 0 takes what a segment's last firing
would take, the segment is over (R443). -/
def guarded (c : FCtx) (q : Nat) (last : Bool) (use : List Nat) (k : Fr) : Fr :=
  if !c.o.pg then k
  else match c.pen with
    | none => .stall kPENN
    | some t =>
      if some t.eos != (c.tok q).map (·.eos) then .fault 0x23 { detail := 3 }
      else if c.guard then k
      else .act { use := use, bank := if last then { c.y.bank with st := c.y.bank.st.endSegment } else c.y.bank }

/-- The spatial rows of a segment. DEDUCED: notes/assumptions/64.md. -/
def hinvEmit (c : FCtx) (use : List Nat) (rows : List Line) (bmap : Nat) (eos : Bool) : Fr :=
  let st := c.y.bank.st
  let n := 2 ^ c.hL
  let rowt := c.hRowt
  let w := wOf c.inF
  -- tree row k is the next row read, or zero where its bit is 0
  let idx (k : Nat) : Nat := popcount k bmap
  let tree := tabulate n fun k =>
    if bit bmap k then
      ((List.range rowt).map fun j => valuesOf w (rows.getD (idx k * rowt + j) 0)).flatten
    else List.replicate (rowt * (512 / w)) 0
  let f32 := tree.map (toF32 c c.inF)
  match haarOut c (haarInv c c.hL (f32.take 1) (f32.drop 1)) 0 eos with
  | .error (k, i) => .fault k { i with detail := use.headD 0 }
  | .ok (ts, fl, gens) =>
    .act { use := use
           bank := { c.y.bank.addFl fl with gens := gens, st := { st with rows := [], on := false, outq := ts } } }

/-- The bitmap of the segment: of the token at the head of queue b, or of every row (R166, R215). -/
def hinvBmap (c : FCtx) (h : Nat) : Nat :=
  let full := 2 ^ 2 ^ c.hL - 1
  if !bit c.y.mode 19 then full else if bit c.y.mode 20 then bits h 127 64 else bits h 63 0 &&& full
/-- Tokens of queue a that the segment takes. -/
def hinvNeed (c : FCtx) (bmap : Nat) : Nat := popcount 64 bmap * c.hRowt
/-- The firing takes the segment's last token of queue a (R443). -/
def hinvLast (c : FCtx) (bmap : Nat) : Bool :=
  decide (c.y.bank.st.rows.length + 1 ≥ hinvNeed c bmap) || ((c.tok 0).map (·.eos)).getD false

/-- A firing of hinv: it reads queue b at the first firing of a segment and consumes it in the last (R443). -/
def hinvFire (c : FCtx) (bm : Bool) (h : Nat) : Fr :=
  let st := c.y.bank.st
  let bmap := if st.on then st.bmap else hinvBmap c h
  let bad := bm && bit c.y.mode 20 && !st.on && !headerOk c h
  let badHeader : Fr := .fault 0x3A { detail := 1 }
  if bm && hinvNeed c bmap == 0 then guarded c 1 true [1] (if bad then badHeader else hinvEmit c [1] [] 0 c.eos)
  else
    match c.tok 0 with
    | none => .stall kNOA
    | some t =>
      let last := hinvLast c bmap
      let use := if bm && last then [0, 1] else [0]
      guarded c 0 last use <| if bad then badHeader else if t.dom ≠ 1 then .fault 0x3A { detail := 0 } else
        (match takeRow { c with toks := [(0, t)] } with
         | .error (k, i) => .fault k i
         | .ok row =>
           let rows := st.rows ++ [row]
           if last then hinvEmit c use rows bmap t.eos
           else .act { use := use, bank := { c.y.bank with st := { st with rows := rows, on := true, bmap := bmap } } })

/-- hinv, with R145 applied to queue b at a segment's last firing (R166, R215, R443). -/
def execHinv (o : EOp) (s : State) : Out :=
  let bm := bit (s.planeOf s.cur.unit s.cur.elem s.cur.plane).mode 19
  -- the bitmap is that of queue b whatever the word selects (R443)
  let o := if bm then { o with sb := 1 } else o
  .next (elemFireWith s o { own := true } fun c =>
    match bm, c.tok 1 with
    | true, none => stallBy s (if (c.tok 0).isNone then kNOA else kNOA + 1)
    | _, b =>
      let h := (b.map (·.val.toNat)).getD 0
      let bmap := if c.y.bank.st.on then c.y.bank.st.bmap else hinvBmap c h
      let both := bm && (c.tok 0).isSome && hinvNeed c bmap != 0 && hinvLast c bmap
      if (c.tok 0).isNone && !(bm && hinvNeed c bmap == 0) then stallBy s kNOA
      else if o.pg && c.pen.isNone then stallBy s kPENN
      else if c.toks.any (·.2.bnr) then stallBy s kGATE
      else if !outRoom (s.collar c.u) c.e then stallBy s kNOSP
      else if both && c.toks.any (·.2.eos) && !c.toks.all (·.2.eos) then eosMismatch s c
      else settleFire s c (hinvFire { c with eos := (b.map (·.eos)).getD false } bm h))

end Sys2Proof.Machine
end

