-- ==== Sys2Proof/Machine/SlotBMem.lean ====
section
/-!
DEFINITION. Slot B: loads, stores, atomics and fences, and the events in which they are performed (R63,
R71, R72, R276-R282, R331-R340, R369, R383).
-/
namespace Sys2Proof.Machine

/-! ### Issue (R276, R277, R279-R282) -/

/-- Bytes a type of ld reads (R276). -/
def ldBytes : LdTy → Nat
  | .n8 => 1
  | .i8 => 1
  | .n16 => 2
  | .i16 => 2
  | .n32 => 4
  | .i32 => 4
  | .x64 => 8

/-- The value ld writes (R277). -/
def ldValue (ty : LdTy) (v : Nat) : Nat :=
  match ty with
  | .i8 => wrapInt 64 (sextInt 8 v)
  | .i16 => wrapInt 64 (sextInt 16 v)
  | .i32 => wrapInt 64 (sextInt 32 v)
  | _ => v

/-- An address that is no multiple of the access's size raises MISALIGN at issue (R277, R280). -/
def aligned (va z : Nat) (s : State) (f : State → Out) : Out :=
  if va % z ≠ 0 then issueFault s 0x13 va 0 else f s

/-- ld (R276, R277). -/
def execLd (ty : LdTy) (d a : Reg) (off : BitVec 11) (s : State) : Out :=
  let z := ldBytes ty
  let va := addrOf (s.rdS 5 a) (off.toInt * z)
  aligned va z s fun s => issueAccess s (.ld ty d.toNat va)

/-- st (R276, R277): the data is read at issue. -/
def execSt (sz : BitVec 2) (d a : Reg) (off : BitVec 11) (s : State) : Out :=
  let z : Nat := 2 ^ sz.toNat
  let va := addrOf (s.rdS 5 a) (off.toInt * z)
  aligned va z s fun s => issueAccess s (.st z va ((s.rdS 7 d).toNat % 2 ^ (8 * z)))

/-- ldv (R276, R277): lanes outside the mask keep what d holds at issue. DEDUCED: notes/assumptions/39.md. -/
def execLdv (d a : Reg) (off : BitVec 11) (mk : MReg) (s : State) : Out :=
  taskOnly s fun s =>
    let va := addrOf (s.rdS 5 a) (off.toInt * 128)
    aligned va 128 s fun s => issueAccess s (.ldv d.toNat va (s.rdM 8 mk).toNat (s.rdV 7 d).toNat)

/-- stv (R276, R277). -/
def execStv (d a : Reg) (off : BitVec 11) (mk : MReg) (s : State) : Out :=
  taskOnly s fun s =>
    let va := addrOf (s.rdS 5 a) (off.toInt * 128)
    aligned va 128 s fun s => issueAccess s (.stv va (s.rdV 7 d).toNat (s.rdM 8 mk).toNat)

/-- amo (R279, R280). -/
def execAmo (op : AmoOp) (u w : Bool) (ord : BitVec 2) (scope : BitVec 3) (d a b : Reg) (s : State) : Out :=
  taskOnly s fun s => notRetry s fun s =>
    let va := (s.rdS 5 a).toNat
    aligned va (if w then 8 else 4) s fun s =>
      issueAccess s (.amo op u w ord.toNat scope.toNat d.toNat va (s.rdS 6 b).toNat)

/-- cas: d is the expected value (R279, R280). -/
def execCas (w : Bool) (ord : BitVec 2) (scope : BitVec 3) (d a b : Reg) (s : State) : Out :=
  taskOnly s fun s => notRetry s fun s =>
    let va := (s.rdS 5 a).toNat
    aligned va (if w then 8 else 4) s fun s =>
      issueAccess s (.cas w ord.toNat scope.toNat d.toNat va (s.rdS 7 d).toNat (s.rdS 6 b).toNat)

/-- fence (R281, R282). -/
def execFence (kinds : BitVec 4) (scope : BitVec 3) (s : State) : Out :=
  .next (issueOp s (.fence kinds.toNat scope.toNat))

/-! ### What an access waits for (R72, R278, R330, R338) -/

/-- The cached leaf of an address of a tile's task. -/
def leafAt (s : State) (t va : Nat) : Option TlbE :=
  let x := s.xu t
  x.tlb.find? fun e => e.hits x.asid va

/-- A leaf is of a device register page. -/
def TlbE.isReg (e : TlbE) : Bool := match place e.pa with
  | .reg _ _ => true
  | _ => false

/-- The leaf by which an address of a tile's task would be translated now (R68, R73). -/
def peekLeaf (s : State) (t va : Nat) : Option TlbE :=
  let x := s.xu t
  if !x.en || decide (va ≥ 2 ^ 52) then none
  else match leafAt s t va with
    | some e => some e
    | none => match (walkFrom s x.asid x.root (va / 2 ^ 18) 4 0 x.root []).1 with
      | .leaf e => some e
      | .fail _ => none

/-- Two physical ranges share a byte, which is a location, or lie in one bank, whose accesses a requester has
performed in the order it issued them (R101, R331). -/
def together (a b : Nat × Nat) : Bool := overlap a b || ((bankAt a.1).isSome && bankAt a.1 == bankAt b.1)

/-- An access issued earlier, whose translation may still be open, stays before one at `span` (R72, R101, R278,
R330). DEDUCED: notes/assumptions/38.md. -/
def ordered (s : State) (t : Nat) (q span : Nat × Nat) : Bool :=
  overlap q span || match peekLeaf s t span.1, peekLeaf s t q.1 with
    | some e, some f =>
      together (e.pa + (span.1 - e.va), span.2) (f.pa + (q.1 - f.va), q.2)
      || (e == f && (e.perm &&& pNP) != 0) || (e.isReg && f.isReg)
    | some _, none => true
    | none, _ => false

/-- The kinds of accesses that an operation of a task waits for as a release: of an atomic all loads and stores, of a
write after a fence with st the fence's (R337, R338). -/
def relWaits (s : State) (n : Nat) (k : OpKind) : Nat :=
  if k.order ≥ 2 then 3 else if bit k.kinds 1 then (s.ag (.task n)).relKinds % 4 else 0

/-- An operation issued earlier holds this one back: it stays before it, it is an acquire, or this one is a release
(R338); a release also waits for an earlier fence with col (R339). DEDUCED: notes/assumptions/38.md. -/
def heldBack (s : State) (t : Nat) (o : Op) (span : Nat × Nat) : Bool :=
  let w := relWaits s ((s.tile t).task.getD 0) o.kind
  (s.tile t).ctx.ops.any fun p =>
    decide (p.ord < o.ord) && (p.kind.acquires || (match p.kind.span with
      | none => w != 0 && p.kind.colFence
      | some q => (p.kind.kinds &&& w) != 0 || ordered s t q span))

/-- Permissions an access needs (R71). -/
def OpKind.need : OpKind → Nat
  | .st _ _ _ => pWR
  | .stv _ _ _ => pWR
  | .amo _ _ _ _ _ _ _ _ => pRD + pWR
  | .cas _ _ _ _ _ _ _ => pRD + pWR
  | _ => pRD

/-- Whether an access may touch a device register page: ld and st of 4 or 8 bytes (R72). -/
def OpKind.regOk : OpKind → Bool
  | .ld ty _ _ => decide (ldBytes ty ≥ 4)
  | .st n _ _ => decide (n ≥ 4)
  | _ => false

/-- The pieces of a task's access that a bank carries: a store that its log stages goes to none (R369). -/
def bankPieces (s : State) (t : Nat) (o : Op) (pa n : Nat) : List (Nat × Nat) :=
  if o.kind.kinds = 2 && (s.task ((s.tile t).task.getD 0)).staged pa then [] else [(pa, n)]

/-- Where a waiting access goes: a physical address once it may be performed; a fault; or nothing yet (R71, R72,
R280). -/
def accessAt (s : State) (t : Nat) (o : Op) (mem : Bool) : Sum State (Nat × State) :=
  match o.kind.span with
  | none => .inl s
  | some span =>
    if heldBack s t o span then .inl s
    else match tilePieces s t 2 o.id span.1 span.2 o.kind.need o.kind.regOk with
      | (.wait, s) => .inl s
      | (.fail c addr, s) => .inl (opFault s t o.id c addr)
      | (.ok [(pa, _)], s) =>
        if mem && !(place pa).isMem then .inl (opFault s t o.id 0x11 span.1)
        else .inr (pa, s)
      | (.ok _, s) => .inl s

/-- Where a waiting access of one line goes, once its bank and its mesh attachment carry it (R63, R100, R104). -/
def reachAccess (s : State) (t : Nat) (o : Op) (poison mem : Bool) : Sum State (Nat × State) :=
  match accessAt s t o mem with
  | .inl s => .inl s
  | .inr (pa, s) =>
    let (va, n) := o.kind.span.getD (0, 0)
    let ps := bankPieces s t o pa n
    let out := bit o.kind.kinds 1
    let k := meshLines t ps
    if k > meshRoom s t out then .inl s
    else match askBanks s (portTo t 5) (tileReq 2 t o.id) 256 ps with
      | (false, s) => .inl s
      | (true, s) =>
        let s := if k = 0 then s else meshTake s t k out
        if poison && anyPoison s pa n then .inl (opFault s t o.id 0x14 va) else .inr (pa, s)

/-- A waiting access of two lines: what they gave, once the last of them has been performed (R100, R101). -/
def reachLines (s : State) (t : Nat) (o : Op) (f : Nat → Nat → Nat → State → List (Byte × Bool) × State) :
    Sum State (Nat × List (Byte × Bool) × State) :=
  match accessAt s t o false with
  | .inl s => .inl s
  | .inr (pa, s) =>
    match lineAccess s (portTo t 5) (tileReq 2 t o.id) 256 (some t) (bit o.kind.kinds 1) (bankPieces s t o pa 128) (f pa) with
    | (none, s) => .inl s
    | (some d, s) => .inr (pa, d, s)

/-! ### Atomics (R279, R280, R334) -/

/-- The operation of amo on two numbers of a width (R280). -/
def amoOf (op : AmoOp) (u : Bool) (w : Nat) (old x : Nat) : Nat :=
  let rd (v : Nat) : Int := if u then (v : Nat) else sextInt w v
  match op with
  | .add => (old + x) % 2 ^ w
  | .min => if rd old ≤ rd x then old else x
  | .max => if rd old ≤ rd x then x else old
  | .and => old &&& x
  | .or => old ||| x
  | .xor => old ^^^ x
  | .xchg => x

/-- The value d takes of an atomic's old value (R280). -/
def atomicValue (w uns : Bool) (old : Nat) : Nat := if w || uns then old else wrapInt 64 (sextInt 32 old)

/-- The releases carried by the writes an agent has just read at `n` bytes. -/
def relsRead (s : State) (a : AgentId) (pa n : Nat) : List Rel :=
  ((s.ag a).last.filterMap fun x =>
    if inRange pa n x.1 then ((tget [] s.mem.hist x.1).find? fun w => w.id == x.2).map (·.rels) else none).flatten.eraseDups

/-- An atomic is performed: `f` gives what it writes, if it writes (R280, R337-R339). -/
def atomicDo (s : State) (t : Nat) (o : Op) (pa : Nat) (w uns : Bool) (scope : Nat) (f : Nat → Option Nat) : State :=
  let n := (s.tile t).task.getD 0
  let a := AgentId.task n
  let k := if w then 8 else 4
  let sc := scopeOf s n scope
  let cov := coveredNow s a
  let (b, s1) := memRead s a pa k k true
  let s2 := if o.kind.acquires then acquire s1 a sc (relsRead s1 a pa k) else s1
  let old := natOfBytes b
  let rels : List Rel := if o.kind.order ≥ 2 then [relOf s a sc cov] else []
  let s3 := match f old with
    | some v => memWrite s2 a pa (bytesOfNat k v) rels true
    | none => s2
  finishOp s3 t o.id (some (atomicValue w uns old))

/-! ### Loads (R277, R278, R369) -/

/-- The lanes of an ldv: those of the mask from memory, the others as they were (R277).
DEDUCED: notes/assumptions/39.md. -/
def ldvValue (mask old : Nat) (b : List Byte) : Nat :=
  ofFields 32 (tabulate 32 fun l =>
    if bit mask l then natOfBytes ((b.drop (4 * l)).take 4) else (old >>> (32 * l)) % 2 ^ 32)

/-- What a task's load reads at a physical address: a register page, or memory as the task's log has it
(R72, R369). -/
def loadBytes (s : State) (t pa n unit : Nat) : List Byte × State :=
  let k := (s.tile t).task.getD 0
  match place pa with
  | .reg page off => (bytesOfNat n (regRead s page off n), s)
  | _ =>
    let (b, s1) := physRead s (.task k) pa n unit
    ((s.task k).logView pa b, s1)

/-- An operation of a task's sequencer returns its data. -/
def taskDataReturn (s : State) (t : Nat) (o : Op) : State :=
  match o.kind with
  | .ld ty _ _ => match reachAccess s t o true false with
    | .inl s => s
    | .inr (pa, s) =>
      let (b, s) := loadBytes s t pa (ldBytes ty) (ldBytes ty)
      finishOp s t o.id (some (ldValue ty (natOfBytes b)))
  | .ldv _ va mask old =>
    let n := (s.tile t).task.getD 0
    match reachLines s t o fun _ pa n' s => lineRead (.task n) 4 pa n' s with
    | .inl s => s
    | .inr (pa, d, s) =>
      if d.any (·.2) then opFault s t o.id 0x14 va
      else finishOp s t o.id (some (ldvValue mask old ((s.task n).logView pa (d.map (·.1)))))
  | .amo op u w _ scope _ _ x => match reachAccess s t o true true with
    | .inl s => s
    | .inr (pa, s) =>
      let bw := if w then 64 else 32
      atomicDo s t o pa w u scope fun old => some (amoOf op u bw old (x % 2 ^ bw))
  | .cas w _ scope _ _ old new => match reachAccess s t o true true with
    | .inl s => s
    | .inr (pa, s) =>
      let bw := if w then 64 else 32
      atomicDo s t o pa w false scope fun v => if v = old % 2 ^ bw then some (new % 2 ^ bw) else none
  | .ldacc _ row g tc => if (s.tile t).held then s else ldaccDo s t o row g tc
  | .tkw _ tk clr =>
    let n := (s.tile t).task.getD 0
    if (s.token n tk).st = 1 then s
    else
      let (w, s1) := readToken s n tk clr
      finishOp s1 t o.id (some w.toNat)
  | _ => s

/-! ### The shadow context's accesses (R72, R383) -/

/-- An operation of the shadow context ends. -/
def finishShadow (s : State) (t id : Nat) (v : Option Nat) : State :=
  let x := s.tile t
  let c := x.shadow.ctx
  match opOf c id with
  | none => s
  | some o =>
    let c1 := match o.kind.dest, v with
      | some d, some n => c.landAt d n o.ord
      | _, _ => c
    s.setTile t { x with shadow := { x.shadow with ctx := c1.endOp id } }

/-- An address in a device register page. -/
def inReg (pa : Nat) : Bool := match place pa with
  | .reg _ _ => true
  | _ => false

/-- A physical access of the shadow context: held back by an earlier one that stays before it, with a fault of its
own where the address cannot be accessed so, and performed when its bank grants it (R72, R100, R383). -/
def shadowReach (s : State) (t : Nat) (o : Op) (load : Bool) (f : State → Nat → Nat → State) : State :=
  match o.kind.span with
  | none => s
  | some (pa, n) =>
    let early := (s.tile t).shadow.ctx.ops.any fun p =>
      decide (p.ord < o.ord) && (p.kind.acquires || match p.kind.span with
        | some q => together q (pa, n) || (inReg q.1 && inReg pa)
        | none => false)
    let bad := decide (pa ≥ 2 ^ 48) || (match place pa with
      | .hole => true
      | .reg _ _ => decide (n < 4)
      | .spm u _ => (s.tile u).retired || (load && anyPoison s pa n)
      | _ => load && anyPoison s pa n)
    if early then s
    else if bad then shadowFault s t
    else match askBanks s (portTo t 5) (tileReq 2 t o.id) 256 [(pa, n)] with
      | (false, s) => s
      | (true, s) => f s pa n

/-- A load of the shadow context returns. -/
def shadowDataReturn (s : State) (t : Nat) (o : Op) : State :=
  match o.kind with
  | .ld ty _ _ =>
    shadowReach s t o true fun s pa n =>
      let (b, s1) := match place pa with
        | .reg page off => (bytesOfNat n (regRead s page off n), s)
        | _ => physRead s .cp pa n n
      finishShadow s1 t o.id (some (ldValue ty (natOfBytes b)))
  | _ => s

/-- LOAD_DATA_RETURN: the data of a tagged load, atomic, ldacc or token wait arrives (R278). -/
def execLoadDataReturn (t id : Nat) (s : State) : Out :=
  let x := s.tile t
  match opOf x.ctx id with
  | some o => if o.st = .waiting then .next (taskDataReturn s t o) else .next s
  | none => match opOf x.shadow.ctx id with
    | some o => .next (shadowDataReturn s t o)
    | none => .next s

/-! ### Stores (R277, R278, R369) -/

/-- Parts that adjoin are one. -/
def joinParts : List (Nat × List Byte) → List (Nat × List Byte)
  | [] => []
  | (o, b) :: t => match joinParts t with
    | (p, c) :: t => if o + b.length = p then (o, b ++ c) :: t else (o, b) :: (p, c) :: t
    | [] => [(o, b)]

/-- The parts a store writes: offset and bytes (R277). -/
def OpKind.stored : OpKind → List (Nat × List Byte)
  | .st n _ v => [(0, bytesOfNat n v)]
  | .stv _ v mask => joinParts ((maskList 32 mask).map fun l => (4 * l, bytesOfNat 4 (v >>> (32 * l))))
  | _ => []
/-- Bytes a store writes in one atomic unit (R331). -/
def OpKind.storeUnit : OpKind → Nat
  | .st n _ _ => n
  | _ => 4

/-- A task's store at a physical address: into its log, a register page, or memory; none where the log is
full (R369). -/
def storeBytes (s : State) (t pa unit : Nat) (parts : List (Nat × List Byte)) : Option State :=
  let n := (s.tile t).task.getD 0
  let k := s.task n
  match place pa with
  | .reg page off =>
    some (parts.foldl (fun s p => after s (regWrite false (s.xu t).asid page (off + p.1) p.2.length (natOfBytes p.2) s)) s)
  | _ =>
    if k.staged pa then
      (parts.foldl (fun (o : Option Task) p => o.bind fun k => k.logPut (pa + p.1) p.2) (some k)).map (s.setTask n)
    else some (parts.foldl (fun s p => physWrite s (.task n) (pa + p.1) p.2 unit) s)

/-- A line of a store is written whole: its parts in it, which stand apart where the mask leaves lanes out (R101,
R277). -/
def storeLine (a : AgentId) (unit : Nat) (parts : List (Nat × List Byte)) (base pa n : Nat) (s : State) :
    List (Byte × Bool) × State :=
  let id := s.mem.nextId
  ([], parts.foldl (fun s p =>
    let lo := max (base + p.1) pa
    let hi := min (base + p.1 + p.2.length) (pa + n)
    if lo ≥ hi then s
    else physWrite (if (bankAt pa).isSome then { s with mem := { s.mem with nextId := id } } else s) a lo
      ((p.2.drop (lo - (base + p.1))).take (hi - lo)) unit) s)

/-- The store at `pa` has been carried: it is over, or its log is full (R369). -/
def storeEnds (s : State) (t id va : Nat) : Option State → State
  | some s => finishOp s t id none
  | none => opFault (noteLogFull s (s.tile t).task) t id 0x1A va

/-- STORE_PERFORMED (R278). -/
def execStorePerformed (t id : Nat) (s : State) : Out :=
  let x := s.tile t
  match opOf x.ctx id with
  | some o =>
    if o.st ≠ .waiting ∨ (o.kind.kinds ≠ 2) then .next s
    else
      let n := x.task.getD 0
      match o.kind with
      | .stv va _ _ => match reachLines s t o (storeLine (.task n) 4 o.kind.stored) with
        | .inl s => .next s
        | .inr (pa, _, s) =>
          .next (storeEnds s t id va (if (s.task n).staged pa then storeBytes s t pa 4 o.kind.stored else some s))
      | _ => match reachAccess s t o false false with
        | .inl s => .next s
        | .inr (pa, s) =>
          .next (storeEnds s t id ((o.kind.span).elim 0 (·.1)) (storeBytes s t pa o.kind.storeUnit o.kind.stored))
  | none => match opOf x.shadow.ctx id with
    | some o =>
      if o.kind.kinds ≠ 2 then .next s
      else .next (shadowReach s t o false fun s pa n =>
        let s1 := match place pa with
          | .reg page off => after s (regWrite false 0 page off n (natOfBytes ((o.kind.stored.headD (0, [])).2)) s)
          | _ => physWrite s .cp pa ((o.kind.stored.headD (0, [])).2) n
        finishShadow s1 t id none)
    | none => .next s

/-! ### Fences (R282, R337-R340) -/

/-- What a fence with col orders before the task's later streams: its streams' earlier writes, its own with kind
st, and what it has read with kind ld (R282; notes/assumptions/19.md). DEDUCED: notes/assumptions/19.md. -/
def colCovers (s : State) (n kinds : Nat) : List WId :=
  let m := s.ag (.task n)
  streamsWritten s n ++ (if bit kinds 1 then m.written else []) ++ (if bit kinds 0 then m.floor.filter fun w => !m.written.contains w else [])

/-- A fence takes effect for its task: later writes release, earlier reads acquire, and later engine commands and
streams see what it ordered before them (R282, R337, R339, R340). DEDUCED: notes/assumptions/19.md. -/
def fenceEffect (s : State) (n kinds scope : Nat) : State :=
  let a := AgentId.task n
  let sc := scopeOf s n scope
  let s1 := if bit kinds 3 then s.addFloor a (streamsWritten s n) else s
  let s2 := if bit kinds 0 then acquire s1 a sc (s1.ag a).readRels else s1
  let s3 := if bit kinds 1 then
      let m := s2.ag a
      s2.setAg a { m with
        relScopes := if m.relScopes.contains sc then m.relScopes else m.relScopes ++ [sc]
        relKinds := m.relKinds ||| kinds }
    else s2
  let k := s3.task n
  let k1 := if bit kinds 1 && bit kinds 2 then
      let ws := (s3.ag a).written ++ (if bit kinds 3 then streamsWritten s3 n else [])
      { k with engFloor := k.engFloor ++ ws.filter fun w => !k.engFloor.contains w } else k
  s3.setTask n (if bit kinds 3 then { k1 with colFloor := colCovers s3 n kinds } else k1)

/-- FENCE_COMPLETE: every earlier access of its kinds has been performed, and with col every region of the
task is quiescent (R282). One with st, which makes later writes releases, also waits for an earlier fence with
col, whose streams' writes they cover (R339). -/
def execFenceComplete (t id : Nat) (s : State) : Out :=
  let x := s.tile t
  let early (c : Ctx) (o : Op) (k : Nat) : Bool := c.ops.any fun p =>
    decide (p.ord < o.ord) && ((p.kind.kinds &&& k) != 0 || (bit k 1 && p.kind.colFence))
  match opOf x.ctx id with
  | some o => (match o.kind with
    | .fence k scope =>
      let n := x.task.getD 0
      if early x.ctx o k || (bit k 3 && !tasksQuiet s t n) then .next s
      else .next (finishOp (fenceEffect s n k scope) t id none)
    | _ => .next s)
  | none => match opOf x.shadow.ctx id with
    | some o => (match o.kind with
      | .fence k _ => if early x.shadow.ctx o k then .next s else .next (finishShadow s t id none)
      | _ => .next s)
    | none => .next s

end Sys2Proof.Machine
end

