-- ==== Sys2Proof/Machine/Fetch.lean ====
section
/-!
DEFINITION. Fetching bundles through the instruction cache and the loop buffer, and what a bundle waits for
before it issues (R217, R220, R223, R224, R229-R232, R373, R383).
-/
namespace Sys2Proof.Machine

/-! ### The instruction cache (R230-R232) -/

/-- The ASID under which the cache keeps what was fetched from physical addresses (R383). -/
def physAsid : Nat := 4096
/-- The line and the group of a PC. -/
def pcLine (pc : W64) : Nat := pc.toNat / 128 * 128
def pcGroup (pc : W64) : Nat := pc.toNat / 32 * 32
/-- The group's place in its line. -/
def groupIn (pc : W64) : Nat := pc.toNat % 128 / 32

def cachedLine (x : Tile) (asid va : Nat) : Option ILine := x.icache.find? fun l => l.asid == asid && l.va == va

/-- A line as it is read from memory, with its poisoned groups. DEDUCED: notes/assumptions/28.md. -/
def readLine (s : State) (asid va pa : Nat) : ILine :=
  { asid := asid, va := va, bytes := s.bytes pa 128, pa := pa, ver := s.mem.nextId
    bad := natSum ((List.range 4).map fun g => if anyPoison s (pa + 32 * g) 32 then 2 ^ g else 0) }

/-- The cached leaf by which a bundle's line is translated, where translation is enabled (R73, R230). -/
def fetchLeaf (s : State) (t va : Nat) : Option TlbE := if (s.xu t).en then leafAt s t va else none

/-- A page that prefetch may enter: its translation is cached, with XB and without NP (R231). -/
def prefetchOk (s : State) (t va : Nat) : Bool :=
  match fetchLeaf s t va with
  | some e => (e.perm &&& pXB) != 0 && (e.perm &&& pNP) == 0
  | none => false

/-- A line whose bundles issue without a look at the translation cache: one that is pinned (R230). -/
def ILine.pinned (l : ILine) : Bool := l.pins != 0

/-- The bundle issues from the loop buffer (R229). -/
def inLoopBuf (c : Ctx) : Bool :=
  match c.loopBuf with
  | none => false
  | some l => l.held && decide (pcNum l.body ≤ pcNum c.pc) && decide (pcNum c.pc < pcNum l.body + l.count)

/-- The task has fetched a line, ahead or not (R232). -/
def noteSeen (s : State) (n : Nat) (l : ILine) : State :=
  let k := s.task n
  if k.seen.any fun q => q.1 == l.pa then s else s.setTask n { k with seen := k.seen ++ [(l.pa, l.ver)] }

/-- The task's line is fetched; a failure is kept for the bundle that needs it, though another access has cached the
page since (R76, R230, R231). -/
def fetchTask (s : State) (t : Nat) : State :=
  let x := s.tile t
  let pc := x.ctx.pc
  let asid := (s.xu t).asid
  let fetch (s : State) (va : Nat) : State :=
    match tilePieces s t 4 0 va 128 pXB false with
    | (.wait, s) => s
    | (.fail c _, s) =>
      if va = pcLine pc then s.setTile t { s.tile t with fetchBad := some (pc, c, pcGroup pc) } else s
    | (.ok ps, s) =>
      if (cachedLine x asid va).isSome then s
      else match askBanks s (portTo t 5) (tileReq 4 t 0) 256 ps with
        | (false, s) => s
        | (true, s) => match ps with
          | (pa, _) :: _ =>
            let l := readLine s asid va pa
            noteSeen (insertLine s t l) (x.task.getD 0) l
          | [] => s
  let ready := match cachedLine x asid (pcLine pc) with
    | none => false
    | some l => l.pinned || inLoopBuf x.ctx || (fetchLeaf s t (pcLine pc)).isSome
  match takeFailure s t (tileReq 4 t 0) with
  | some (vpn, c, s) =>
    if vpn = pc.toNat / 2 ^ 18 && !inLoopBuf x.ctx then s.setTile t { s.tile t with fetchBad := some (pc, c, pcGroup pc) } else s
  | none =>
  if !ready then
    match x.fetchBad with
    | some (p, _, _) => if p = pc then s else fetch s (pcLine pc)
    | none => fetch s (pcLine pc)
  else
    let va := pcLine pc + 128
    if (cachedLine x asid va).isNone && prefetchOk s t va && choose s 331 2 == 1 then fetch s va else s

/-- The shadow context's line is fetched from a physical address (R383). -/
def fetchShadow (s : State) (t : Nat) : State :=
  let x := s.tile t
  let va := pcLine x.shadow.ctx.pc
  if (cachedLine x physAsid va).isSome then s
  else match place va with
    | .hole => shadowFault s t
    | .reg _ _ => shadowFault s t
    | _ => match askBanks s (portTo t 5) (tileReq 4 t 1) 256 [(va, 128)] with
      | (false, s) => s
      | (true, s) => insertLine s t (readLine s physAsid va va)

/-- The shadow context runs. -/
def Shadow.active (sh : Shadow) : Bool := sh.running && !sh.stopped && !sh.esc && !sh.queue.isEmpty

/-- The running task may issue bundles. -/
def Tile.issues (x : Tile) : Bool :=
  x.task.isSome && !x.landing && !x.doneWait && !x.wd.on && (match x.abort with
    | some (none, _) => false
    | _ => true)

/-- INSTRUCTION_FETCH: a line that issue needs arrives, or the next one is fetched ahead (R230, R231). -/
def execInstructionFetch (t : Nat) (s : State) : Out :=
  let x := s.tile t
  if x.shadow.active && (cachedLine x physAsid (pcLine x.shadow.ctx.pc)).isNone then .next (fetchShadow s t)
  else if x.issues then .next (fetchTask s t)
  else .next s

/-! ### The bundle at issue -/

/-- What stands at the acting context's PC. -/
inductive Fetched where
  | miss
  | bad (cause addr : Nat)
  | got (group bundle : Nat)
deriving DecidableEq, Repr

/-- The first write that came after the acting task fetched a line for the first time: its bundles stay rewritten
when the line is fetched again (R232). -/
def fetchVer (s : State) (l : ILine) : Nat :=
  match s.mine.seen.find? fun q => q.1 == l.pa with
  | some q => if s.cur.shadow then l.ver else min q.2 l.ver
  | none => l.ver

/-- A byte of the bundle has been written since its line was fetched (R232). DEDUCED: notes/assumptions/29.md. -/
def rewritten (s : State) (l : ILine) (pc : W64) : Bool :=
  let o := 32 * groupIn pc + 10 * (pc.toNat % 4)
  (List.range 10).any fun i =>
    s.byte (l.pa + o + i) != l.bytes.getD (o + i) 0
    || (tget [] s.mem.hist (l.pa + o + i)).any fun w => decide (w.id ≥ fetchVer s l)

/-- The acting task has fetched the line of its PC (R232). -/
def noteFetch (s : State) : State :=
  match cachedLine s.me (s.xu s.cur.unit).asid (pcLine s.cur.bpc) with
  | some l => if s.cur.shadow then s else noteSeen s s.myTask l
  | none => s

/-- A cached line's bundle may issue: it needs no fetch, or its page's translation is cached with XB; else it
misses, or lacks its permission (R71, R229, R230, R383). -/
def lineFails (s : State) (l : ILine) : Option Fetched :=
  if s.cur.shadow || l.pinned || inLoopBuf s.ctx then none
  else match fetchLeaf s s.cur.unit l.va with
    | none => some .miss
    | some e => if (e.perm &&& pXB) ≠ 0 then none else some (.bad 0x11 (pcGroup s.ctx.pc))

/-- The acting context's bundle: a free value where it has been rewritten (R217, R230-R232).
DEDUCED: notes/assumptions/29.md. -/
def fetched (s : State) : Fetched :=
  let t := s.cur.unit
  let x := s.tile t
  let pc := s.ctx.pc
  let bad : Option (Nat × Nat) := match x.fetchBad with
    | some (p, c, a) => if p = pc ∧ s.cur.shadow = false ∧ inLoopBuf s.ctx = false then some (c, a) else none
    | none => none
  match bad with
  | some (c, a) => .bad c a
  | none =>
    match cachedLine x (if s.cur.shadow then physAsid else (s.xu t).asid) (pcLine pc) with
    | none => .miss
    | some l => match lineFails s l with
      | some f => f
      | none =>
        if bit l.bad (groupIn pc) then .bad 0x14 (pcGroup pc)
        else
          let g := natOfBytes ((l.bytes.drop (32 * groupIn pc)).take 32)
          .got g (if rewritten s l pc then undef s 332 % 2 ^ 80 else bits g (80 * (pc.toNat % 4) + 79) (80 * (pc.toNat % 4)))

/-- A poisoned line is read again when the bundle issues again (R384). -/
def dropLine (s : State) (pc : W64) : State :=
  let x := s.me
  let asid := if s.cur.shadow then physAsid else (s.xu s.cur.unit).asid
  s.setTile s.cur.unit { x with icache := x.icache.filter fun l => !(l.asid == asid && l.va == pcLine pc && l.bad != 0) }

/-- The waits of R223, R224 and R227 are over. -/
def waitsOver (s : State) (b : Bundle) : Bool :=
  let c := s.ctx
  decide (c.nextIssue ≤ s.now)
  && (b.ta == 0 || !c.busy.contains b.ta)
  && ((List.range 7).all fun k => !bit b.tc k || !c.busy.contains (k + 1))
  && (b.pd == 0 || (match c.recent[b.pd - 1]? with
      | some (_, bound) => decide (bound ≤ s.now)
      | none => true))

/-! ### Registers a bundle reads (R373) -/

/-- Numbers of the registers in two lists of fields: scalar, then vector (`destKey`). -/
def srcKeys (ss vs : List Reg) : List Nat :=
  (ss.filter fun r => r != 0).map (fun r => r.toNat) ++ vs.map fun r => 64 + r.toNat
/-- An operation under a mask reads its destination for the lanes that keep their values. -/
def keptDest (d : Reg) (mk : MReg) : List Reg := if mk = 0 then [] else [d]

/-- The scalar and vector registers a slot instruction reads. -/
def instrReads : Instr → List Nat
  | .br a _ _ | .ret a | .mts a _ | .yield a _ | .wdrive a => srcKeys [a] []
  | .loop d a _ => srcKeys [d, a] []
  | .add _ a b | .sub _ a b | .mul _ a b | .mulh _ _ a b | .div _ _ a b | .rem _ _ a b | .and _ a b | .or _ a b
  | .xor _ a b | .shl _ a b | .shr _ a b | .sra _ a b | .min _ _ a b | .max _ _ a b | .slt _ _ a b
  | .sadd _ a b _ | .bext _ _ a b => srcKeys [a, b] []
  | .sel _ a b c => srcKeys [a, b, c] []
  | .bins d a b => srcKeys [d, a, b] []
  | .clz _ _ a | .popc _ _ a => srcKeys [a] []
  | .addi _ a _ | .muli _ a _ | .andi _ a _ | .ori _ a _ | .xori _ a _ | .shli _ a _ | .shri _ a _ | .srai _ a _
  | .slti _ a _ | .mini _ a _ | .maxi _ a _ => srcKeys [a] []
  | .vfma d a b _ => srcKeys [] [d, a, b]
  | .vadd d a b mk | .vsub d a b mk | .vmul d a b mk | .vmin _ d a b mk | .vmax _ d a b mk | .vshuf d a b mk
  | .vand d a b mk | .vor d a b mk | .vxor d a b mk | .viadd _ d a b mk | .vimul _ d a b mk =>
    srcKeys [] (keptDest d mk ++ [a, b])
  | .vabs _ d a mk | .vneg _ d a mk | .vcvt _ _ d a mk | .vrcp d a mk | .vrsq d a mk | .vexp2 d a mk
  | .vlog2 d a mk => srcKeys [] (keptDest d mk ++ [a])
  | .vcmp _ _ _ a b _ | .vsel _ a b _ => srcKeys [] [a, b]
  | .vred _ _ _ a _ => srcKeys [] [a]
  | .vbcst (.lane d a _ mk) => srcKeys [] (keptDest d mk ++ [a])
  | .vbcst (.scalar d a mk) => srcKeys [a] (keptDest d mk)
  | .vmov (.vv d a mk) => srcKeys [] (keptDest d mk ++ [a])
  | .vmov (.sv _ a _) => srcKeys [] [a]
  | .vmov (.vs d a _) => srcKeys [a] [d]
  | .ld _ _ a _ => srcKeys [a] []
  | .st _ d a _ => srcKeys [d, a] []
  | .ldv d a _ mk => srcKeys [a] (keptDest d mk)
  | .stv d a _ _ => srcKeys [a] [d]
  | .amo _ _ _ _ _ _ a b => srcKeys [a, b] []
  | .cas _ _ _ d a b => srcKeys [d, a, b] []
  | .ldacc _ a _ _ => srcKeys [a] []
  | .stacc d a _ _ => srcKeys [a] [d]
  | .accz a b _ | .mma a b _ _ _ _ _ | .dcfg a b _ => srcKeys [a, b] []
  | .fire _ _ _ _ drn _ b => if drn then srcKeys [b] [] else []
  | .copy a _ _ | .netr a _ _ | .netw a _ _ | .stgr a _ _ | .stgw a _ _ => srcKeys [a] []
  | .rot d a b => srcKeys [d, a, b] []
  | .xexp _ _ a _ | .xtrn _ _ _ a => srcKeys [] [a]
  | .xcvt _ d a _ => srcKeys [] [d, a]
  | _ => []

/-- A register that either slot reads holds a parity error (R373). -/
def readsBad (x : Tile) (b : Bundle) : Bool := (instrReads b.a ++ instrReads b.b).any x.regBad.contains

end Sys2Proof.Machine
end

