-- ==== Sys2Proof/Machine/Dispatch.lean ====
section
/-!
DEFINITION. One arm per instruction, each one direct call of its meaning.
-/
namespace Sys2Proof.Machine

/-- The effect of an instruction on the machine. -/
def exec (i : Instr) (s : State) : Host.Outcome State Fault Refusal :=
  match i with
  | .br a c off => Sys2Proof.Machine.execBr a c off s
  | .jmp off => Sys2Proof.Machine.execJmp off s
  | .jal a off => Sys2Proof.Machine.execJal a off s
  | .ret a => Sys2Proof.Machine.execRet a s
  | .loop d a len => Sys2Proof.Machine.execLoop d a len s
  | .trap code => Sys2Proof.Machine.execTrap code s
  | .add d a b => Sys2Proof.Machine.execAdd d a b s
  | .sub d a b => Sys2Proof.Machine.execSub d a b s
  | .mul d a b => Sys2Proof.Machine.execMul d a b s
  | .mulh u d a b => Sys2Proof.Machine.execMulh u d a b s
  | .div u d a b => Sys2Proof.Machine.execDiv u d a b s
  | .rem u d a b => Sys2Proof.Machine.execRem u d a b s
  | .and d a b => Sys2Proof.Machine.execAnd d a b s
  | .or d a b => Sys2Proof.Machine.execOr d a b s
  | .xor d a b => Sys2Proof.Machine.execXor d a b s
  | .shl d a b => Sys2Proof.Machine.execShl d a b s
  | .shr d a b => Sys2Proof.Machine.execShr d a b s
  | .sra d a b => Sys2Proof.Machine.execSra d a b s
  | .min u d a b => Sys2Proof.Machine.execMin u d a b s
  | .max u d a b => Sys2Proof.Machine.execMax u d a b s
  | .slt u d a b => Sys2Proof.Machine.execSlt u d a b s
  | .sel d a b c => Sys2Proof.Machine.execSel d a b c s
  | .sadd d a b sh => Sys2Proof.Machine.execSadd d a b sh s
  | .clz w d a => Sys2Proof.Machine.execClz w d a s
  | .popc w d a => Sys2Proof.Machine.execPopc w d a s
  | .bext sx d a b => Sys2Proof.Machine.execBext sx d a b s
  | .bins d a b => Sys2Proof.Machine.execBins d a b s
  | .addi d a imm => Sys2Proof.Machine.execAddi d a imm s
  | .muli d a imm => Sys2Proof.Machine.execMuli d a imm s
  | .andi d a imm => Sys2Proof.Machine.execAndi d a imm s
  | .ori d a imm => Sys2Proof.Machine.execOri d a imm s
  | .xori d a imm => Sys2Proof.Machine.execXori d a imm s
  | .shli d a amt => Sys2Proof.Machine.execShli d a amt s
  | .shri d a amt => Sys2Proof.Machine.execShri d a amt s
  | .srai d a amt => Sys2Proof.Machine.execSrai d a amt s
  | .slti d a imm => Sys2Proof.Machine.execSlti d a imm s
  | .mini d a imm => Sys2Proof.Machine.execMini d a imm s
  | .maxi d a imm => Sys2Proof.Machine.execMaxi d a imm s
  | .li20 d imm => Sys2Proof.Machine.execLi20 d imm s
  | .lih d imm => Sys2Proof.Machine.execLih d imm s
  | .mfs d n => Sys2Proof.Machine.execMfs d n s
  | .mts a n => Sys2Proof.Machine.execMts a n s
  | .vadd d a b mk => Sys2Proof.Machine.execVadd d a b mk s
  | .vsub d a b mk => Sys2Proof.Machine.execVsub d a b mk s
  | .vmul d a b mk => Sys2Proof.Machine.execVmul d a b mk s
  | .vfma d a b mk => Sys2Proof.Machine.execVfma d a b mk s
  | .vmin ty d a b mk => Sys2Proof.Machine.execVmin ty d a b mk s
  | .vmax ty d a b mk => Sys2Proof.Machine.execVmax ty d a b mk s
  | .vabs ty d a mk => Sys2Proof.Machine.execVabs ty d a mk s
  | .vneg ty d a mk => Sys2Proof.Machine.execVneg ty d a mk s
  | .vcvt dst src d a mk => Sys2Proof.Machine.execVcvt dst src d a mk s
  | .vcmp ty c d a b mk => Sys2Proof.Machine.execVcmp ty c d a b mk s
  | .vsel d a b m => Sys2Proof.Machine.execVsel d a b m s
  | .vred ty op d a mk => Sys2Proof.Machine.execVred ty op d a mk s
  | .vbcst f => Sys2Proof.Machine.execVbcst f s
  | .vshuf d a b mk => Sys2Proof.Machine.execVshuf d a b mk s
  | .vmov f => Sys2Proof.Machine.execVmov f s
  | .vand d a b mk => Sys2Proof.Machine.execVand d a b mk s
  | .vor d a b mk => Sys2Proof.Machine.execVor d a b mk s
  | .vxor d a b mk => Sys2Proof.Machine.execVxor d a b mk s
  | .viadd u d a b mk => Sys2Proof.Machine.execViadd u d a b mk s
  | .vimul u d a b mk => Sys2Proof.Machine.execVimul u d a b mk s
  | .vrcp d a mk => Sys2Proof.Machine.execVrcp d a mk s
  | .vrsq d a mk => Sys2Proof.Machine.execVrsq d a mk s
  | .vexp2 d a mk => Sys2Proof.Machine.execVexp2 d a mk s
  | .vlog2 d a mk => Sys2Proof.Machine.execVlog2 d a mk s
  | .mand d a b => Sys2Proof.Machine.execMand d a b s
  | .mor d a b => Sys2Proof.Machine.execMor d a b s
  | .mnot d a => Sys2Proof.Machine.execMnot d a s
  | .mpop d a => Sys2Proof.Machine.execMpop d a s
  | .fixedLatencyWriteback t => Sys2Proof.Machine.execFixedLatencyWriteback t s
  | .sideVectorTrap t => Sys2Proof.Machine.execSideVectorTrap t s
  | .ld ty d a off => Sys2Proof.Machine.execLd ty d a off s
  | .st sz d a off => Sys2Proof.Machine.execSt sz d a off s
  | .ldv d a off mk => Sys2Proof.Machine.execLdv d a off mk s
  | .stv d a off mk => Sys2Proof.Machine.execStv d a off mk s
  | .loadDataReturn t id => Sys2Proof.Machine.execLoadDataReturn t id s
  | .storePerformed t id => Sys2Proof.Machine.execStorePerformed t id s
  | .amo op u w ord scope d a b => Sys2Proof.Machine.execAmo op u w ord scope d a b s
  | .cas w ord scope d a b => Sys2Proof.Machine.execCas w ord scope d a b s
  | .fence kinds scope => Sys2Proof.Machine.execFence kinds scope s
  | .fenceComplete t id => Sys2Proof.Machine.execFenceComplete t id s
  | .ldacc d a g off => Sys2Proof.Machine.execLdacc d a g off s
  | .stacc d a g off => Sys2Proof.Machine.execStacc d a g off s
  | .accz a b mask => Sys2Proof.Machine.execAccz a b mask s
  | .accWritePerformed t id => Sys2Proof.Machine.execAccWritePerformed t id s
  | .wtl slot => Sys2Proof.Machine.execWtl slot s
  | .mma a b pair pass slot acc ds => Sys2Proof.Machine.execMma a b pair pass slot acc ds s
  | .fire rgn cslot arr src drn dom b => Sys2Proof.Machine.execFire rgn cslot arr src drn dom b s
  | .cfgs rgn cslot plane img => Sys2Proof.Machine.execCfgs rgn cslot plane img s
  | .cfgw rgn cslot => Sys2Proof.Machine.execCfgw rgn cslot s
  | .cfgp rgn cslot => Sys2Proof.Machine.execCfgp rgn cslot s
  | .copy a tk off => Sys2Proof.Machine.execCopy a tk off s
  | .netr a tk off => Sys2Proof.Machine.execNetr a tk off s
  | .netw a tk off => Sys2Proof.Machine.execNetw a tk off s
  | .stgr a tk off => Sys2Proof.Machine.execStgr a tk off s
  | .stgw a tk off => Sys2Proof.Machine.execStgw a tk off s
  | .tkw d tk clr => Sys2Proof.Machine.execTkw d tk clr s
  | .tkq d tk clr => Sys2Proof.Machine.execTkq d tk clr s
  | .rot d a b => Sys2Proof.Machine.execRot d a b s
  | .xexp f d a p => Sys2Proof.Machine.execXexp f d a p s
  | .xtrn w r d a => Sys2Proof.Machine.execXtrn w r d a s
  | .xcvt f d a p => Sys2Proof.Machine.execXcvt f d a p s
  | .dcfg a b rmax => Sys2Proof.Machine.execDcfg a b rmax s
  | .decoderFill t => Sys2Proof.Machine.execDecoderFill t s
  | .dpop d => Sys2Proof.Machine.execDpop d s
  | .bjoin home id step => Sys2Proof.Machine.execBjoin home id step s
  | .bleave home id => Sys2Proof.Machine.execBleave home id s
  | .barv home id => Sys2Proof.Machine.execBarv home id s
  | .bwait home id => Sys2Proof.Machine.execBwait home id s
  | .barrierPhaseComplete b => Sys2Proof.Machine.execBarrierPhaseComplete b s
  | .stepComplete b => Sys2Proof.Machine.execStepComplete b s
  | .yield a any => Sys2Proof.Machine.execYield a any s
  | .wdrive a => Sys2Proof.Machine.execWdrive a s
  | .sys d svc => Sys2Proof.Machine.execSys d svc s
  | .instructionFetch t => Sys2Proof.Machine.execInstructionFetch t s
  | .wNop link0 => Sys2Proof.Machine.execWNop link0 s
  | .wMma ctx acc src fmt sparse mx kc pair plen link0 otoff nout => Sys2Proof.Machine.execWMma ctx acc src fmt sparse mx kc pair plen link0 otoff nout s
  | .wMmaz ctx acc src link0 => Sys2Proof.Machine.execWMmaz ctx acc src link0 s
  | .wExit ctx src link0 => Sys2Proof.Machine.execWExit ctx src link0 s
  | .wBr ctx psrc pnot link0 link1 => Sys2Proof.Machine.execWBr ctx psrc pnot link0 link1 s
  | .wCall link0 link1 => Sys2Proof.Machine.execWCall link0 link1 s
  | .wSync tk clr link0 => Sys2Proof.Machine.execWSync tk clr link0 s
  | .wScale link0 => Sys2Proof.Machine.execWScale link0 s
  | .wblockRead t => Sys2Proof.Machine.execWblockRead t s
  | .payloadLoad t => Sys2Proof.Machine.execPayloadLoad t s
  | .pass o => Sys2Proof.Machine.execPass o s
  | .const o => Sys2Proof.Machine.execConst o s
  | .bnr o => Sys2Proof.Machine.execBnr o s
  | .eos o => Sys2Proof.Machine.execEos o s
  | .cnt o => Sys2Proof.Machine.execCnt o s
  | .dup o => Sys2Proof.Machine.execDup o s
  | .iadd o => Sys2Proof.Machine.execIadd o s
  | .isub o => Sys2Proof.Machine.execIsub o s
  | .imul o => Sys2Proof.Machine.execImul o s
  | .imulh o => Sys2Proof.Machine.execImulh o s
  | .iand o => Sys2Proof.Machine.execIand o s
  | .ior o => Sys2Proof.Machine.execIor o s
  | .ixor o => Sys2Proof.Machine.execIxor o s
  | .ishl o => Sys2Proof.Machine.execIshl o s
  | .ishr o => Sys2Proof.Machine.execIshr o s
  | .isra o => Sys2Proof.Machine.execIsra o s
  | .imin o => Sys2Proof.Machine.execImin o s
  | .imax o => Sys2Proof.Machine.execImax o s
  | .iabs o => Sys2Proof.Machine.execIabs o s
  | .icmp o => Sys2Proof.Machine.execIcmp o s
  | .isat o => Sys2Proof.Machine.execIsat o s
  | .imac o => Sys2Proof.Machine.execImac o s
  | .fadd o => Sys2Proof.Machine.execFadd o s
  | .fsub o => Sys2Proof.Machine.execFsub o s
  | .fmul o => Sys2Proof.Machine.execFmul o s
  | .ffma o => Sys2Proof.Machine.execFfma o s
  | .fmin o => Sys2Proof.Machine.execFmin o s
  | .fmax o => Sys2Proof.Machine.execFmax o s
  | .fneg o => Sys2Proof.Machine.execFneg o s
  | .fdiv o => Sys2Proof.Machine.execFdiv o s
  | .frsq o => Sys2Proof.Machine.execFrsq o s
  | .fcmp o => Sys2Proof.Machine.execFcmp o s
  | .cvt o => Sys2Proof.Machine.execCvt o s
  | .deq o => Sys2Proof.Machine.execDeq o s
  | .qnt o => Sys2Proof.Machine.execQnt o s
  | .amax o => Sys2Proof.Machine.execAmax o s
  | .lut o => Sys2Proof.Machine.execLut o s
  | .lutTableRead u e p => Sys2Proof.Machine.execLutTableRead u e p s
  | .rred o => Sys2Proof.Machine.execRred o s
  | .rsum o => Sys2Proof.Machine.execRsum o s
  | .rmax o => Sys2Proof.Machine.execRmax o s
  | .rmin o => Sys2Proof.Machine.execRmin o s
  | .shuf o => Sys2Proof.Machine.execShuf o s
  | .bcst o => Sys2Proof.Machine.execBcst o s
  | .algn o => Sys2Proof.Machine.execAlgn o s
  | .pack o => Sys2Proof.Machine.execPack o s
  | .unpk o => Sys2Proof.Machine.execUnpk o s
  | .steer o => Sys2Proof.Machine.execSteer o s
  | .merge o => Sys2Proof.Machine.execMerge o s
  | .gate o => Sys2Proof.Machine.execGate o s
  | .pgen o => Sys2Proof.Machine.execPgen o s
  | .elemSel o => Sys2Proof.Machine.execElemSel o s
  | .hfwd o => Sys2Proof.Machine.execHfwd o s
  | .hinv o => Sys2Proof.Machine.execHinv o s
  | .hthr o => Sys2Proof.Machine.execHthr o s
  | .agld o => Sys2Proof.Machine.execAgld o s
  | .agst o => Sys2Proof.Machine.execAgst o s
  | .agreq o => Sys2Proof.Machine.execAgreq o s
  | .agrmw o => Sys2Proof.Machine.execAgrmw o s
  | .feed o => Sys2Proof.Machine.execFeed o s
  | .wld o => Sys2Proof.Machine.execWld o s
  | .drn o => Sys2Proof.Machine.execDrn o s
  | .emit o => Sys2Proof.Machine.execEmit o s
  | .recv o => Sys2Proof.Machine.execRecv o s
  | .tokenHop u h => Sys2Proof.Machine.execTokenHop u h s
  | .pennantHop u h => Sys2Proof.Machine.execPennantHop u h s
  | .bannerCut u e p => Sys2Proof.Machine.execBannerCut u e p s
  | .cutComplete u r slot => Sys2Proof.Machine.execCutComplete u r slot s
  | .sourceStartArrival u e => Sys2Proof.Machine.execSourceStartArrival u e s
  | .agDescriptorRead u e p => Sys2Proof.Machine.execAgDescriptorRead u e p s
  | .switchRequestArrival u r => Sys2Proof.Machine.execSwitchRequestArrival u r s
  | .elementPlaneSwitch u e slot => Sys2Proof.Machine.execElementPlaneSwitch u e slot s
  | .configLoad u => Sys2Proof.Machine.execConfigLoad u s
  | .decompressorPreload t => Sys2Proof.Machine.execDecompressorPreload t s
  | .passStart t => Sys2Proof.Machine.execPassStart t s
  | .aRowAccept t => Sys2Proof.Machine.execARowAccept t s
  | .tileHoldAssert t => Sys2Proof.Machine.execTileHoldAssert t s
  | .tileHoldRelease t => Sys2Proof.Machine.execTileHoldRelease t s
  | .mmaComplete t id => Sys2Proof.Machine.execMmaComplete t id s
  | .weightImageComplete t slot => Sys2Proof.Machine.execWeightImageComplete t slot s
  | .walkRequest u => Sys2Proof.Machine.execWalkRequest u s
  | .pageWalkComplete die asid vpn => Sys2Proof.Machine.execPageWalkComplete die asid vpn s
  | .invalidationComplete t => Sys2Proof.Machine.execInvalidationComplete t s
  | .cmdCopy e id => Sys2Proof.Machine.execCmdCopy e id s
  | .cmdLpush e id => Sys2Proof.Machine.execCmdLpush e id s
  | .cmdLpull e id => Sys2Proof.Machine.execCmdLpull e id s
  | .cmdNetr e id => Sys2Proof.Machine.execCmdNetr e id s
  | .cmdNetw e id => Sys2Proof.Machine.execCmdNetw e id s
  | .cmdStgr e id => Sys2Proof.Machine.execCmdStgr e id s
  | .cmdStgw e id => Sys2Proof.Machine.execCmdStgw e id s
  | .engineCmdComplete e id => Sys2Proof.Machine.execEngineCmdComplete e id s
  | .linkCopyServe die port => Sys2Proof.Machine.execLinkCopyServe die port s
  | .linkReplay die port seq => Sys2Proof.Machine.execLinkReplay die port seq s
  | .hostRdmaWrite qp key addr data => Sys2Proof.Machine.execHostRdmaWrite qp key addr data s
  | .hostRdmaRead qp key addr len => Sys2Proof.Machine.execHostRdmaRead qp key addr len s
  | .completionRecordWrite q => Sys2Proof.Machine.execCompletionRecordWrite q s
  | .eventFrameSend q => Sys2Proof.Machine.execEventFrameSend q s
  | .packetFetch slot => Sys2Proof.Machine.execPacketFetch slot s
  | .pktBind q n => Sys2Proof.Machine.execPktBind q n s
  | .pktUnmap q n => Sys2Proof.Machine.execPktUnmap q n s
  | .pktSignal q n => Sys2Proof.Machine.execPktSignal q n s
  | .pktWait q n => Sys2Proof.Machine.execPktWait q n s
  | .pktFence q n => Sys2Proof.Machine.execPktFence q n s
  | .pktCtxCreate q n => Sys2Proof.Machine.execPktCtxCreate q n s
  | .pktCtxDestroy q n => Sys2Proof.Machine.execPktCtxDestroy q n s
  | .pktCtxSetRoot q n => Sys2Proof.Machine.execPktCtxSetRoot q n s
  | .feslotUnmapEnd n => Sys2Proof.Machine.execFeslotUnmapEnd n s
  | .preemptionLand t => Sys2Proof.Machine.execPreemptionLand t s
  | .taskDispatch t => Sys2Proof.Machine.execTaskDispatch t s
  | .taskRetire t => Sys2Proof.Machine.execTaskRetire t s
  | .repairRetry r => Sys2Proof.Machine.execRepairRetry r s
  | .repairReplace r => Sys2Proof.Machine.execRepairReplace r s
  | .repairDefault r => Sys2Proof.Machine.execRepairDefault r s
  | .repairZero r => Sys2Proof.Machine.execRepairZero r s
  | .repairDiscard r => Sys2Proof.Machine.execRepairDiscard r s
  | .repairRollback r => Sys2Proof.Machine.execRepairRollback r s
  | .repairEscalate r => Sys2Proof.Machine.execRepairEscalate r s
  | .xlinvPage t asid vpn bc => Sys2Proof.Machine.execXlinvPage t asid vpn bc s
  | .xlinvAsid t asid bc => Sys2Proof.Machine.execXlinvAsid t asid bc s
  | .xlinvNonglobal t bc => Sys2Proof.Machine.execXlinvNonglobal t bc s
  | .xlinvAll t bc => Sys2Proof.Machine.execXlinvAll t bc s
  | .patrolScrub pa => Sys2Proof.Machine.execPatrolScrub pa s
  | .linkFrameReceive die port frame => Sys2Proof.Machine.execLinkFrameReceive die port frame s
  | .linkRetrain die port lanes => Sys2Proof.Machine.execLinkRetrain die port lanes s
  | .arrayCheck t row => Sys2Proof.Machine.execArrayCheck t row s
  | .doorbellWrite qp key q val => Sys2Proof.Machine.execDoorbellWrite qp key q val s
  | .cqConsumedWrite qp key q val => Sys2Proof.Machine.execCqConsumedWrite qp key q val s
  | .flushRead qp key => Sys2Proof.Machine.execFlushRead qp key s
  | .pktLaunch q n place => Sys2Proof.Machine.execPktLaunch q n place s
  | .pktLoadobj q n fw => Sys2Proof.Machine.execPktLoadobj q n fw s
  | .pktMap q n tables => Sys2Proof.Machine.execPktMap q n tables s
  | .pktCopy q n tile => Sys2Proof.Machine.execPktCopy q n tile s
  | .feslotMap n q => Sys2Proof.Machine.execFeslotMap n q s
  | .feslotUnmap n => Sys2Proof.Machine.execFeslotUnmap n s
  | .festatClr => Sys2Proof.Machine.execFestatClr s
  | .queueDescWrite q off v => Sys2Proof.Machine.execQueueDescWrite q off v s
  | .queueFstallClear q => Sys2Proof.Machine.execQueueFstallClear q s
  | .rdmaWindowWrite w off v => Sys2Proof.Machine.execRdmaWindowWrite w off v s
  | .tqPushTail t => Sys2Proof.Machine.execTqPushTail t s
  | .tqPushHead t => Sys2Proof.Machine.execTqPushHead t s
  | .tqRemove t idx => Sys2Proof.Machine.execTqRemove t idx s
  | .tqPreempt t => Sys2Proof.Machine.execTqPreempt t s
  | .tqAbortRunning t retry => Sys2Proof.Machine.execTqAbortRunning t retry s
  | .tqAbortParked t idx retry => Sys2Proof.Machine.execTqAbortParked t idx retry s
  | .rptokSend strip v => Sys2Proof.Machine.execRptokSend strip v s
  | .cornstatClr strip => Sys2Proof.Machine.execCornstatClr strip s
  | .fltctlGoResume t => Sys2Proof.Machine.execFltctlGoResume t s
  | .fltctlGoSkip t => Sys2Proof.Machine.execFltctlGoSkip t s
  | .fltctlGoRerun t => Sys2Proof.Machine.execFltctlGoRerun t s
  | .fltrvalWrite t v => Sys2Proof.Machine.execFltrvalWrite t v s
  | .arrmapWrite t v => Sys2Proof.Machine.execArrmapWrite t v s
  | .accspareWrite t v => Sys2Proof.Machine.execAccspareWrite t v s
  | .dcclr t => Sys2Proof.Machine.execDcclr t s
  | .eclr u e p v => Sys2Proof.Machine.execEclr u e p v s
  | .lnkstatClr die port => Sys2Proof.Machine.execLnkstatClr die port s
  | .mbxPop => Sys2Proof.Machine.execMbxPop s
  | .mbxSend strip elem => Sys2Proof.Machine.execMbxSend strip elem s
  | .secalmPolicyWrite policy => Sys2Proof.Machine.execSecalmPolicyWrite policy s
  | .healthWrite v => Sys2Proof.Machine.execHealthWrite v s
  | .registerWrite page off v => Sys2Proof.Machine.execRegisterWrite page off v s
  | .securityAlarm src => Sys2Proof.Machine.execSecurityAlarm src s
  | .thermalTrip b => Sys2Proof.Machine.execThermalTrip b s
  | .coldReset b => Sys2Proof.Machine.execColdReset b s
  | .warmReset b => Sys2Proof.Machine.execWarmReset b s
  | .softError e => Sys2Proof.Machine.execSoftError e s
  | .commandResume e id endFailed => Sys2Proof.Machine.execCommandResume e id endFailed s
  | .tileRetirement t moves => Sys2Proof.Machine.execTileRetirement t moves s
  | .firmwareRetraining die port lanes => Sys2Proof.Machine.execFirmwareRetraining die port lanes s
  | .clockThrottling mhz => Sys2Proof.Machine.execClockThrottling mhz s
  | .powerLoss => Sys2Proof.Machine.execPowerLoss s
  | .cpLoadStore op => Sys2Proof.Machine.execCpLoadStore op s
  | .pauseFrame prio pause => Sys2Proof.Machine.execPauseFrame prio pause s
  | .invalidRequest qp => Sys2Proof.Machine.execInvalidRequest qp s
  | .completionWriteFailure q => Sys2Proof.Machine.execCompletionWriteFailure q s
  | .nopA => Sys2Proof.Machine.execNopA s
  | .lbrk => Sys2Proof.Machine.execLbrk s
  | .nopB => Sys2Proof.Machine.execNopB s
  | .step => Sys2Proof.Machine.execStep s
  | .done => Sys2Proof.Machine.execDone s
  | .hret => Sys2Proof.Machine.execHret s
  | .wRet => Sys2Proof.Machine.execWRet s
  | .wEnd => Sys2Proof.Machine.execWEnd s
  | .mailboxDeliver => Sys2Proof.Machine.execMailboxDeliver s

end Sys2Proof.Machine
end

