-- ==== Sys2Proof/Machine/Issue.lean ====
section
/-!
DEFINITION. The turns of a tile: a bundle of the task or of the shadow context, and a weight block (R216-R233,
R302-R305, R313, R324, R363-R365, R373, R382-R384, R390).
-/
namespace Sys2Proof.Machine

/-! ### A bundle (R220-R229) -/

/-- A bundle that waits changes nothing but what waiting itself does: misses it has raised, accesses that pend at
banks, and an arrival of step (R74, R100, R113, R273). -/
def stall (s r : State) : State := { s with xus := r.xus, collars := r.collars, tasks := r.tasks, barriers := r.barriers }

/-- What a bundle that waits at bwait or step waits for (R364). DEDUCED: notes/assumptions/31.md. -/
def waitsFor (s : State) (i : Instr) : Option ParkWhy :=
  match i with
  | .bwait home id => some (.barrier (barKey home id) (tget 0 s.mine.arrived (barKey home id)))
  | .step => s.mine.stepGroup.map fun b => .step b (tget 0 s.mine.arrived b)
  | _ => none

/-- A wait at bwait or step parks the task while the tile has another candidate (R364, R365).
DEDUCED: notes/assumptions/31.md. -/
def parkAtWait (s : State) (i : Instr) : State :=
  let t := s.cur.unit
  let x := s.tile t
  match waitsFor s i, x.task with
  | some why, some n =>
    if !s.cur.shadow && drained x.ctx && decide (x.parked.length < 4) && (chooseNext s t).isSome
    then parkTask s t n why else s
  | _, _ => s

/-- Both slots of a bundle have taken effect: it counts as issued (R218, R223, R233, R236). -/
def bundleIssued (s : State) (b : Bundle) (loop : Bool) : State :=
  let c := s.ctx
  let bound := (c.pend.filter fun p => p.bno == c.bno).foldl (fun m p => max m p.bound) s.now
  let s1 := s.setCtx { c with bno := c.bno + 1, recent := ((c.bno, bound) :: c.recent).take 7 }
  if s.cur.shadow then s1
  else
    let x := s1.me
    s1.setTile s.cur.unit { x with
      atPs := b.ps, ticked := false
      sys := { x.sys with bissue := x.sys.bissue + 1, bfetch := if loop then x.sys.bfetch else x.sys.bfetch + 1 } }

/-- The back edge of a bundle with le (R228). -/
def backEdge (s : State) (b : Bundle) : State := if b.le then (loopEnd s s.cur.bpc).getD s else s

/-- A bundle whose checks and waits are over issues: slot A and slot B, neither where one of them faults or
waits (R221, R239, R273). DEDUCED: notes/assumptions/30.md. -/
def issueBundle (s : State) (b : Bundle) : State :=
  let loop := inLoopBuf s.ctx
  if b.le && s.ctx.loops.isEmpty then after s (issueFault s 0x01 0 0)
  else
    let r1 := after s (exec b.a s)
    if r1.cur.iss = .fault then r1
    else if r1.cur.iss = .wait then stall s r1
    else
      let r2 := backEdge r1 b
      let r3 := after r2 (exec b.b r2)
      if r3.cur.iss = .fault then after s (exec b.b s)
      else if r3.cur.iss = .wait then parkAtWait (stall s r3) b.b
      else bundleIssued r3 b loop

/-- The bundle at the acting context's PC: fetch failures, then the checks of R220, then the waits of R223 and
R224, then issue. DEDUCED: notes/assumptions/30.md. -/
def issueTurn (s : State) : State :=
  let pc := s.ctx.pc
  let s := { s with cur := { s.cur with bpc := pc } }
  if s.now < s.ctx.nextIssue then s
  else match fetched s with
    | .miss => s
    | .bad c a => after s (issueFault (dropLine s pc) c a 0)
    | .got g w =>
      let s := noteFetch s
      match decodeBundle w with
      | .illegalOp => after s (issueFault s 0x09 0 0)
      | .rsvdField => after s (issueFault s 0x08 0 0)
      | .ok b =>
        if bits g 255 240 ≠ 0 then after s (issueFault s 0x08 0 0)
        else
          let s := { s with cur := { s.cur with ta := b.ta, tc := b.tc } }
          if !waitsOver s b then s
          else if !s.cur.shadow && readsBad s.me b then seqFault s s.cur.unit 0x36 pc 0 0 .parity
          else issueBundle s b

/-! ### Turns -/

/-- The sequencer's turn in a tile cycle: a parking or a pre-emption that is due, or a bundle (R31, R302, R303,
R363, R364, R390). DEDUCED: notes/assumptions/32.md. -/
def seqTurn (t : Nat) (s : State) : State :=
  let x := s.tile t
  if x.held || !x.shadow.queue.isEmpty || !x.issues then s
  else match x.parkWait, x.task with
    | some why, some n => if drained x.ctx then parkOrStay s t n why else s
    | _, _ =>
      if x.preempt && x.atPs then s.setTile t { x with landing := true }
      else issueTurn { s with cur := { unit := t } }

/-- The shadow context's turn, in every cycle while it runs: what is due lands, and a bundle issues (R31,
R383). -/
def shadowTurn (t : Nat) (s : State) : State :=
  let s1 := s.setTile t (landShadow s (s.tile t))
  if (s1.tile t).shadow.active then issueTurn { s1 with cur := { unit := t, shadow := true } } else s1

/-- The weight-driven engine's turn: a pre-emption that lands between blocks, or the block at the head of the
chain (R313, R314, R324). -/
def wdTurn (t : Nat) (s : State) : State :=
  let x := s.tile t
  let aborted := match x.abort with
    | some (none, _) => true
    | _ => false
  if !x.wd.on || x.held || !x.shadow.queue.isEmpty || x.landing || aborted then s
  else if x.preempt && !x.wd.mid then s.setTile t { x with landing := true }
  else
    let s := { s with cur := { unit := t } }.setTile t (settleReload x)
    match wdHead s t with
    | none => s
    | some (.inl (c, d, addr)) =>
      wdFault (setWd s t { (s.tile t).wd with hdrd := d }) t c addr (if c = 0x38 then d else 0) .weight
    | some (.inr i) => after s (exec i s)

end Sys2Proof.Machine
end

