-- ==== Sys2Proof/Machine/Round.lean ====
section
/-!
DEFINITION. A cycle of the whole machine: what begins with it, the turns its agents take in it, and one turn
(R9, R12, R31-R33, R100, R123, R124, R129, R146, R235, R390). Turns whose time the manual leaves open are
taken or not by a free choice each cycle.
-/
namespace Sys2Proof.Machine

/-! ### What begins with a cycle -/

/-- A tile's cycle: a tile cycle, or a held one, in which the array may run on (R2, R31, R235, R236, R321). -/
def tickTile (t : Nat) (s : State) : State :=
  let x := s.tile t
  let run := x.task.isSome
  deliverWeights (s.setTile t (if x.held then
    { x with runOn := runsOn s t, ticked := false, ran := false
             sys := if run then { x.sys with hcyc := x.sys.hcyc + 1 } else x.sys }
  else
    { x with runOn := false, ticked := true, ran := true
             sys := if run then { x.sys with tcyc := x.sys.tcyc + 1 } else x.sys })) t

/-- Scale loads that arrived before this cycle are seen from now on (R146). -/
def Plane.landScales (y : Plane) (now : Nat) : Plane :=
  let due := y.cload.filter fun l => decide (l.2.2 < now)
  { y with
    bank := { y.bank with c := due.foldl (fun c l => tput c l.1 l.2.1) y.bank.c },
    cload := y.cload.filter fun l => !decide (l.2.2 < now) }

/-- The slot each region selects for the cycle, the buffers that are full at its start, and the load that begins
(R123, R129, R291). -/
def beginCollar (s : State) (u : Nat) (c : Collar) : Collar :=
  let c1 : Collar := { c with
    elems := c.elems.map fun (e, x) =>
      (e, { x with planes := x.planes.map fun (p, y) => (p, if y.cload.isEmpty then y else y.landScales s.cycle) }),
    regions := c.regions.map fun (r, g) =>
      let sel := selectSlot s u g
      (r, { g with sel := sel, last := sel.or g.last }) }
  -- the oldest load begins (R291)
  let loads := match c1.loads with
    | l :: rest => { l with start := l.start.or (some s.cycle) } :: rest
    | [] => []
  { c1 with full := fullKeys c1, loads := loads }

/-! ### The turns of a cycle -/

/-- Turns whose time is open: each is taken or not. -/
def sometimes (s : State) (base : Nat) (l : List Turn) : List Turn :=
  (List.range l.length).filterMap fun i => if choose s (base + i) 2 = 1 then l[i]? else none

/-- Turns that are taken where their requester has been granted a bank in this cycle (R101), and by a free choice
otherwise. DESIGN CHOICE: notes/assumptions/23.md. -/
def sometimesOr (s : State) (granted : List Nat) (base : Nat) (l : List (List Nat × Turn)) : List Turn :=
  (List.range l.length).filterMap fun i => match l[i]? with
    | some (rs, t) => if rs.any granted.contains || choose s (base + i) 2 == 1 then some t else none
    | none => none

/-- The turn in which a slot B operation is performed (R224, R278). DESIGN CHOICE: notes/assumptions/23.md. -/
def opTurn (t : Nat) (o : Op) : Option Turn :=
  match o.kind with
  | .st _ _ _ => some (.ev (.storePerformed t o.id))
  | .stv _ _ _ => some (.ev (.storePerformed t o.id))
  | .fence _ _ => some (.ev (.fenceComplete t o.id))
  | .stacc _ _ _ => some (.ev (.accWritePerformed t o.id))
  | .accz _ _ _ => some (.ev (.accWritePerformed t o.id))
  | .wtl _ => none
  | .mma => none
  | .cfg => none
  | _ => some (.ev (.loadDataReturn t o.id))

/-- What the cycle before has brought about lands, then the hold's edge, the tile's cycle, and what begins in the
array (R31, R191). -/
def tileStart (s : State) (t : Nat) : List Turn :=
  let x := s.tile t
  .ended t :: (if x.ran then [.ev (.fixedLatencyWriteback t)] else [])
  ++ (if x.held then [.ev (.tileHoldRelease t)] else [.ev (.tileHoldAssert t)])
  ++ [.tick t]
  ++ (if x.arr.unfed.isEmpty then [] else
      [.ev (.decompressorPreload t), .ev (.passStart t), .ev (.decompressorPreload t)])
  ++ [.ev (.sideVectorTrap t)]

/-- What completes on a tile. DESIGN CHOICE: notes/assumptions/23.md. -/
def tileEvents (s : State) (granted : List Nat) (t : Nat) : List Turn :=
  let x := s.tile t
  let op (o : Op) : Option (List Nat × Turn) := (opTurn t o).map fun e => ([tileReq 2 t o.id], e)
  sometimesOr s granted (t * 64) (x.ctx.ops.filterMap op ++ x.shadow.ctx.ops.filterMap op
    ++ [([tileReq 6 t 0, tileReq 6 t 1], .ev (.decoderFill t)), ([tileReq 4 t 0, tileReq 4 t 1], .ev (.instructionFetch t)),
        ([tileReq 5 t 0], .ev (.wblockRead t))]
    ++ List.replicate 4 ([tileReq 5 t 2], .ev (.payloadLoad t)))
  ++ (x.arr.mmas.map fun m => .ev (.mmaComplete t m.id))
  ++ (x.arr.slots.filterMap fun (k, w) => if w.st = 1 then some (.ev (.weightImageComplete t k)) else none)

/-- Configuration loads, switches and starts of a collar. -/
def collarEvents (s : State) (u : Nat) (c : Collar) : List Turn :=
  (match c.loads with
    | [] => []
    | l :: _ => if loadDue s u l then [.ev (.configLoad u)] else sometimes s (8192 + u * 8) [.ev (.configLoad u)])
  ++ (c.regions.filterMap fun (r, g) => if g.switches.isEmpty then none else some (.ev (.switchRequestArrival u r)))
  ++ (c.elems.map fun (e, x) => x.switching.map fun sl => .ev (.elementPlaneSwitch u e sl)).flatten
  ++ (c.starts.filterMap fun a =>
      if a.at' ≤ s.cycle ∧ (s.tile u).landing = false then some (.ev (.sourceStartArrival u a.elem)) else none)

/-- Descriptors, tables and cuts of a collar. -/
def collarReads (s : State) (u : Nat) (c : Collar) : List Turn :=
  let planes (f : Nat → Elem → Nat → Plane → Option Turn) : List Turn :=
    (c.elems.map fun (e, x) => x.planes.filterMap fun (p, y) => f e x p y).flatten
  planes (fun e _ p y => if y.bank.st.wantDesc then some (.ev (.agDescriptorRead u e p)) else none)
  ++ planes (fun e _ p y => if y.lacksTable then some (.ev (.lutTableRead u e p)) else none)
  ++ (if c.elems.any fun (_, x) => x.planes.any fun (_, y) => !y.cuts.isEmpty || !y.lines.isEmpty
      then (c.regions.map fun (r, g) => g.armed.map fun sl => Turn.ev (.cutComplete u r sl)).flatten else [])

/-- Hops of a collar, contending ones in a free order (R122, R123). -/
def hopTurns (s : State) (u : Nat) (c : Collar) : List Turn :=
  let es := (c.elems.map fun (e, x) =>
    (if x.out.isEmpty then [] else [Turn.ev (.tokenHop u (.elem e))])
    ++ (if x.pout.isEmpty then [] else [Turn.ev (.pennantHop u (.elem e))])
    ++ (if x.flt.isEmpty then [] else [Turn.ev (.tokenHop u (.flt e))])).flatten
  let bs := (c.boxes.map fun (b, x) =>
    (x.dbuf.filterMap fun (k, l) => if l.isEmpty then none else some (Turn.ev (.tokenHop u (.box b k))))
    ++ (x.pbuf.filterMap fun (k, l) => if l.isEmpty then none else some (Turn.ev (.pennantHop u (.box b k))))
    ++ (x.mesh.map fun _ => Turn.ev (.tokenHop u (.mesh b)))
    ++ (x.meshPen.map fun _ => Turn.ev (.pennantHop u (.mesh b)))).flatten
  let l := es ++ bs ++ (if c.faultIn.isEmpty then [] else [Turn.ev (.tokenHop u .corner)])
  rotate l (choose s (16384 + u) l.length)

/-- Elements of the selected slots: one that fires on a repaired token comes first, and gated operations come
last (R129, R378). -/
def elemTurns (u : Nat) (c : Collar) : List Turn :=
  let es := (c.regions.map fun (_, g) => match g.sel with
    | some sl => slotElems c g sl
    | none => []).flatten
  let rank (e p : Nat) : Nat :=
    let y := (c.elem e).plane p
    if y.bank.st.grant.isSome then 0 else if gatedOp y.opcode then 2 else 1
  ([0, 1, 2].map fun k => (es.filter fun (e, p) => rank e p == k).map fun (e, _) => Turn.elem u e).flatten

/-- The turn of an engine's command. -/
def cmdTurns (key : Nat) (c : Cmd) : List Turn :=
  let e : Eng := if key < 64 then .tile key else if key < 72 then .link ((key - 64) / 2) (key % 2) else .eth
  match c.st with
  | .ending _ => [.ev (.engineCmdComplete e c.id)]
  | .paused _ _ => []
  | _ => match c.opc with
    | 1 => [.ev (.cmdCopy e c.id)]
    | 2 => [.ev (.cmdLpush e c.id)]
    | 3 => [.ev (.cmdLpull e c.id)]
    | 4 => [.ev (.cmdNetr e c.id)]
    | 5 => [.ev (.cmdNetw e c.id)]
    | 6 => [.ev (.cmdStgr e c.id)]
    | 7 => [.ev (.cmdStgw e c.id)]
    | _ => []

def engineTurns (s : State) (granted : List Nat) : List Turn :=
  sometimesOr s granted 20480 (s.engines.map fun (k, e) =>
    (e.q.map fun c => (cmdTurns k c).map fun t => ([reqId 7 c.id, reqId 15 c.id], t)).flatten).flatten

/-- Walks, misses and invalidations (R74-R78). A walker takes the units in rotation. -/
def walkTurns (s : State) : List Turn :=
  let units (d : Nat) : List Nat := (dieUnits d).filter fun u => (s.xu u).miss.any fun e => !e.sent && e.failed.isNone
  let after' (d : Nat) : List Nat :=
    let r := (tget ({} : Walker) s.walkers d).rot
    (units d).filter (fun u => decide (u > r)) ++ (units d).filter fun u => decide (u ≤ r)
  (([0, 1, 2, 3].map after').flatten.map fun u => .ev (.walkRequest u))
  ++ sometimes s 24576 ((s.walkers.map fun (d, w) => w.flight.map fun k => Turn.ev (.pageWalkComplete d k.asid k.vpn)).flatten
    ++ s.xus.filterMap fun (u, x) => if x.inv.isEmpty then none else some (.ev (.invalidationComplete u)))

/-- The turn of a packet that firmware needs no choice for (R355). -/
def packetTurns (q : Nat) (p : Packet) : List Turn :=
  if p.done then []
  else match p.ty with
    | 1 => []
    | 2 => [.ev (.pktBind q p.n)]
    | 3 => []
    | 4 => []
    | 5 => [.ev (.pktUnmap q p.n)]
    | 6 => [.ev (.pktSignal q p.n)]
    | 7 => [.ev (.pktWait q p.n)]
    | 8 => []
    | 10 =>
      if p.f 8 1 = 1 then [.ev (.pktCtxDestroy q p.n)]
      else if p.f 8 1 = 2 then [.ev (.pktCtxSetRoot q p.n)]
      else [.ev (.pktCtxCreate q p.n)]
    | _ => [.ev (.pktFence q p.n)]

/-- Queues, packets, completion records and links. -/
def portTurns (s : State) : List Turn :=
  -- the head packet of a mapped queue is examined at least once every 1,024 cycles (R372); a frame goes at the
  -- first moment it may (R413)
  let due (f : FeSlot) : Bool := f.v && decide (s.cycle ≥ f.seenAt + 1023)
  (s.fe.slots.filterMap fun (n, f) => if due f then some (Turn.ev (.packetFetch n)) else none)
  ++ (s.queues.map fun (q, _) => Turn.ev (.eventFrameSend q))
  ++ sometimes s 28672 (
    (s.fe.slots.map fun (n, f) => (if f.v && !due f then [Turn.ev (.packetFetch n)] else []) ++ (if f.busy then [Turn.ev (.feslotUnmapEnd n)] else [])).flatten
    ++ (s.queues.map fun (q, x) => (x.packets.map (packetTurns q)).flatten
        ++ (if x.packets.any (·.done) then [Turn.ev (.completionRecordWrite q)] else [])).flatten
    ++ (s.links.filterMap fun (k, l) => if l.inq.isEmpty then none else some (Turn.ev (.linkCopyServe (k / 2) (k % 2))))
    ++ (if s.mod.outbox.isEmpty then [] else [Turn.ev .mailboxDeliver]))

/-- Tasks, barriers and steps. -/
def taskTurns (s : State) : List Turn :=
  (s.barriers.map fun (b, x) => if x.members.isEmpty then [] else if x.step then [Turn.ev (.stepComplete b)] else [Turn.ev (.barrierPhaseComplete b)]).flatten
  ++ (s.tiles.map fun (t, _) => [Turn.ev (.preemptionLand t), .ev (.taskRetire t), .ev (.taskDispatch t)]).flatten

/-- The turns a cycle begins with: what ends and begins on the tiles, what arrives from outside and in the collars,
the hops, and then the banks (R100, R440). DESIGN CHOICE: notes/assumptions/1.md. -/
def arrivals (s : State) (input : List Turn) : List Turn :=
  (s.tiles.map fun (t, _) => tileStart s t).flatten
  ++ input
  ++ (s.collars.map fun (u, c) => collarEvents s u c).flatten
  ++ (s.collars.map fun (u, c) => if c.fly.isEmpty then [] else [Turn.fly u]).flatten
  ++ (s.collars.map fun (u, c) => hopTurns s u c).flatten
  ++ [.banks]

/-- The turns after the banks have granted, in the order they are taken. Within a cycle the machine's agents act on
what stood at its start, but for what one hands to the next by this order. DESIGN CHOICE: notes/assumptions/1.md. -/
def turnsOf (s : State) : List Turn :=
  let granted := grantedReqs s
  (s.collars.map fun (u, c) => if c.fly.isEmpty then [] else [Turn.fly u]).flatten
  ++ (s.tiles.map fun (t, _) => [Turn.seq t, .shadow t, .wd t]).flatten
  ++ (s.tiles.map fun (t, _) => tileEvents s granted t).flatten
  ++ (s.collars.map fun (u, c) => collarReads s u c).flatten
  ++ engineTurns s granted
  ++ (s.tiles.map fun (t, x) => if x.arr.unfed.isEmpty then [] else [Turn.ev (.aRowAccept t)]).flatten
  ++ (s.collars.map fun (u, c) => elemTurns u c).flatten
  ++ walkTurns s ++ taskTurns s ++ portTurns s ++ [.firmware]

/-- The banks choose among the requests that stand before them, and the cycle's work follows (R100, R440). -/
def beginWork (s : State) : State :=
  let s1 := arbitrateAll s
  { s1 with agenda := s1.agenda ++ turnsOf s1 }

/-! ### Steps from outside -/

/-- Steps that reach the machine from outside it, or from firmware: they may stand among the inputs.
DEDUCED: notes/assumptions/74.md. -/
def fromOutside : Instr → Bool
  | .hostRdmaWrite .. | .hostRdmaRead .. | .flushRead .. | .doorbellWrite .. | .cqConsumedWrite .. | .invalidRequest ..
  | .pktLaunch .. | .pktLoadobj .. | .pktMap .. | .pktCopy .. | .feslotMap .. | .feslotUnmap .. | .festatClr
  | .queueDescWrite .. | .queueFstallClear .. | .rdmaWindowWrite .. | .tqPushTail .. | .tqPushHead .. | .tqRemove ..
  | .tqPreempt .. | .tqAbortRunning .. | .tqAbortParked .. | .rptokSend .. | .cornstatClr .. | .repairRetry ..
  | .repairReplace .. | .repairDefault .. | .repairZero .. | .repairDiscard .. | .repairRollback .. | .repairEscalate ..
  | .fltctlGoResume .. | .fltctlGoSkip .. | .fltctlGoRerun .. | .fltrvalWrite .. | .arrmapWrite .. | .accspareWrite ..
  | .dcclr .. | .eclr .. | .xlinvPage .. | .xlinvAsid .. | .xlinvNonglobal .. | .xlinvAll .. | .lnkstatClr .. | .mbxPop
  | .mbxSend .. | .secalmPolicyWrite .. | .healthWrite .. | .registerWrite .. | .securityAlarm .. | .thermalTrip ..
  | .coldReset .. | .warmReset .. | .softError .. | .patrolScrub .. | .linkFrameReceive .. | .linkRetrain ..
  | .firmwareRetraining .. | .arrayCheck .. | .commandResume .. | .tileRetirement .. | .clockThrottling .. | .powerLoss
  | .cpLoadStore .. | .pauseFrame .. | .completionWriteFailure .. => true
  | _ => false

/-- A new cycle begins: at most one step from outside comes in with it. DESIGN CHOICE: notes/assumptions/1.md. -/
def newRound (s : State) : State :=
  let s1 := { s with cycle := s.cycle + 1, cur := {} }
  let s2 := { s1 with collars := s1.collars.map fun (u, c) => (u, beginCollar s1 u c) }
  let input := match s2.inputs with
    | i :: _ => if fromOutside i then [Turn.ev i] else []
    | [] => []
  { s2 with inputs := s2.inputs.drop 1, agenda := arrivals s2 input }

/-- Without power, and after an alarm or a failure that stops the module, only a cold reset is taken, which a thermal trip
of a powered module is (R424, R427, R431, R432). DEDUCED: notes/assumptions/70.md. -/
def stoppedStep (s : State) : Out :=
  match s.inputs with
  | .coldReset b :: rest => exec (.coldReset b) { s with inputs := rest }
  | .thermalTrip b :: rest =>
    if s.mod.powered then exec (.thermalTrip b) { s with inputs := rest } else .next { s with inputs := rest }
  | _ :: rest => .next { s with inputs := rest }
  | [] => .next s

/-! ### One turn -/

/-- An element's turn in a cycle that selects a slot it holds (R129): a parity error, a banner at every head, or
its operation's firing (R120, R135, R373, R390). -/
def elemTurn (u e : Nat) (s : State) : Out :=
  let c := s.collar u
  let x := c.elem e
  match (regionOf c e).bind fun r => (c.region r).sel with
  | none => .next s
  | some slot => match x.curOf slot with
    | none => .next s
    | some p =>
      let y := x.plane p
      let s := { s with cur := { unit := u, elem := e, slot := slot, plane := p } }
      if (s.tile u).landing && (y.opcode == 0x40 || y.opcode == 0x45) then .next s
      else match decodeElem y.op with
        | .ok i =>
          let qs := srcQ y.eop
          let heads := qs.filterMap fun q => (y.queue q).head?
          -- the queue whose head holds a parity error: one that is sourced, or the pennants' (R373, R374)
          let torn := (qs.find? fun q => ((y.queue q).head?).any (·.bad)).or
            (if y.eop.pg && (y.qp.head?).any (·.bad) then some 3 else none)
          if y.bad && x.fault.isNone then
            .next (elemFault s u e slot p 0x2B { detail := (qs.find? fun q => !(y.queue q).isEmpty).getD (qs.headD 4) })
          else if torn.isSome && x.fault.isNone then .next (elemFault s u e slot p 0x2A { detail := torn.getD 4 })
          else if !heads.isEmpty && decide (heads.length = qs.length) && heads.all (·.bnr) && y.bank.st.outq.isEmpty
              && x.fault.isNone && outRoom c e && !y.lacksTable && !(gatedOp y.opcode && gateClosed s u e slot) then exec (.bannerCut u e p) s
          else exec i s
        | _ => .next s

/-- One turn. -/
def takeTurn (t : Turn) (s : State) : Out :=
  match t with
  | .seq t => .next (seqTurn t s)
  | .shadow t => .next (shadowTurn t s)
  | .wd t => .next (wdTurn t s)
  | .ended t => .next (endCycle t s)
  | .tick t => .next (tickTile t s)
  | .banks => .next (beginWork s)
  | .fly u => .next (landDue s u)
  | .elem u e => elemTurn u e s
  | .firmware => .next (firmwareTurn s)
  | .ev i => exec i s

end Sys2Proof.Machine
end

