-- ==== Sys2Proof/Machine/Step.lean ====
section
/-!
DEFINITION. One step of the machine: the next turn of the cycle in progress, or the beginning of a cycle
(R9, R12; notes/assumptions/1.md).
-/
namespace Sys2Proof.Machine

/-- One step. Each step draws from a part of its own of the pool of free values. DEDUCED: notes/assumptions/70.md. -/
def step (s : State) : Host.Outcome State Fault Refusal :=
  let s := { s with free := s.free + 1 }
  if s.mod.stopped || !s.mod.powered then stoppedStep s
  else match s.agenda with
    | t :: rest => takeTurn t { s with agenda := rest }
    | [] => .next (newRound s)

/-- The first element whose type accepts an opcode (R148). DESIGN CHOICE: notes/assumptions/9.md. -/
def hostOf (op : Nat) : Nat :=
  ((List.range 256).find? fun e => ((opTypes op).getD []).contains (elemType e)).getD 0

/-- An element operation word stands in the current plane of an element that accepts it, in slot 0 of region 0
of tile 0, which has selected that slot, and the element's turn is next: as a configuration load and the
selection of R129 would leave it (notes/assumptions/9.md). DESIGN CHOICE: notes/assumptions/9.md. -/
def State.withFetchWord (s : State) (nbits w : Nat) : State :=
  let w := w % 2 ^ nbits
  let e := hostOf (fnat 7 w 25)
  let c := s.collar 0
  let x : Elem := { planes := [(0, { loaded := true, op := w })], cur := [(0, 0)] }
  let g : Region := { emask := 2 ^ 256 - 1, bmask := 2 ^ 64 - 1, armed := [0], last := some 0, sel := some 0 }
  let s1 := s.setCollar 0 ((c.setElem e x).setRegion 0 g)
  { s1 with
    agenda := [.elem 0 e]
    tiles := if thas s1.tiles 0 then tput s1.tiles 0 { s1.tile 0 with landing := false } else s1.tiles
    mod := { s1.mod with powered := true, stopped := false } }

end Sys2Proof.Machine
end

