-- ==== Sys2Proof/Safety.lean ====
section
/-!
DEFINITION. What counts as a safe run, and the invariant of the machine's memory.
The only stop of the model is `Fault.hole`, an access of the CP to an address at which the map of R59 has
nothing; every other fault of the manual is a next state.
-/
namespace Sys2Proof

/-- A run from `s` that no step ends: however many steps are taken, the machine answers a next state. -/
def Safe (s : Machine.State) : Prop := ∀ n, ∃ t, core.run n s = .next t

/-- An answer is a next state. -/
def Goes (o : Machine.Out) : Prop := ∃ t, o = .next t

/-- The memory holds its one canonical form: addresses strictly rising, and no listed byte equal to what an
unlisted address reads as (notes/assumptions/4.md). -/
def Inv (s : Machine.State) : Prop := s.mem.wf = true

end Sys2Proof
end

