-- ==== Sys2Proof/Certificates/Slice0/Obligations.lean ====
section
/-!
DEFINITION. The statements for the provers. Names under `Sys2Proof.Claim` are the words they are written in.
-/
open Sys2Proof Sys2Proof.Machine

/-! ### Slot A: scalar instructions, control, system registers (R243-R256) -/

/-- No earlier bundle's write to this scalar register is on its way (R221). -/
def Sys2Proof.Claim.readable (s : State) (r : Reg) : Prop := pendingTo s.ctx (.s r.toNat) = false
/-- The value of a scalar register of the acting context: s0 reads 0 (R216). -/
def Sys2Proof.Claim.val (s : State) (r : Reg) : W64 := s.ctx.getS r.toNat

/-- Everything of the machine but the acting tile and the acting instruction's outcome stands as it did; each byte
of memory reads as before. -/
def Sys2Proof.Claim.elsewhere (s t : State) : Prop :=
  (∀ a, t.byte a = s.byte a) ∧ t.mem = s.mem ∧ t.cycle = s.cycle ∧ t.agenda = s.agenda ∧ t.inputs = s.inputs
  ∧ t.collars = s.collars ∧ t.xus = s.xus ∧ t.walkers = s.walkers ∧ t.engines = s.engines ∧ t.tasks = s.tasks
  ∧ t.barriers = s.barriers ∧ t.links = s.links ∧ t.handles = s.handles ∧ t.queues = s.queues ∧ t.fe = s.fe
  ∧ t.windows = s.windows ∧ t.asids = s.asids ∧ t.qps = s.qps ∧ t.mod = s.mod ∧ t.outbox = s.outbox
  ∧ ∀ u, u ≠ s.cur.unit → t.tile u = s.tile u

/-- Every register a context holds stands as it did: scalar, vector and mask registers, the loop stack, busy tags,
operations in flight, and system register writes on their way. -/
def Sys2Proof.Claim.sameRegs (c e : Ctx) : Prop :=
  (∀ r, e.getS r = c.getS r) ∧ (∀ r, e.getV r = c.getV r) ∧ (∀ r, e.getM r = c.getM r)
  ∧ e.loops = c.loops ∧ e.busy = c.busy ∧ e.ops = c.ops ∧ e.mts = c.mts

/-- System registers with VMODE, VFLAGS and the draws, the accumulator store and the array, the decoder, the
weight-driven engine, the task queue and the faults of the acting tile stand as they did. -/
def Sys2Proof.Claim.sameTile (x y : Tile) : Prop :=
  y.sys = x.sys ∧ y.arr = x.arr ∧ y.dec = x.dec ∧ y.wd = x.wd ∧ y.task = x.task ∧ y.queue = x.queue
  ∧ y.parked = x.parked ∧ y.shadow.queue = x.shadow.queue ∧ y.shadow.fact = x.shadow.fact
  ∧ y.shadow.fval = x.shadow.fval ∧ y.shadow.fltrec = x.shadow.fltrec ∧ y.tc = x.tc ∧ y.held = x.held

/-- The instruction answers a next state in which the one write of `v` to `d` is on its way, to land `L` cycles
after issue, and the context goes on at the bundle's successor. -/
def Sys2Proof.Claim.writes (i : Instr) (s : State) (d : Dest) (v L : Nat) : Prop :=
  ∃ (t : State) (p : Pend), exec i s = .next t ∧ t.ctx.pend = s.ctx.pend ++ [p] ∧ p.dest = d ∧ p.val = v ∧ p.bound = s.now + L
    ∧ p.trap = none ∧ p.fl = ({} : Fl) ∧ t.ctx.pc = pcNext s.cur.bpc

/-- The register forms of R252 and R254 compute what the manual's table gives, at the latency of R222. -/
def Sys2Proof.Claim.scalarRegisterResults : Prop :=
  ∀ (s : State) (d a b c : Reg) (u w sx : Bool) (sh : BitVec 2),
    Claim.readable s a → Claim.readable s b → Claim.readable s c → Claim.readable s d →
    let x := Claim.val s a
    let y := Claim.val s b
    let rd (z : W64) : Int := if u then z.toNat else z.toInt
    let low (z : W64) : Nat := if w then z.toNat % 2 ^ 32 else z.toNat
    let pos := y.toNat % 64
    let len := min 64 (y.toNat / 256 % 128)
    let field := x.toNat / 2 ^ pos % 2 ^ len
    let R (i : Instr) (v : W64) (L : Nat) : Prop := Claim.writes i s (.s d.toNat) v.toNat L
    R (.add d a b) (x + y) 1 ∧ R (.sub d a b) (x - y) 1 ∧ R (.mul d a b) (x * y) 3
    ∧ R (.mulh u d a b) (BitVec.ofInt 64 (rd x * rd y / 2 ^ 64)) 3
    ∧ R (.and d a b) (x &&& y) 1 ∧ R (.or d a b) (x ||| y) 1 ∧ R (.xor d a b) (x ^^^ y) 1
    ∧ R (.shl d a b) (x <<< pos) 1 ∧ R (.shr d a b) (x >>> pos) 1 ∧ R (.sra d a b) (x.sshiftRight pos) 1
    ∧ R (.min u d a b) (if rd y < rd x then y else x) 1 ∧ R (.max u d a b) (if rd x ≤ rd y then y else x) 1
    ∧ R (.slt u d a b) (if rd x < rd y then 1 else 0) 1
    ∧ R (.sel d a b c) (if Claim.val s c = 0 then y else x) 1
    ∧ R (.sadd d a b sh) (x + y * BitVec.ofNat 64 (2 ^ (sh.toNat + 1))) 1
    ∧ R (.clz w d a) (BitVec.ofNat 64 (if low x = 0 then (if w then 32 else 64) else
        (if w then 31 else 63) - Nat.log2 (low x))) 1
    ∧ R (.popc w d a) (BitVec.ofNat 64 (((List.range (if w then 32 else 64)).filter fun k => x.toNat.testBit k).length)) 1
    ∧ R (.bext sx d a b) (if len = 0 then 0 else if sx ∧ field.testBit (len - 1) then
        BitVec.ofNat 64 field - BitVec.ofNat 64 (2 ^ len) else BitVec.ofNat 64 field) 1
    ∧ R (.bins d a b) (let m := BitVec.ofNat 64 ((2 ^ len - 1) * 2 ^ pos)
        (Claim.val s d &&& ~~~m) ||| (x <<< pos &&& m)) 1

/-- The immediate forms of R252 and R255. -/
def Sys2Proof.Claim.scalarImmediateResults : Prop :=
  ∀ (s : State) (d a : Reg) (imm : BitVec 15) (amt : BitVec 6) (k : BitVec 20),
    Claim.readable s a → Claim.readable s d →
    let x := Claim.val s a
    let im : W64 := BitVec.ofInt 64 imm.toInt
    let R (i : Instr) (v : W64) (L : Nat) : Prop := Claim.writes i s (.s d.toNat) v.toNat L
    R (.addi d a imm) (x + im) 1 ∧ R (.muli d a imm) (x * im) 3 ∧ R (.andi d a imm) (x &&& im) 1
    ∧ R (.ori d a imm) (x ||| im) 1 ∧ R (.xori d a imm) (x ^^^ im) 1
    ∧ R (.shli d a amt) (x <<< amt.toNat) 1 ∧ R (.shri d a amt) (x >>> amt.toNat) 1
    ∧ R (.srai d a amt) (x.sshiftRight amt.toNat) 1
    ∧ R (.slti d a imm) (if x.toInt < imm.toInt then 1 else 0) 1
    ∧ R (.mini d a imm) (if imm.toInt < x.toInt then im else x) 1
    ∧ R (.maxi d a imm) (if x.toInt ≤ imm.toInt then im else x) 1
    ∧ R (.li20 d k) (BitVec.ofInt 64 k.toInt) 1
    ∧ R (.lih d k) (Claim.val s d * BitVec.ofNat 64 (2 ^ 20) + BitVec.ofNat 64 k.toNat) 1

/-- The scalar instructions compute what the manual's tables give (R252, R254, R255). -/
def Obligations.ScalarResults : Prop := Claim.scalarRegisterResults ∧ Claim.scalarImmediateResults

/-- div and rem: on a divisor other than 0 they complete, the quotient rounded toward zero and a = q × b + r; on a
divisor of 0 a task takes the control-class fault DIV0 with the bundle's PC, and nothing is written. -/
def Obligations.DivideOrFault : Prop :=
  ∀ (s : State) (d a b : Reg) (u : Bool), Claim.readable s a → Claim.readable s b →
    let x := Claim.val s a
    let y := Claim.val s b
    let rd (z : W64) : Int := if u then z.toNat else z.toInt
    (y ≠ 0 → ∃ q r : Int, Claim.writes (.div u d a b) s (.s d.toNat) (BitVec.ofInt 64 q).toNat 20
        ∧ Claim.writes (.rem u d a b) s (.s d.toNat) (BitVec.ofInt 64 r).toNat 20
        ∧ rd x = q * rd y + r ∧ r.natAbs < (rd y).natAbs ∧ (0 < r → 0 < rd x) ∧ (r < 0 → rd x < 0))
    ∧ (y = 0 → s.cur.shadow = false → (s.me.shadow.queue.length < 8) → ∀ i ∈ [Instr.div u d a b, Instr.rem u d a b],
        ∃ (t : State) (f : CFault), exec i s = .next t ∧ t.cur.iss = .fault ∧ t.me.shadow.queue = s.me.shadow.queue ++ [f]
          ∧ f.fr.cause = 0x31 ∧ f.fr.pos = s.cur.bpc.toNat ∧ t.ctx = s.ctx)

/-- What a scalar instruction, a system register read and a bundle without slot A leave alone. -/
def Sys2Proof.Claim.scalarForms (d a b c : Reg) (u w : Bool) (sh : BitVec 2) (imm : BitVec 15) (amt : BitVec 6) (k : BitVec 20)
    (n : BitVec 12) : List Instr :=
  [.nopA, .add d a b, .sub d a b, .mul d a b, .mulh u d a b, .div u d a b, .rem u d a b, .and d a b, .or d a b,
   .xor d a b, .shl d a b, .shr d a b, .sra d a b, .min u d a b, .max u d a b, .slt u d a b, .sel d a b c,
   .sadd d a b sh, .clz w d a, .popc w d a, .bext w d a b, .bins d a b, .addi d a imm, .muli d a imm, .andi d a imm,
   .ori d a imm, .xori d a imm, .shli d a amt, .shri d a amt, .srai d a amt, .slti d a imm, .mini d a imm,
   .maxi d a imm, .li20 d k, .lih d k, .mfs d n]

/-- The frame of the scalar instructions: when one goes on, its one write is still on its way, every register,
system register and byte of memory reads as before, and so does everything of every other unit. -/
def Obligations.ScalarFrame : Prop :=
  ∀ (s t : State) (d a b c : Reg) (u w : Bool) (sh : BitVec 2) (imm : BitVec 15) (amt : BitVec 6) (k : BitVec 20)
    (n : BitVec 12), ∀ i ∈ Claim.scalarForms d a b c u w sh imm amt k n,
    exec i s = .next t → t.cur.iss = s.cur.iss → s.cur.iss ≠ .fault →
    Claim.elsewhere s t ∧ Claim.sameRegs s.ctx t.ctx ∧ Claim.sameTile s.me t.me
    ∧ (t.ctx.pend = s.ctx.pend ∨ ∃ p, t.ctx.pend = s.ctx.pend ++ [p] ∧ p.dest = .s d.toNat)

/-! ### Slot A: branches, loops, traps and system registers (R217, R227-R229, R243-R250, R256) -/

/-- The context goes on at `pc`, the first bundle issuing no earlier than `n`, with no register written. -/
def Sys2Proof.Claim.goesTo (i : Instr) (s : State) (pc : W64) (n : Nat) : Prop :=
  ∃ t, exec i s = .next t ∧ t.ctx.pc = pc ∧ t.ctx.nextIssue = n ∧ t.ctx.pend = s.ctx.pend
    ∧ Claim.elsewhere s t ∧ Claim.sameRegs s.ctx t.ctx ∧ Claim.sameTile s.me t.me

/-- A task's bundle takes no effect and the control-class fault `cause` is queued with its PC. -/
def Sys2Proof.Claim.faults (i : Instr) (s : State) (cause : Nat) : Prop :=
  ∃ (t : State) (f : CFault), exec i s = .next t ∧ t.cur.iss = .fault ∧ t.me.shadow.queue = s.me.shadow.queue ++ [f]
    ∧ f.fr.cause = cause ∧ f.fr.pos = s.cur.bpc.toNat ∧ t.ctx = s.ctx
    ∧ Claim.elsewhere s t

/-- The acting context is a task's, and its shadow context can queue one more fault (R382). -/
def Sys2Proof.Claim.canFault (s : State) : Prop := s.cur.shadow = false ∧ s.me.shadow.queue.length < 8

/-- Branches: a bundle without a branch, and br when its test fails, go on at the successor; a taken branch goes to
its target and issues in the third tile cycle; a target R217 forbids raises BRANCH_TARGET; jal links the successor. -/
def Sys2Proof.Claim.branchesAndJumps : Prop :=
  ∀ (s : State) (a : Reg) (c : Cond) (off : BitVec 17), Claim.readable s a →
    let x := (Claim.val s a).toInt
    let test : Bool := match c with
      | .eq => decide (x = 0)
      | .ne => decide (x ≠ 0)
      | .lt => decide (x < 0)
      | .ge => decide (x ≥ 0)
      | .gt => decide (x > 0)
      | .le => decide (x ≤ 0)
    let n : Int := 3 * (s.cur.bpc.toNat / 32 : Nat) + (s.cur.bpc.toNat % 4 : Nat) + off.toInt
    let inside : Prop := 0 ≤ n ∧ n < 3 * 2 ^ 47
    let target : W64 := BitVec.ofNat 64 (n.toNat / 3 * 32 + n.toNat % 3)
    Claim.goesTo .nopA s (pcNext s.cur.bpc) s.ctx.nextIssue
    ∧ (test = false → Claim.goesTo (.br a c off) s (pcNext s.cur.bpc) s.ctx.nextIssue)
    ∧ (test = true → inside → Claim.goesTo (.br a c off) s target (s.now + 3))
    ∧ (inside → Claim.goesTo (.jmp off) s target (s.now + 3))
    ∧ (inside → ∃ (t : State) (p : Pend), exec (.jal a off) s = .next t ∧ t.ctx.pc = target ∧ t.ctx.nextIssue = s.now + 3
        ∧ t.ctx.pend = s.ctx.pend ++ [p] ∧ p.dest = .s a.toNat ∧ p.val = (pcNext s.cur.bpc).toNat
        ∧ p.bound = s.now + 1 ∧ Claim.elsewhere s t ∧ Claim.sameRegs s.ctx t.ctx ∧ Claim.sameTile s.me t.me)
    ∧ (¬ inside → Claim.canFault s → Claim.faults (.jmp off) s 0x03 ∧ Claim.faults (.jal a off) s 0x03
        ∧ (test = true → Claim.faults (.br a c off) s 0x03))

/-- ret goes to the value of its register where R217 allows it, and raises BRANCH_TARGET where bits [63:52] or
[4:2] are not zero or bits [1:0] are 3. -/
def Sys2Proof.Claim.returnChecksItsTarget : Prop :=
  ∀ (s : State) (a : Reg), Claim.readable s a →
    let pc := Claim.val s a
    let bad : Prop := pc.toNat / 2 ^ 52 ≠ 0 ∨ pc.toNat / 4 % 8 ≠ 0 ∨ pc.toNat % 4 = 3
    (¬ bad → Claim.goesTo (.ret a) s pc (s.now + 3)) ∧ (bad → Claim.canFault s → Claim.faults (.ret a) s 0x03)

/-- loop: with a count other than 0 and room on the stack it pushes a level whose body is its successor; with a
count of 0 it pushes nothing and goes past the body; on a full stack it raises LOOP_STACK whatever the count. -/
def Sys2Proof.Claim.loopPushesOrSkips : Prop :=
  ∀ (s : State) (d a : Reg) (len : BitVec 15), Claim.readable s a → Claim.readable s d →
    let count := Claim.val s a
    let past := 3 * (s.cur.bpc.toNat / 32) + s.cur.bpc.toNat % 4 + len.toNat + 1
    (s.ctx.loops.length < 6 → count ≠ 0 → ∃ t, exec (.loop d a len) s = .next t
        ∧ t.ctx.loops = { body := pcNext s.cur.bpc, rem := count, idx := 0, stride := Claim.val s d } :: s.ctx.loops
        ∧ t.ctx.pc = pcNext s.cur.bpc ∧ t.ctx.pend = s.ctx.pend ∧ t.ctx.s = s.ctx.s ∧ t.ctx.v = s.ctx.v
        ∧ t.ctx.m = s.ctx.m ∧ Claim.elsewhere s t ∧ Claim.sameTile s.me t.me)
    ∧ (s.ctx.loops.length < 6 → count = 0 → past < 3 * 2 ^ 47 →
        Claim.goesTo (.loop d a len) s (BitVec.ofNat 64 (past / 3 * 32 + past % 3)) (s.now + 3))
    ∧ (6 ≤ s.ctx.loops.length → Claim.canFault s → Claim.faults (.loop d a len) s 0x01)

/-- lbrk pops the innermost level and goes on at its successor, emptying the loop buffer when it holds that level's
body; on an empty stack it raises LOOP_STACK. -/
def Sys2Proof.Claim.loopBreakPops : Prop :=
  ∀ (s : State),
    (∀ lv rest, s.ctx.loops = lv :: rest → ∃ t, exec .lbrk s = .next t ∧ t.ctx.loops = rest
        ∧ t.ctx.pc = pcNext s.cur.bpc ∧ t.ctx.pend = s.ctx.pend ∧ t.ctx.s = s.ctx.s ∧ t.ctx.v = s.ctx.v
        ∧ t.ctx.m = s.ctx.m ∧ (∀ l, s.ctx.loopBuf = some l → l.body = lv.body → t.ctx.loopBuf = none)
        ∧ Claim.elsewhere s t ∧ Claim.sameTile s.me t.me)
    ∧ (s.ctx.loops = [] → Claim.canFault s → Claim.faults .lbrk s 0x01)

/-- trap: the task stops with TRAP, the record holding the bundle's PC and imm20, and stands at the successor. -/
def Obligations.TrapRecordsItsCode : Prop :=
  ∀ (s : State) (code : BitVec 20), Claim.canFault s → ∃ (t : State) (f : CFault), exec (.trap code) s = .next t
    ∧ t.me.shadow.queue = s.me.shadow.queue ++ [f] ∧ f.fr.cause = 0x04 ∧ f.fr.pos = s.cur.bpc.toNat
    ∧ f.fr.detail = code.toNat ∧ t.ctx.pc = pcNext s.cur.bpc ∧ t.cur.iss = s.cur.iss
    ∧ (s.me.shadow.queue = [] → t.me.shadow.running = true ∧ t.me.shadow.ctx.pc = s.me.shadow.stubpc
        ∧ t.me.shadow.fact = 0 ∧ t.me.shadow.fval = 0)
    ∧ t.ctx.pend = s.ctx.pend ∧ Claim.sameRegs s.ctx t.ctx ∧ Claim.elsewhere s t

/-- The system registers of R236 that a task reads as one value, with that value: its tile's number beside the
architecture level 3, what its dispatch and load set, its modes and seed, the loop indexes and depth, the thresholds,
and the counters as they stand in the tile cycle of the mfs. -/
def Sys2Proof.Claim.sysValues (s : State) : List (Nat × W64) :=
  let y := s.me.sys
  let idx (k : Nat) : W64 := ((s.ctx.loops[k]?).map (·.idx)).getD 0
  let th (k : Nat) : W64 := (tget 0 y.th k).setWidth 64
  [(0x000, BitVec.ofNat 64 (s.cur.unit + 0x300)), (0x002, y.tinst), (0x003, y.tnode), (0x008, y.vmode), (0x009, y.vseed),
   (0x010, idx 0), (0x011, idx 1), (0x012, idx 2), (0x013, idx 3), (0x014, idx 4), (0x015, idx 5),
   (0x016, BitVec.ofNat 64 s.ctx.loops.length),
   (0x018, th 0), (0x019, th 1), (0x01A, th 2), (0x01B, th 3), (0x01C, th 4), (0x01D, th 5), (0x01E, th 6), (0x01F, th 7),
   (0x020, y.tcyc), (0x021, y.hcyc), (0x022, y.bfetch), (0x023, y.bissue),
   (0x028, y.scopeA), (0x029, y.scopeB), (0x02A, y.scopeC)]

/-- Every number R236 lists for a task. -/
def Sys2Proof.Claim.sysNumbers : List Nat :=
  [0x000, 0x002, 0x003, 0x008, 0x009, 0x00A, 0x010, 0x011, 0x012, 0x013, 0x014, 0x015, 0x016, 0x018, 0x019, 0x01A, 0x01B,
   0x01C, 0x01D, 0x01E, 0x01F, 0x020, 0x021, 0x022, 0x023, 0x024, 0x028, 0x029, 0x02A]

/-- mfs of a task writes the register's value to d two tile cycles later: every register of R236. TAGS has bit k set
when qk is busy. VFLAGS reads as it stands where no result is on its way; while one is, its flags may already stand in
the value read (log entry 34). Any other number raises SYSREG. -/
def Sys2Proof.Claim.taskReadsRegisters : Prop :=
  ∀ (s : State) (d : Reg) (n : BitVec 12), s.cur.shadow = false → s.cur.unit < 64 →
    let R (v : W64) : Prop := Claim.writes (.mfs d n) s (.s d.toNat) v.toNat 2
    (∀ v, (n.toNat, v) ∈ Claim.sysValues s → R v)
    ∧ (n = 0x024 → ∃ v : W64, R v ∧ ∀ k, v.toNat.testBit k = (decide (1 ≤ k ∧ k ≤ 7) && s.ctx.busy.contains k))
    ∧ (n = 0x00A → (∃ v : W64, R v) ∧ (s.me.ctx.pend = [] → R s.me.sys.vflags))
    ∧ (n.toNat ∉ Claim.sysNumbers → Claim.canFault s → Claim.faults (.mfs d n) s 0x02)

/-- A bundle of the shadow context takes no effect and SHADOW_FAULT stops the context; the pending record, if there
is one, is escalated (R383). -/
def Sys2Proof.Claim.shadowStops (i : Instr) (s : State) : Prop :=
  ∃ t, exec i s = .next t ∧ t.cur.iss = .fault ∧ t.me.shadow.stopped = true ∧ t.ctx = s.ctx ∧ t.me.ctx = s.me.ctx
    ∧ (s.me.shadow.queue ≠ [] → t.me.shadow.esc = true) ∧ (∀ a, t.byte a = s.byte a)

/-- mfs of the shadow context reads the record being serviced, FACT, FVAL, FPEND, TRSEL and the task register TRSEL
names (s0 as 0; a register with a write on its way reads an undefined value); any other number stops the context. -/
def Sys2Proof.Claim.shadowReadsRegisters : Prop :=
  ∀ (s : State) (d : Reg) (n : BitVec 12), s.cur.shadow = true →
    let h := s.me.shadow
    let sel := h.trsel.toNat % 32
    let R (v : W64) : Prop := Claim.writes (.mfs d n) s (.s d.toNat) v.toNat 2
    (∀ f rest, h.queue = f :: rest → 0x040 ≤ n.toNat → n.toNat < 0x048 → R (f.fr.word (n.toNat - 0x040)))
    ∧ (h.queue = [] → 0x040 ≤ n.toNat → n.toNat < 0x048 → R 0)
    ∧ (n = 0x048 → R h.fact) ∧ (n = 0x049 → R h.fval) ∧ (n = 0x04A → R (BitVec.ofNat 64 (h.queue.length - 1)))
    ∧ (n = 0x04B → R h.trsel)
    ∧ (n = 0x04C → (∃ v : W64, R v) ∧ (sel = 0 → R 0)
        ∧ (pendingTo s.me.ctx (.s sel) = false → R (s.me.ctx.getS sel)))
    ∧ (n.toNat < 0x040 ∨ 0x04C < n.toNat → Claim.shadowStops (.mfs d n) s)

/-- The values a task may write to a register of R236: no reserved bit and no reserved value set. -/
def Sys2Proof.Claim.admits (n v : Nat) : Prop :=
  (n = 0x008 ∧ v < 256 ∧ v.testBit 5 = false ∧ v.testBit 3 = false ∧ v / 64 ≠ 3)
  ∨ (n = 0x009 ∧ v < 2 ^ 32) ∨ (n = 0x00A ∧ v < 2 ^ 32 ∧ v / 2 ^ 5 % 2 ^ 11 = 0) ∨ (0x018 ≤ n ∧ n ≤ 0x01F ∧ v < 2 ^ 32)

/-- The values the shadow context may write to its registers (R383). -/
def Sys2Proof.Claim.shadowAdmits (n v : Nat) : Prop :=
  (n = 0x048 ∧ v < 3) ∨ (n = 0x049 ∧ v < 2 ^ 32) ∨ (n = 0x04B ∧ v < 32) ∨ n = 0x04C

/-- mts: the register's new value is on its way, for bundles two tile cycles later (cycles, in the shadow context);
no other register and no memory changes. A value the register does not admit, a register that is read only and a
number not listed raise SYSREG in a task, and stop the shadow context. -/
def Sys2Proof.Claim.systemRegisterWrites : Prop :=
  ∀ (s : State) (a : Reg) (n : BitVec 12), Claim.readable s a →
    let v := Claim.val s a
    let sent : Prop := ∃ t, exec (.mts a n) s = .next t
      ∧ t.ctx.mts = s.ctx.mts ++ [{ num := n.toNat, val := v, at' := s.now + 2 }]
      ∧ t.ctx.pc = pcNext s.cur.bpc ∧ t.ctx.pend = s.ctx.pend ∧ t.ctx.s = s.ctx.s ∧ t.ctx.v = s.ctx.v
      ∧ t.ctx.m = s.ctx.m ∧ Claim.elsewhere s t ∧ Claim.sameTile s.me t.me
    (s.cur.shadow = false → (Claim.admits n.toNat v.toNat → sent)
      ∧ (¬ Claim.admits n.toNat v.toNat → Claim.canFault s → Claim.faults (.mts a n) s 0x02))
    ∧ (s.cur.shadow = true → (Claim.shadowAdmits n.toNat v.toNat → sent)
      ∧ (¬ Claim.shadowAdmits n.toNat v.toNat → Claim.shadowStops (.mts a n) s))

/-- nopA, br, jmp, jal and ret: where each goes, and when its target raises BRANCH_TARGET. -/
def Obligations.BranchesJumpsAndReturns : Prop := Claim.branchesAndJumps ∧ Claim.returnChecksItsTarget

/-- loop and lbrk: a level pushed, a body skipped, a level popped, and LOOP_STACK on a full or an empty stack. -/
def Obligations.LoopInstructions : Prop := Claim.loopPushesOrSkips ∧ Claim.loopBreakPops

/-- mfs and mts complete for every register and value R236, or R383 in the shadow context, allows: the value read
lands in d, the value written is on its way. Every other number or value raises SYSREG, or stops the shadow context. -/
def Obligations.SystemRegisterInstructions : Prop :=
  Claim.taskReadsRegisters ∧ Claim.shadowReadsRegisters ∧ Claim.systemRegisterWrites

/-! ### Slot A: the side vector unit and the masks (R257-R271), and landing (R221, R222, R256, R259) -/

/-- No earlier write to a vector register, or to a mask, is on its way (R221). -/
def Sys2Proof.Claim.readableV (s : State) (r : Reg) : Prop := pendingTo s.ctx (.v r.toNat) = false
def Sys2Proof.Claim.readableM (s : State) (r : MReg) : Prop := pendingTo s.ctx (.m r.toNat) = false
/-- Lane `l` of a vector register, and bit `l` of a mask; m0 reads all ones. -/
def Sys2Proof.Claim.lane (s : State) (r : Reg) (l : Nat) : Nat := (s.ctx.getV r.toNat).toNat / 2 ^ (32 * l) % 2 ^ 32
def Sys2Proof.Claim.maskBit (s : State) (r : MReg) (l : Nat) : Bool := (s.ctx.getM r.toNat).toNat.testBit l

/-- The instruction of a task answers a next state with one write to vector register `d` on its way, whose lane `l`
is `f l` where `sel l`, and d's lane as it stood elsewhere; memory and every other register read as before. -/
def Sys2Proof.Claim.writesLanes (i : Instr) (s : State) (d : Reg) (L : Nat) (sel : Nat → Bool) (f : Nat → Nat) : Prop :=
  ∃ (t : State) (p : Pend), exec i s = .next t ∧ t.ctx.pend = s.ctx.pend ++ [p] ∧ p.dest = .v d.toNat
    ∧ p.bound = s.now + L ∧ t.ctx.pc = pcNext s.cur.bpc
    ∧ (∀ l, l < 32 → p.val / 2 ^ (32 * l) % 2 ^ 32 = if sel l then f l % 2 ^ 32 else Claim.lane s d l)
    ∧ Claim.elsewhere s t ∧ Claim.sameRegs s.ctx t.ctx ∧ t.me.sys.vmode = s.me.sys.vmode
    ∧ t.me.sys.vflags = s.me.sys.vflags ∧ t.me.arr = s.me.arr

/-- A lane as a signed 32-bit integer, and an integer as a lane. -/
def Sys2Proof.Claim.signed (x : Nat) : Int := if x % 2 ^ 32 < 2 ^ 31 then (x % 2 ^ 32 : Nat) else (x % 2 ^ 32 : Nat) - 2 ^ 32
def Sys2Proof.Claim.wrap (i : Int) : Nat := (i % 2 ^ 32).toNat

/-- Integer, bitwise, selecting and moving instructions, and vmin, vmax, vabs and vneg of every type: each lane a task's
mask selects takes its result, the others keep d's, under every VMODE (R257, R262, R264, R267, R269, R270). Integer
results wrap, or clamp under SAT. Of f32 the smaller or larger lane is taken with −0 below +0, a subnormal one under
flush as the zero of its sign, and a NaN gives the canonical NaN; that vabs and vneg do not flush is log entry 37. -/
def Obligations.VectorIntegerAndMoveResults : Prop :=
  ∀ (s : State) (d a b r : Reg) (mk : MReg) (u : Bool) (ln : BitVec 5), s.cur.shadow = false →
    Claim.readableV s d → Claim.readableV s a → Claim.readableV s b → Claim.readableM s mk → Claim.readable s r →
    let m := vmodeOf s.me.sys.vmode
    let A := Claim.lane s a
    let B := Claim.lane s b
    let sg := Claim.signed
    let rd (x : Nat) : Int := if u then x else sg x
    let fit (us : Bool) (z : Int) : Nat := Claim.wrap (if m.sat then
      (if us then max 0 (min (2 ^ 32 - 1) z) else max (-2 ^ 31) (min (2 ^ 31 - 1) z)) else z)
    let F (x : Nat) := decodeSv 1 m.flush x
    let kept (x : Nat) : Nat := if m.flush = true ∧ isSubnormal 1 x = true then x / 2 ^ 31 * 2 ^ 31 else x
    let nan (x y : Nat) : Bool := (F x).isNaN || (F y).isNaN
    let below (x y : Nat) : Bool := Val.cmp (F x) (F y) == .lt
      || (Val.cmp (F x) (F y) == .eq && (decide (2 ^ 31 ≤ x) || decide (y < 2 ^ 31)))
    let canon : Nat := 0x7FC00000
    let R (i : Instr) (L : Nat) (f : Nat → Nat) : Prop := Claim.writesLanes i s d L (Claim.maskBit s mk) f
    R (.viadd u d a b mk) 4 (fun l => fit u (rd (A l) + rd (B l)))
    ∧ R (.vimul u d a b mk) 4 (fun l => fit u (rd (A l) * rd (B l)))
    ∧ R (.vand d a b mk) 2 (fun l => A l &&& B l) ∧ R (.vor d a b mk) 2 (fun l => A l ||| B l)
    ∧ R (.vxor d a b mk) 2 (fun l => A l ^^^ B l)
    ∧ R (.vmin .i32 d a b mk) 2 (fun l => if sg (A l) ≤ sg (B l) then A l else B l)
    ∧ R (.vmin .n32 d a b mk) 2 (fun l => min (A l) (B l))
    ∧ R (.vmax .i32 d a b mk) 2 (fun l => if sg (A l) ≤ sg (B l) then B l else A l)
    ∧ R (.vmax .n32 d a b mk) 2 (fun l => max (A l) (B l))
    ∧ R (.vmin .f32 d a b mk) 2 (fun l => if nan (A l) (B l) then canon else if below (A l) (B l) then kept (A l) else kept (B l))
    ∧ R (.vmax .f32 d a b mk) 2 (fun l => if nan (A l) (B l) then canon else if below (A l) (B l) then kept (B l) else kept (A l))
    ∧ R (.vabs .i32 d a mk) 2 (fun l => fit false (sg (A l)).natAbs)
    ∧ R (.vneg .i32 d a mk) 2 (fun l => fit false (-(sg (A l))))
    ∧ R (.vabs .f32 d a mk) 2 (fun l => if (decodeVal 1 (A l)).isNaN then canon else A l % 2 ^ 31)
    ∧ R (.vneg .f32 d a mk) 2 (fun l => if (decodeVal 1 (A l)).isNaN then canon else A l ^^^ 2 ^ 31)
    ∧ R (.vshuf d a b mk) 2 (fun l => if B l < 32 then A (B l) else 0)
    ∧ R (.vbcst (.lane d a ln mk)) 2 (fun _ => A ln.toNat)
    ∧ R (.vbcst (.scalar d r mk)) 2 (fun _ => (Claim.val s r).toNat)
    ∧ R (.vmov (.vv d a mk)) 2 A
    ∧ Claim.writesLanes (.vmov (.vs d r ln)) s d 2 (fun l => l == ln.toNat) (fun _ => (Claim.val s r).toNat)
    ∧ Claim.writesLanes (.vsel d a b mk) s d 2 (fun _ => true) (fun l => if Claim.maskBit s mk l then A l else B l)
    ∧ Claim.writes (.vmov (.sv d a ln)) s (.s d.toNat) (A ln.toNat) 2

/-- Floating-point instructions form the exact result of each lane and round it once under VMODE, with the lane's own
draw under stochastic rounding. vcvt of equal formats copies; of an integer to a narrower one it keeps the low bits, or
clamps under SAT; every other conversion rounds or clamps once, drawing when the source or the destination is a
floating-point format or the destination is e8m0 (R258, R261, R263, R265; the draw of an integer into e8m0 is the
model's choice, log entry 78). ROUND and the exact operations are the model's. -/
def Obligations.VectorFloatResults : Prop :=
  ∀ (s : State) (d a b : Reg) (mk : MReg) (src dst : Fmt), s.cur.shadow = false →
    Claim.readableV s d → Claim.readableV s a → Claim.readableV s b → Claim.readableM s mk →
    let m := vmodeOf s.me.sys.vmode
    let A (l : Nat) := decodeSv 1 m.flush (Claim.lane s a l)
    let B (l : Nat) := decodeSv 1 m.flush (Claim.lane s b l)
    let D (l : Nat) := decodeSv 1 m.flush (Claim.lane s d l)
    let mode (l : Nat) := m.rmode (lfsrStep (s.me.sys.gens.getD l 1))
    let one (l : Nat) (v : Val) : Nat := (roundTo 1 (mode l) m.sat m.flush v).code
    let down (l : Nat) := (mode l).down
    let R (i : Instr) (L : Nat) (f : Nat → Nat) : Prop := Claim.writesLanes i s d L (Claim.maskBit s mk) f
    R (.vadd d a b mk) 4 (fun l => one l (Val.add (down l) (A l) (B l)))
    ∧ R (.vsub d a b mk) 4 (fun l => one l (Val.add (down l) (A l) (B l).negate))
    ∧ R (.vmul d a b mk) 4 (fun l => one l (Val.mul (A l) (B l)))
    ∧ R (.vfma d a b mk) 4 (fun l => one l (Val.add (down l) (Val.mul (A l) (B l)) (D l)))
    ∧ R (.vrcp d a mk) 8 (fun l => one l (Val.div (.num false 1 0 false) (A l)))
    ∧ R (.vrsq d a mk) 8 (fun l => one l (A l).rsqrt)
    ∧ R (.vexp2 d a mk) 8 (fun l => one l (A l).exp2) ∧ R (.vlog2 d a mk) 8 (fun l => one l (A l).log2)
    ∧ (src = dst → R (.vcvt dst src d a mk) 4 (Claim.lane s a))
    ∧ (src ≠ dst → fmtFloat dst.toNat = true ∨ dst.toNat = 7 ∨ fmtFloat src.toNat = true → R (.vcvt dst src d a mk) 4 fun l =>
        (roundTo dst.toNat (mode l) m.sat m.flush (decodeSv src.toNat m.flush (Claim.lane s a l))).code)
    ∧ (src ≠ dst → fmtInt dst.toNat = true → fmtFloat src.toNat = false →
        ¬ (fmtInt src.toNat = true ∧ fmtWidth dst.toNat < fmtWidth src.toNat) → R (.vcvt dst src d a mk) 4 fun l =>
        (roundTo dst.toNat { rnd := m.rnd } m.sat m.flush (decodeSv src.toNat m.flush (Claim.lane s a l))).code)
    ∧ (fmtInt dst.toNat = true → fmtInt src.toNat = true → fmtWidth dst.toNat < fmtWidth src.toNat →
        R (.vcvt dst src d a mk) 4 fun l =>
          let x := Claim.lane s a l % 2 ^ fmtWidth src.toNat
          let v : Int := if fmtSigned src.toNat ∧ 2 ^ (fmtWidth src.toNat - 1) ≤ x then (x : Int) - 2 ^ fmtWidth src.toNat else x
          let w := fmtWidth dst.toNat
          let lo : Int := if fmtSigned dst.toNat then -2 ^ (w - 1) else 0
          let hi : Int := if fmtSigned dst.toNat then 2 ^ (w - 1) - 1 else 2 ^ w - 1
          ((if m.sat then max lo (min hi v) else v) % 2 ^ w).toNat)

/-- The tree of R268 over 2^k lanes: neighbours first. -/
def Sys2Proof.Claim.tree (f : Nat → Nat → Nat) : Nat → (Nat → Nat) → Nat
  | 0, x => x 0
  | k + 1, x => f (Claim.tree f k x) (Claim.tree f k fun l => x (l + 2 ^ k))

/-- The same tree with the level and the lane of each of its steps: `f k l` makes x[l] at level k (R268). -/
def Sys2Proof.Claim.treeAt (f : Nat → Nat → Nat → Nat → Nat) (x : Nat → Nat) : Nat → Nat → Nat
  | 0, l => x l
  | k + 1, l => f k l (Claim.treeAt f x k l) (Claim.treeAt f x k (l + 2 ^ k))

/-- The answer of a comparison of two codes of a type under a test (R266): signed or unsigned for integers; for f32 with
−0 equal to +0, a NaN making ne and uo true and every other test false. -/
def Sys2Proof.Claim.compares (flush : Bool) (ty : VTy) (c : VCond) (x y : Nat) : Bool :=
  match ty with
  | .i32 => icmpTest c.code (Claim.signed x) (Claim.signed y)
  | .n32 => icmpTest c.code x y
  | .f32 =>
    let X := decodeSv 1 flush x
    let Y := decodeSv 1 flush y
    if X.isNaN || Y.isNaN then decide (c = .ne ∨ c = .uo)
    else match c with
      | .eq => decide (Val.cmp X Y = .eq)
      | .ne => decide (Val.cmp X Y ≠ .eq)
      | .lt => decide (Val.cmp X Y = .lt)
      | .le => decide (Val.cmp X Y ≠ .gt)
      | .gt => decide (Val.cmp X Y = .gt)
      | .ge => decide (Val.cmp X Y ≠ .lt)
      | .uo => false

/-- vcmp of each type and test R266 allows writes the answer to each bit of mask d that mk selects and keeps the
others, two tile cycles later. -/
def Sys2Proof.Claim.comparisonsWriteMasks : Prop :=
  ∀ (s : State) (ty : VTy) (c : VCond) (e mk : MReg) (a b : Reg), s.cur.shadow = false → Claim.readableV s a →
    Claim.readableV s b → Claim.readableM s e → Claim.readableM s mk → (c = .uo → ty = .f32) →
    ∃ (t : State) (p : Pend), exec (.vcmp ty c e a b mk) s = .next t
      ∧ t.ctx.pend = s.ctx.pend ++ [p] ∧ p.dest = .m e.toNat ∧ p.bound = s.now + 2 ∧ t.ctx.pc = pcNext s.cur.bpc
      ∧ (∀ l, l < 32 → p.val.testBit l = if Claim.maskBit s mk l
          then Claim.compares (s.me.sys.vmode.toNat / 64 % 4 == 1) ty c (Claim.lane s a l) (Claim.lane s b l)
          else Claim.maskBit s e l)
      ∧ Claim.elsewhere s t ∧ Claim.sameRegs s.ctx t.ctx ∧ Claim.sameTile s.me t.me

/-- mand, mor, mnot and mpop work on whole masks, m0 reading as all ones. -/
def Sys2Proof.Claim.maskOperations : Prop :=
  ∀ (s : State) (e x y : MReg) (d : Reg), s.cur.shadow = false → Claim.readableM s x → Claim.readableM s y →
    let X := (s.ctx.getM x.toNat).toNat
    let Y := (s.ctx.getM y.toNat).toNat
    Claim.writes (.mand e x y) s (.m e.toNat) (X &&& Y) 1 ∧ Claim.writes (.mor e x y) s (.m e.toNat) (X ||| Y) 1
    ∧ Claim.writes (.mnot e x) s (.m e.toNat) (2 ^ 32 - 1 - X) 1
    ∧ Claim.writes (.mpop d x) s (.s d.toNat) ((List.range 32).filter fun l => X.testBit l).length 1

/-- vred of every type and operation writes one value to lane 0 of d and 0 to the others, six tile cycles later. Where
no stochastic rounding applies the value is that of the fixed tree over the lanes mk selects and the identity in the
others: an integer sum modulo 2^32 or clamped at each add under SAT, an integer max or min, an f32 max or min by R262,
an f32 sum rounded at each add, and +0 (but for rounding toward −∞) where every lane of it is zero or absent. Under
stochastic rounding each add of the f32 sum draws from the generator of the lane it writes, lane l once for each level k
at which l mod 2^(k+1) = 0. ROUND and the two-operand steps are the model's. -/
def Sys2Proof.Claim.reductionsCombineLanes : Prop :=
  ∀ (s : State) (ty : VTy) (op : RedOp) (d a : Reg) (mk : MReg), s.cur.shadow = false → Claim.readableV s a →
    Claim.readableM s mk →
    let m := vmodeOf s.me.sys.vmode
    let none' : Nat := match ty, op with
      | _, .sum => 0
      | .f32, .max => 0xFF800000
      | .f32, .min => 0x7F800000
      | .i32, .max => 0x80000000
      | .i32, .min => 0x7FFFFFFF
      | .n32, .max => 0
      | .n32, .min => 0xFFFFFFFF
    let x (l : Nat) : Nat := if Claim.maskBit s mk l then Claim.lane s a l else none'
    let clamp (lo hi v : Int) : Nat := Claim.wrap (if m.sat then max lo (min hi v) else v)
    let one (p q : Nat) : Nat := match ty, op with
      | .i32, .sum => clamp (-2 ^ 31) (2 ^ 31 - 1) (Claim.signed p + Claim.signed q)
      | .n32, .sum => clamp 0 (2 ^ 32 - 1) ((p : Int) + q)
      | .i32, .max => if Claim.signed p ≤ Claim.signed q then q % 2 ^ 32 else p % 2 ^ 32
      | .i32, .min => if Claim.signed p ≤ Claim.signed q then p % 2 ^ 32 else q % 2 ^ 32
      | .n32, .max => if p % 2 ^ 32 ≤ q % 2 ^ 32 then q % 2 ^ 32 else p % 2 ^ 32
      | .n32, .min => if p % 2 ^ 32 ≤ q % 2 ^ 32 then p % 2 ^ 32 else q % 2 ^ 32
      | .f32, .max => (fminmax 1 m.flush true p q).code
      | .f32, .min => (fminmax 1 m.flush false p q).code
      | .f32, .sum => (roundTo 1 { rnd := m.rnd } m.sat m.flush
          (Val.add (decide (m.rnd = 2)) (decodeSv 1 m.flush p) (decodeSv 1 m.flush q))).code
    let zero : Prop := ty = .f32 ∧ op = .sum ∧ m.rnd ≠ 2
      ∧ ∀ l, l < 32 → Claim.maskBit s mk l = true → (decodeSv 1 m.flush (Claim.lane s a l)).isZero = true
    ∃ (t : State) (p : Pend), exec (.vred ty op d a mk) s = .next t ∧ t.ctx.pend = s.ctx.pend ++ [p]
      ∧ p.dest = .v d.toNat ∧ p.bound = s.now + 6 ∧ t.ctx.pc = pcNext s.cur.bpc ∧ p.val < 2 ^ 32
      ∧ (ty ≠ .f32 ∨ op ≠ .sum ∨ m.sr = false →
          (zero → p.val = 0) ∧ (¬ zero → p.val = Claim.tree one 5 x % 2 ^ 32) ∧ t.me.sys.gens = s.me.sys.gens)
      ∧ (ty = .f32 → op = .sum → m.sr = true → s.me.sys.gens.length = 32 →
          let draw (k l : Nat) := iterate (k + 1) (s.me.sys.gens.getD l 1)
          let add (k l p q : Nat) : Nat := (roundTo 1 { rnd := m.rnd, draw := some (draw k l) } m.sat m.flush
            (Val.add false (decodeSv 1 m.flush p) (decodeSv 1 m.flush q))).code
          let zeros : Prop := ∀ l, l < 32 → Claim.maskBit s mk l = true → (decodeSv 1 m.flush (Claim.lane s a l)).isZero = true
          (zeros → p.val = 0) ∧ (¬ zeros → p.val = Claim.treeAt add x 5 0 % 2 ^ 32)
          ∧ ∀ l, l < 32 → t.me.sys.gens.getD l 1
              = iterate ((List.range 5).filter fun k => l % 2 ^ (k + 1) == 0).length (s.me.sys.gens.getD l 1))
      ∧ Claim.elsewhere s t ∧ Claim.sameRegs s.ctx t.ctx ∧ t.me.sys.vmode = s.me.sys.vmode
      ∧ t.me.sys.vflags = s.me.sys.vflags

/-- vcmp of every type, vred of every type and operation, and mand, mor, mnot and mpop (R266, R268, R271). -/
def Obligations.MaskAndReductionResults : Prop :=
  Claim.comparisonsWriteMasks ∧ Claim.maskOperations ∧ Claim.reductionsCombineLanes

/-- What an instruction's selected lanes meet: its flags are those of the lanes its mask selects, its count of saturations
theirs; under SV = 2 it traps where a selected lane meets a condition of R49, with the first condition of the table that
any meets, in a mask of every lane that meets one; under another SV it never traps (R50, R258, R259). -/
def Sys2Proof.Claim.meets (i : Instr) (s : State) (mk : MReg) (fl : Nat → Fl) : Prop :=
  let sel (l : Nat) : Bool := Claim.maskBit s mk l
  let any (f : Fl → Bool) : Bool := (List.range 32).any fun l => sel l && f (fl l)
  let sv := s.me.sys.vmode.toNat / 64 % 4
  ∃ (t : State) (p : Pend), exec i s = .next t ∧ t.ctx.pend = s.ctx.pend ++ [p]
    ∧ p.fl.iv = any (·.iv) ∧ p.fl.dz = any (·.dz) ∧ p.fl.ovf = any (·.ovf) ∧ p.fl.uf = any (·.uf)
    ∧ p.fl.sclamp = any (·.sclamp) ∧ p.fl.sat = ((List.range 32).map fun l => if sel l then (fl l).sat else 0).sum
    ∧ (sv ≠ 2 → p.trap = none)
    ∧ (sv = 2 → match p.trap with
      | none => ∀ l, l < 32 → sel l = true → (fl l).cause = none
      | some (c, lanes) => (∃ l, l < 32 ∧ sel l = true ∧ (fl l).cause = some c)
        ∧ (∀ l k, l < 32 → sel l = true → (fl l).cause = some k → c ≤ k)
        ∧ ∀ l, lanes.testBit l = (decide (l < 32) && sel l && (fl l).cause.isSome))

/-- The flags, saturations and trap records that side vector results bring with them at issue: those of ROUND for the
rounding instructions, IV of a NaN lane for vmin and vmax and, by the test, for vcmp; none of a NaN for vabs and vneg; a
saturation counted for each clamped integer lane. A lane that divides by zero, or takes the logarithm of zero, sets DZ
(R49, R50, R258, R259, R262, R263, R264, R266). ROUND is stated in its own right. -/
def Obligations.VectorFlagsAndTraps : Prop :=
  ∀ (s : State) (d a b : Reg) (e mk : MReg) (u : Bool) (src dst : Fmt) (cond : VCond), s.cur.shadow = false →
    Claim.readableV s d → Claim.readableV s a → Claim.readableV s b → Claim.readableM s mk → Claim.readableM s e →
    let m := vmodeOf s.me.sys.vmode
    let x := Claim.lane s a
    let y := Claim.lane s b
    let A (l : Nat) := decodeSv 1 m.flush (x l)
    let B (l : Nat) := decodeSv 1 m.flush (y l)
    let D (l : Nat) := decodeSv 1 m.flush (Claim.lane s d l)
    let mode (l : Nat) := m.rmode (lfsrStep (s.me.sys.gens.getD l 1))
    let one (l : Nat) (v : Val) : Fl := (roundTo 1 (mode l) m.sat m.flush v).fl
    let down (l : Nat) := (mode l).down
    let zero (l : Nat) (v : Val) : Fl := if (A l).isZero then { one l v with dz := true } else one l v
    let nan (l : Nat) : Bool := (A l).isNaN || (B l).isNaN
    let rd (z : Nat) : Int := if u then z else Claim.signed z
    let fits (us : Bool) (z : Int) : Fl := { sat := if m.sat = true ∧
      (if us then z < 0 ∨ 2 ^ 32 ≤ z else z < -2 ^ 31 ∨ 2 ^ 31 ≤ z) then 1 else 0 }
    let R (i : Instr) (g : Nat → Fl) : Prop := Claim.meets i s mk g
    R (.vadd d a b mk) (fun l => one l (Val.add (down l) (A l) (B l)))
    ∧ R (.vsub d a b mk) (fun l => one l (Val.add (down l) (A l) (B l).negate))
    ∧ R (.vmul d a b mk) (fun l => one l (Val.mul (A l) (B l)))
    ∧ R (.vfma d a b mk) (fun l => one l (Val.add (down l) (Val.mul (A l) (B l)) (D l)))
    ∧ R (.vrcp d a mk) (fun l => zero l (Val.div (.num false 1 0 false) (A l)))
    ∧ R (.vrsq d a mk) (fun l => zero l (A l).rsqrt)
    ∧ R (.vexp2 d a mk) (fun l => one l (A l).exp2) ∧ R (.vlog2 d a mk) (fun l => zero l (A l).log2)
    ∧ R (.vmin .f32 d a b mk) (fun l => if nan l then Fl.invalid else {})
    ∧ R (.vmax .f32 d a b mk) (fun l => if nan l then Fl.invalid else {})
    ∧ R (.vabs .f32 d a mk) (fun _ => {}) ∧ R (.vneg .f32 d a mk) (fun _ => {})
    ∧ R (.viadd u d a b mk) (fun l => fits u (rd (x l) + rd (y l))) ∧ R (.vimul u d a b mk) (fun l => fits u (rd (x l) * rd (y l)))
    ∧ R (.vabs .i32 d a mk) (fun l => fits false (Claim.signed (x l)).natAbs)
    ∧ R (.vneg .i32 d a mk) (fun l => fits false (-(Claim.signed (x l))))
    ∧ (src ≠ dst → fmtFloat dst.toNat = true ∨ dst.toNat = 7 ∨ fmtFloat src.toNat = true → R (.vcvt dst src d a mk) fun l =>
        (roundTo dst.toNat (mode l) m.sat m.flush (decodeSv src.toNat m.flush (x l))).fl)
    ∧ R (.vcmp .f32 cond e a b mk) (fun l =>
        { iv := nan l && decide (cond = .lt ∨ cond = .le ∨ cond = .gt ∨ cond = .ge), inv := nan l })

/-! ### ROUND (R37-R40, R44-R49) -/

/-- The number `m × 2^e`. -/
def Sys2Proof.Claim.mag (m : Nat) (e : Int) : Rat :=
  if 0 ≤ e then ((m * 2 ^ e.toNat : Nat) : Rat) else (m : Rat) / ((2 ^ (-e).toNat : Nat) : Rat)

/-- What the table of R37 gives the floating-point formats: code, width, mantissa bits, bias, code of the largest finite
value, canonical NaN (R39; of e2m1 the +0 that stands for it). -/
def Sys2Proof.Claim.floats : List (Nat × Nat × Nat × Int × Nat × Nat) :=
  [(1, 32, 23, 127, 0x7F7FFFFF, 0x7FC00000), (2, 16, 7, 127, 0x7F7F, 0x7FC0), (3, 16, 10, 15, 0x7BFF, 0x7E00),
   (4, 8, 3, 7, 0x7E, 0x7F), (5, 8, 2, 15, 0x7B, 0x7E), (6, 4, 1, 1, 7, 0)]
/-- The integer formats: code, width, smallest and largest value (R40). -/
def Sys2Proof.Claim.integers : List (Nat × Nat × Int × Int) :=
  [(8, 8, -128, 127), (9, 16, -32768, 32767), (10, 32, -2147483648, 2147483647), (11, 8, 0, 255), (12, 16, 0, 65535),
   (14, 32, 0, 4294967295)]

/-- The magnitude of code `c`, its exponent going on above the largest (R37, R44). -/
def Sys2Proof.Claim.codeMag (p : Nat) (bias : Int) (c : Nat) : Rat :=
  if c < 2 ^ p then Claim.mag c (1 - bias - p) else Claim.mag (2 ^ p + c % 2 ^ p) (c / 2 ^ p - bias - p)

/-- Of the neighbours `lo ≤ x < hi` of a magnitude the larger is taken: under RNE where it is nearer, or as near and the
smaller is odd; toward zero never; toward −∞ and +∞ by the sign; under SR where the draw is below the fraction of the gap
(R44, R47). -/
def Sys2Proof.Claim.takesLarger (r : RMode) (neg odd : Bool) (lo hi x : Rat) : Prop :=
  match r.draw with
  | some u => (u : Int) < ((x - lo) / (hi - lo) * 4294967296).floor
  | none => if r.rnd = 0 then hi - x < x - lo ∨ (hi - x = x - lo ∧ odd = true)
    else if r.rnd = 1 then False else if r.rnd = 2 then neg = true ∧ lo < x else neg = false ∧ lo < x

/-- ROUND of a number, an infinity and a NaN into each format: into a floating-point format one of the two neighbours of
its precision, or what the overflow table gives, a subnormal result flushed under sv = 1; into an integer format one of
the two integers about it, clamped to the range; into e8m0 one of the two powers of two about it (R44-R47, R49). -/
def Obligations.RoundingFollowsItsRules : Prop :=
  ∀ (r : RMode) (sat flush neg up : Bool) (m a : Nat) (e k : Int), r.rnd < 4 →
    let x := Claim.mag m e
    let v : Val := .num neg m e false
    (∀ row ∈ Claim.floats,
      let (f, w, p, bias, top, nan) := row
      let go := roundTo f r sat flush
      let sign : Nat := if neg then 2 ^ (w - 1) else 0
      let lo := Claim.codeMag p bias a
      let hi := Claim.codeMag p bias (a + 1)
      let c := if up then a + 1 else a
      let mode := match r.draw with
        | some _ => if up then 0 else 1
        | none => r.rnd
      let full : Prop := sat = true ∨ f = 6 ∨ mode = 1 ∨ (mode = 2 ∧ neg = false) ∨ (mode = 3 ∧ neg = true)
      (m = 0 → go v = { code := sign })
      ∧ (m ≠ 0 → lo ≤ x → x < hi → (up = true ↔ Claim.takesLarger r neg (a % 2 == 1) lo hi x) →
        (c ≤ top → ¬ (flush = true ∧ 0 < c ∧ c < 2 ^ p) → go v = { code := sign + c })
        ∧ (c ≤ top → flush = true → 0 < c → c < 2 ^ p → go v = { code := sign, fl := { uf := true } })
        ∧ (top < c → full → go v = { code := sign + top, fl := { ovf := true, sat := 1 } })
        ∧ (top < c → ¬ full → go v = { code := if f = 4 then nan else sign + top + 1, fl := { ovf := true } }))
      ∧ go (.inf neg) = (if sat = true ∨ f = 6 then { code := sign + top, fl := { sat := 1 } }
          else if f = 4 then { code := nan, fl := { iv := true, inv := true } } else { code := sign + top + 1 })
      ∧ go .nan = { code := nan, fl := { iv := true, inv := true } })
    ∧ (∀ row ∈ Claim.integers,
      let (f, w, low, high) := row
      let go := roundTo f r sat flush
      let z : Int := if neg then -(if up then a + 1 else a : Nat) else (if up then a + 1 else a : Nat)
      ((a : Rat) ≤ x → x < (a : Rat) + 1 → (up = true ↔ Claim.takesLarger r neg (a % 2 == 1) a (a + 1) x) →
        go v = { code := ((max low (min high z)) % 2 ^ w).toNat, fl := { sat := if z < low ∨ high < z then 1 else 0 } })
      ∧ go (.inf neg) = { code := ((if neg then low else high) % 2 ^ w).toNat, fl := { sat := 1 } }
      ∧ go .nan = { code := 0, fl := { iv := true, inv := true } })
    ∧ (let go := roundTo 7 r sat flush
      let lo := Claim.mag 1 k
      let above : Prop := match r.draw with
        | some u => (u : Int) < ((x - lo) / lo * 4294967296).floor
        | none => (r.rnd = 0 ∧ 3 / 2 * lo ≤ x) ∨ (r.rnd = 3 ∧ lo < x)
      let code := (if up then k + 1 else k) + 127
      (m = 0 → go v = { code := 0, fl := { sclamp := true } })
      ∧ (lo ≤ x → x < 2 * lo → (up = true ↔ above) →
        go v = if code < 0 then { code := 0, fl := { sclamp := true } }
          else if 254 < code then { code := 254, fl := { sat := 1 } } else { code := code.toNat })
      ∧ go (.inf neg) = { code := 255, fl := { iv := true, inv := true } }
      ∧ go .nan = { code := 255, fl := { iv := true, inv := true } })

/-- A result whose bound has come lands in its register, s0 and m0 discarding it and every other register keeping
its value; its flags are added to VFLAGS; one whose bound has not come stays on its way. -/
def Sys2Proof.Claim.resultsLandAtTheirBound : Prop :=
  ∀ (s : State) (u : Nat) (p : Pend), (s.tile u).ctx.pend = [p] → (s.tile u).ctx.mts = [] → p.trap = none →
    tget 0 (s.tile u).ctx.lastW (destKey p.dest) ≤ p.ord →
    ∃ t, exec (.fixedLatencyWriteback u) s = .next t ∧ (∀ v, v ≠ u → t.tile v = s.tile v) ∧ (∀ a, t.byte a = s.byte a)
      ∧ let c := (s.tile u).ctx
        let e := (t.tile u).ctx
        (p.bound ≤ (s.tile u).tc → e.pend = [] ∧ (t.tile u).sys.vflags = addVflags (s.tile u).sys.vflags p.fl
          ∧ (∀ r, r < 32 → e.getS r = if p.dest = .s r ∧ r ≠ 0 then BitVec.ofNat 64 p.val else c.getS r)
          ∧ (∀ r, r < 32 → e.getV r = if p.dest = .v r then BitVec.ofNat 1024 p.val else c.getV r)
          ∧ (∀ r, r < 8 → e.getM r = if p.dest = .m r ∧ r ≠ 0 then BitVec.ofNat 32 p.val else c.getM r))
        ∧ ((s.tile u).tc < p.bound → e = c ∧ (t.tile u).sys = (s.tile u).sys)
        ∧ e.pc = c.pc ∧ e.ops = c.ops ∧ e.busy = c.busy ∧ e.loops = c.loops

/-- A system register write takes effect once two tile cycles have passed since its mts, in a cycle that is not held:
VMODE, VFLAGS and the thresholds take the value, and VSEED reseeds every lane's generator (R222, R236, R256). -/
def Sys2Proof.Claim.systemRegisterWritesLand : Prop :=
  ∀ (s : State) (u : Nat) (w : PendMts), (s.tile u).held = false → (s.tile u).ctx.pend = [] → (s.tile u).ctx.mts = [w] → w.at' ≤ (s.tile u).tc →
    ∃ t, exec (.fixedLatencyWriteback u) s = .next t ∧ (t.tile u).ctx.mts = []
      ∧ (∀ v, v ≠ u → t.tile v = s.tile v) ∧ (∀ a, t.byte a = s.byte a)
      ∧ (t.tile u).ctx.s = (s.tile u).ctx.s ∧ (t.tile u).ctx.v = (s.tile u).ctx.v ∧ (t.tile u).ctx.m = (s.tile u).ctx.m
      ∧ let y := (s.tile u).sys
        let z := (t.tile u).sys
        (w.num = 0x008 → z = { y with vmode := w.val }) ∧ (w.num = 0x00A → z = { y with vflags := w.val })
        ∧ (w.num = 0x009 → z = { y with vseed := w.val, gens := tabulate 32 (lfsrSeed w.val.toNat) })
        ∧ (∀ k, k < 8 → w.num = 0x018 + k → z = { y with th := tput y.th k (w.val.setWidth 32) })

/-- A register takes its result, and a system register its write, when the bound has come (R216, R221, R222, R236, R256). -/
def Obligations.WritesLandAtTheirBound : Prop := Claim.resultsLandAtTheirBound ∧ Claim.systemRegisterWritesLand

/-- A side vector result that traps, the only result on its way in a tile that is not held, raises its control-class
fault when its bound comes: the record holds the PC of the trapping bundle, the cause, the mask of lanes and the number
of bundles issued since; the result leaves the results on their way unwritten, no register and no byte of memory
changes, and of the system registers only the two counts of cycles may (log entry 76). -/
def Obligations.SideVectorTrapRecords : Prop :=
  ∀ (s : State) (u : Nat) (p : Pend) (c m : Nat), (s.tile u).ctx.pend = [p] → p.trap = some (c, m) →
    p.bound ≤ (s.tile u).tc → (s.tile u).shadow.queue.length < 8 → (s.tile u).held = false → (s.tile u).ctx.mts = [] →
    ∃ (t : State) (f : CFault) (tc hc : W64), exec (.sideVectorTrap u) s = .next t ∧ (t.tile u).ctx.pend = []
      ∧ (t.tile u).shadow.queue = (s.tile u).shadow.queue ++ [f] ∧ f.fr.cause = c ∧ f.fr.detail = m
      ∧ f.fr.pos = p.pc.toNat ∧ f.fr.idx = [(s.tile u).ctx.bno - p.bno - 1] ∧ f.src = .vector p
      ∧ Claim.sameRegs (s.tile u).ctx (t.tile u).ctx ∧ (t.tile u).sys = { (s.tile u).sys with tcyc := tc, hcyc := hc }
      ∧ (∀ a, t.byte a = s.byte a) ∧ ∀ v, v ≠ u → t.tile v = s.tile v

/-! ### Slot B: memory (R274-R282, R331-R340) -/

/-- A slot B operation is issued under the bundle's tag: it waits to be performed, its tag is busy, and no register
and no byte of memory has changed. -/
def Sys2Proof.Claim.issuesOp (i : Instr) (s : State) (k : OpKind) : Prop :=
  ∃ (t : State) (o : Op), exec i s = .next t ∧ t.ctx.ops = s.ctx.ops ++ [o] ∧ o.kind = k ∧ o.st = .waiting
    ∧ o.tag = s.cur.ta ∧ o.pc = s.cur.bpc ∧ o.ord = s.me.ord ∧ o.id = s.me.nextOp
    ∧ t.ctx.busy = (if s.cur.ta = 0 then s.ctx.busy else s.ctx.busy ++ [s.cur.ta])
    ∧ Claim.elsewhere s t ∧ t.ctx.s = s.ctx.s ∧ t.ctx.v = s.ctx.v ∧ t.ctx.m = s.ctx.m ∧ t.ctx.loops = s.ctx.loops
    ∧ t.ctx.pend = s.ctx.pend ∧ t.ctx.pc = s.ctx.pc ∧ t.me.sys = s.me.sys
    ∧ t.me.arr = s.me.arr

/-- The acting instruction is a task's, and the task is not retry-eligible (R369). -/
def Sys2Proof.Claim.plainTask (s : State) : Prop := s.cur.shadow = false ∧ (s.me.task.isSome && s.mine.retry) = false

/-- ld, st, ldv, stv, amo, cas and fence at issue: at an aligned address that no earlier fence of their kind holds
back, each is issued with its address, data and mask as read then; at one that is no multiple of the access's size
the bundle takes no effect and MISALIGN is queued. -/
def Obligations.MemoryInstructionsIssue : Prop :=
  ∀ (s : State) (ty : LdTy) (sz ord : BitVec 2) (d a b : Reg) (off : BitVec 11) (mk : MReg) (op : AmoOp) (u w : Bool)
    (scope : BitVec 3) (kinds : BitVec 4), Claim.plainTask s → Claim.readable s a → Claim.readable s b →
    Claim.readable s d → Claim.readableV s d → Claim.readableM s mk →
    let base := (Claim.val s a).toNat
    let va (z : Nat) : Nat := (((base : Int) + off.toInt * z) % 2 ^ 64).toNat
    let clear (k : Nat) : Prop := fenceBlocks s.ctx k = false
    let vd := (s.ctx.getV d.toNat).toNat
    let m := (s.ctx.getM mk.toNat).toNat
    let z := 2 ^ sz.toNat
    let n := if w then 8 else 4
    (va (ldBytes ty) % ldBytes ty = 0 → clear 1 → Claim.issuesOp (.ld ty d a off) s (.ld ty d.toNat (va (ldBytes ty))))
    ∧ (va z % z = 0 → clear 2 →
        Claim.issuesOp (.st sz d a off) s (.st z (va z) ((Claim.val s d).toNat % 2 ^ (8 * z))))
    ∧ (va 128 % 128 = 0 → clear 1 → Claim.issuesOp (.ldv d a off mk) s (.ldv d.toNat (va 128) m vd))
    ∧ (va 128 % 128 = 0 → clear 2 → Claim.issuesOp (.stv d a off mk) s (.stv (va 128) vd m))
    ∧ (base % n = 0 → clear 3 → Claim.issuesOp (.amo op u w ord scope d a b) s
        (.amo op u w ord.toNat scope.toNat d.toNat base (Claim.val s b).toNat))
    ∧ (base % n = 0 → clear 3 → Claim.issuesOp (.cas w ord scope d a b) s
        (.cas w ord.toNat scope.toNat d.toNat base (Claim.val s d).toNat (Claim.val s b).toNat))
    ∧ Claim.issuesOp (.fence kinds scope) s (.fence kinds.toNat scope.toNat)
    ∧ (Claim.canFault s → (va (ldBytes ty) % ldBytes ty ≠ 0 → Claim.faults (.ld ty d a off) s 0x13)
        ∧ (va z % z ≠ 0 → Claim.faults (.st sz d a off) s 0x13)
        ∧ (va 128 % 128 ≠ 0 → Claim.faults (.ldv d a off mk) s 0x13 ∧ Claim.faults (.stv d a off mk) s 0x13)
        ∧ (base % n ≠ 0 → Claim.faults (.amo op u w ord scope d a b) s 0x13
            ∧ Claim.faults (.cas w ord scope d a b) s 0x13))

/-- Byte `i` of a number, least significant first (R4). -/
def Sys2Proof.Claim.byteOf (v i : Nat) : Byte := BitVec.ofNat 8 (v / 2 ^ (8 * i))

/-- No line that an AG has fired on, and that is still on its way, lies where `n` bytes from `pa` on lie (R101, R104). -/
def Sys2Proof.Claim.noLines (s : State) (pa n : Nat) : Prop :=
  ∀ u, ∀ w ∈ (s.collar u).fly, ∀ i < n, w.pa / 64 ≠ (pa + i) / 64

/-- An operation of a tile's task and its tag are over, and nothing of the tile's registers, system registers or PC has
changed, nor any other tile. -/
def Sys2Proof.Claim.storeOver (s r : State) (t id : Nat) (o : Op) : Prop :=
  opOf (r.tile t).ctx id = none ∧ o.tag ∉ (r.tile t).ctx.busy
  ∧ (∀ k, (r.tile t).ctx.getS k = (s.tile t).ctx.getS k) ∧ (∀ k, (r.tile t).ctx.getV k = (s.tile t).ctx.getV k)
  ∧ (∀ k, (r.tile t).ctx.getM k = (s.tile t).ctx.getM k) ∧ (r.tile t).sys = (s.tile t).sys
  ∧ (r.tile t).ctx.pc = (s.tile t).ctx.pc ∧ ∀ w, w ≠ t → r.tile w = s.tile w

/-- st is performed where `reachAccess` takes it to a physical address of memory that no log stages: it writes there
exactly its bytes, least significant first. -/
def Sys2Proof.Claim.storesWrite : Prop :=
  ∀ (s s1 : State) (t id pa n va v : Nat) (o : Op), opOf (s.tile t).ctx id = some o → o.st = .waiting →
    o.kind = .st n va v → 1 ≤ n → reachAccess s t o false false = .inr (pa, s1) → (∀ i, i < n → (place (pa + i)).isMem = true) →
    (s.task ((s.tile t).task.getD 0)).staged pa = false → s.mem.wf = true → Claim.noLines s pa n →
    ∃ r, exec (.storePerformed t id) s = .next r ∧ Claim.storeOver s r t id o
      ∧ ∀ a, r.byte a = if pa ≤ a ∧ a < pa + n then Claim.byteOf v (a - pa) else s.byte a

/-- stv is performed line by line: in this turn each of its two lines that memory or a bank's grant carries now is
written, a lane only where its mask bit is 1, and no other byte; it is over with the last of them. -/
def Sys2Proof.Claim.vectorStoresWrite : Prop :=
  ∀ (s s0 : State) (t id pa va v mask : Nat) (o : Op), opOf (s.tile t).ctx id = some o → o.st = .waiting →
    o.kind = .stv va v mask → accessAt s t o false = .inr (pa, s0) → pa % 128 = 0 →
    (∀ i, i < 128 → (place (pa + i)).isMem = true) → (s.task ((s.tile t).task.getD 0)).staged pa = false →
    s.mem.wf = true → Claim.noLines s pa 128 → 2 ≤ meshRoom s t true →
    let req (q : Nat × Nat) := reqAt s (tileReq 2 t id) q
    let now (q : Nat × Nat) : Bool := (bankAt pa).isNone || (req q).any fun x => x.granted && x.got.isNone
    let all : Prop := ∀ q ∈ [(pa, 64), (pa + 64, 64)], (now q || (req q).any (·.got.isSome)) = true
    ∃ r, exec (.storePerformed t id) s = .next r
      ∧ (∀ a, r.byte a = if pa ≤ a ∧ a < pa + 128 ∧ now (a / 64 * 64, 64) = true ∧ mask.testBit ((a - pa) / 4) = true
          then Claim.byteOf v (a - pa) else s.byte a)
      ∧ (all → Claim.storeOver s r t id o) ∧ (¬ all → ∀ w, r.tile w = s.tile w)

/-- A store of a task with RETRY outside its own tile's scratchpad goes to its log and to no byte of memory (R369; that
a store to the own slice is not staged is log entry 40): the task then reads its bytes there. Where the log lacks the
line and has no room it raises LOG_FULL. -/
def Sys2Proof.Claim.retryStoresAreLogged : Prop :=
  ∀ (s s1 : State) (t id pa n va v : Nat) (o : Op), opOf (s.tile t).ctx id = some o → o.st = .waiting →
    o.kind = .st n va v → 1 ≤ n → n ≤ 8 → reachAccess s t o false false = .inr (pa, s1) →
    let k := s.task ((s.tile t).task.getD 0)
    k.staged pa = true → (∀ l ∈ k.log, l.2.length = 64) →
    ∃ r, exec (.storePerformed t id) s = .next r ∧ (∀ a, r.byte a = s.byte a)
      ∧ (k.log.length + 2 ≤ k.logCap → Claim.storeOver s r t id o
          ∧ ∀ a x, (r.task ((s.tile t).task.getD 0)).logView a [x]
              = if pa ≤ a ∧ a < pa + n then [Claim.byteOf v (a - pa)] else k.logView a [x])
      ∧ ((∀ l ∈ k.log, l.1 ≠ pa / 64 * 64) → k.logCap ≤ k.log.length → (s.tile t).task.isSome →
          (s.tile t).shadow.queue.length < 8 → ∃ f, (r.tile t).shadow.queue = (s.tile t).shadow.queue ++ [f]
            ∧ f.fr.cause = 0x1A ∧ f.fr.addr = va ∧ f.fr.pos = o.pc.toNat
            ∧ (r.task ((s.tile t).task.getD 0)).log = k.log)

/-- Stores are performed: st, stv line by line, and the stores of a task with RETRY. -/
def Obligations.StoresWriteTheirBytes : Prop :=
  Claim.storesWrite ∧ Claim.vectorStoresWrite ∧ Claim.retryStoresAreLogged

/-- The data of a load arrives: the destination takes the bytes read where `reachAccess` takes it (of ldv, what its
lines gave, each as its bank granted it), sign-extended or zero-extended by its type for ld, and lane by lane under the
mask for ldv, the other lanes as they were at issue (log entry 39); no byte of memory and no other register changes, and
the operation and its tag are over. -/
def Obligations.LoadsReturnTheirData : Prop :=
  ∀ (s : State) (t id : Nat) (o : Op), opOf (s.tile t).ctx id = some o → o.st = .waiting →
    (∀ d, o.kind.dest = some d → tget 0 (s.tile t).ctx.lastW (destKey d) ≤ o.ord) →
    let n := (s.tile t).task.getD 0
    let done (r : State) : Prop := (∀ a, r.byte a = s.byte a) ∧ opOf (r.tile t).ctx id = none
      ∧ o.tag ∉ (r.tile t).ctx.busy ∧ (r.tile t).sys = (s.tile t).sys ∧ (r.tile t).ctx.pc = (s.tile t).ctx.pc
      ∧ (∀ k, (r.tile t).ctx.getM k = (s.tile t).ctx.getM k) ∧ ∀ w, w ≠ t → r.tile w = s.tile w
    (∀ ty d va pa s1, o.kind = .ld ty d va → reachAccess s t o true false = .inr (pa, s1) →
      Claim.noLines s pa (ldBytes ty) → ∃ r, exec (.loadDataReturn t id) s = .next r ∧ done r
        ∧ let x := natOfBytes (loadBytes s1 t pa (ldBytes ty) (ldBytes ty)).1
          let v : Int := match ty with
            | .i8 => (BitVec.ofNat 8 x).toInt
            | .i16 => (BitVec.ofNat 16 x).toInt
            | .i32 => (BitVec.ofNat 32 x).toInt
            | _ => x
          (∀ k, (r.tile t).ctx.getS k = if k = d ∧ k ≠ 0 then BitVec.ofInt 64 v else (s.tile t).ctx.getS k)
          ∧ ∀ k, (r.tile t).ctx.getV k = (s.tile t).ctx.getV k)
    ∧ (∀ d va mask old pa b s1, o.kind = .ldv d va mask old →
      reachLines s t o (fun _ pa n' s => lineRead (.task n) 4 pa n' s) = .inr (pa, b, s1) →
      (∀ x ∈ b, x.2 = false) → Claim.noLines s pa 128 → ∃ r, exec (.loadDataReturn t id) s = .next r ∧ done r
        ∧ (∀ k, (r.tile t).ctx.getS k = (s.tile t).ctx.getS k)
        ∧ (∀ k, k ≠ d → (r.tile t).ctx.getV k = (s.tile t).ctx.getV k)
        ∧ ∀ l, l < 32 → ((r.tile t).ctx.getV d).toNat / 2 ^ (32 * l) % 2 ^ 32
            = if mask.testBit l then natOfBytes ((((s.task n).logView pa (b.map (·.1))).drop (4 * l)).take 4)
              else old / 2 ^ (32 * l) % 2 ^ 32)

/-- An atomic is performed where `reachAccess` takes it: memory there takes the result of its operation on the old
value and the operand, in 4 or 8 bytes, cas only where the old value is the one expected; the destination takes the
old value; every other byte of memory reads as before (R280). -/
def Obligations.AtomicsReadAndWrite : Prop :=
  ∀ (s s1 : State) (t id pa : Nat) (o : Op) (w : Bool), opOf (s.tile t).ctx id = some o → o.st = .waiting →
    reachAccess s t o true true = .inr (pa, s1) → s.mem.wf = true → Claim.noLines s pa 8 →
    (∀ d, o.kind.dest = some d → tget 0 (s.tile t).ctx.lastW (destKey d) ≤ o.ord) →
    let n := if w then 8 else 4
    let m : Nat := 2 ^ (8 * n)
    let old := natOfBytes (memRead s1 (.task ((s.tile t).task.getD 0)) pa n n true).1
    let sg (x : Nat) : Int := if x % m < m / 2 then (x % m : Nat) else (x % m : Nat) - m
    let result (d : Nat) (u : Bool) (v : Option Nat) : Prop := ∃ r, exec (.loadDataReturn t id) s = .next r
      ∧ (∀ a, r.byte a = match v with
          | some x => if pa ≤ a ∧ a < pa + n then Claim.byteOf x (a - pa) else s.byte a
          | none => s.byte a)
      ∧ (∀ k, (r.tile t).ctx.getS k = if k = d ∧ k ≠ 0 then
          (if w ∨ u then BitVec.ofNat 64 old else BitVec.ofInt 64 (sg old)) else (s.tile t).ctx.getS k)
      ∧ (∀ k, (r.tile t).ctx.getV k = (s.tile t).ctx.getV k) ∧ (∀ k, (r.tile t).ctx.getM k = (s.tile t).ctx.getM k)
      ∧ opOf (r.tile t).ctx id = none ∧ (r.tile t).sys = (s.tile t).sys ∧ ∀ q, q ≠ t → r.tile q = s.tile q
    (∀ op u ord scope d va x, o.kind = .amo op u w ord scope d va x →
        let le (p q : Nat) : Prop := if u then p % m ≤ q % m else sg p ≤ sg q
        result d u (some (match op with
          | .add => (old + x) % m
          | .min => if le old x then old else x % m
          | .max => if le old x then x % m else old
          | .and => old &&& (x % m)
          | .or => old ||| (x % m)
          | .xor => old ^^^ (x % m)
          | .xchg => x % m)))
    ∧ (∀ ord scope d va want new, o.kind = .cas w ord scope d va want new →
        result d false (if old = want % m then some (new % m) else none))

/-- A fence is complete when every access of its kinds issued before it has been performed and, with col, the task's
regions are quiescent: its operation and tag are then over, and no register and no byte of memory has changed. -/
def Obligations.FencesComplete : Prop :=
  ∀ (s : State) (t id kinds scope : Nat) (o : Op), opOf (s.tile t).ctx id = some o → o.kind = .fence kinds scope →
    (∀ p ∈ (s.tile t).ctx.ops, p.ord < o.ord → p.kind.kinds &&& kinds = 0 ∧ p.kind.colFence = false) →
    (bit kinds 3 = true → tasksQuiet s t ((s.tile t).task.getD 0) = true) →
    ∃ r, exec (.fenceComplete t id) s = .next r ∧ opOf (r.tile t).ctx id = none ∧ o.tag ∉ (r.tile t).ctx.busy
      ∧ (∀ a, r.byte a = s.byte a) ∧ (r.tile t).ctx.s = (s.tile t).ctx.s ∧ (r.tile t).ctx.v = (s.tile t).ctx.v
      ∧ (r.tile t).ctx.m = (s.tile t).ctx.m ∧ (r.tile t).sys = (s.tile t).sys ∧ ∀ w, w ≠ t → r.tile w = s.tile w

/-! ### Slot B and events: the accumulator store, weight loads and passes (R179-R202, R283-R287, R296, R297) -/

/-- ldacc, stacc and accz of rows of the task's window are issued with the physical row, the group and the data as
read; a row outside the window, or an accz of no rows, raises ACC_RANGE and the bundle takes no effect. -/
def Obligations.AccumulatorInstructionsIssue : Prop :=
  ∀ (s : State) (d a b : Reg) (g : BitVec 2) (off : BitVec 7) (mask : BitVec 4), s.cur.shadow = false →
    Claim.readable s a → Claim.readable s b → Claim.readableV s d →
    let x := s.me.arr
    let row := ((Claim.val s a).toNat + off.toNat) % 2 ^ 64
    let first := (Claim.val s a).toNat
    let n := (Claim.val s b).toNat
    let fits (r k : Nat) : Prop := x.winBad = false ∧ r + k ≤ 16 * x.winCount
    (fits row 1 → Claim.issuesOp (.ldacc d a g off) s (.ldacc d.toNat (16 * x.winBase + row) g.toNat s.cur.tc)
        ∧ Claim.issuesOp (.stacc d a g off) s (.stacc (16 * x.winBase + row) g.toNat (s.ctx.getV d.toNat).toNat))
    ∧ (fits first n → 1 ≤ n → n ≤ 2048 → Claim.issuesOp (.accz a b mask) s (.accz (16 * x.winBase + first) n mask.toNat))
    ∧ (Claim.canFault s → (¬ fits row 1 → Claim.faults (.ldacc d a g off) s 0x0A ∧ Claim.faults (.stacc d a g off) s 0x0A)
        ∧ (¬ (fits first n ∧ 1 ≤ n ∧ n ≤ 2048) → Claim.faults (.accz a b mask) s 0x0A))

/-- No mma.ds names the row as a staging row, and none of the row's words is a staging word that has not been read
(R197). -/
def Sys2Proof.Claim.noStaging (x : Array) (row : Nat) : Prop :=
  (∀ m ∈ x.mmas, m.ds = true → row < m.row0 ∨ m.row0 + m.p * m.m ≤ row) ∧ ∀ c, c < 128 → thas x.stage (accIdx row c) = false

/-- A stacc or accz is performed, in a tile cycle, once the updates and drains before it have had their words: its
words take the register's lanes, or zero in the groups the mask names, and no other word of the store changes. Its rows
hold no staging words of an mma.ds, for which R197 leaves the value undefined. -/
def Sys2Proof.Claim.accumulatorStoresLand : Prop :=
  ∀ (s : State) (t id : Nat) (o : Op), (s.tile t).held = false → opOf (s.tile t).ctx id = some o →
    let word (r : State) (row col : Nat) := (r.tile t).arr.word row col
    let frame (r : State) : Prop := opOf (r.tile t).ctx id = none ∧ (∀ a, r.byte a = s.byte a)
      ∧ (r.tile t).ctx.s = (s.tile t).ctx.s ∧ (r.tile t).ctx.v = (s.tile t).ctx.v ∧ (r.tile t).ctx.m = (s.tile t).ctx.m
      ∧ (r.tile t).sys = (s.tile t).sys ∧ (r.tile t).arr.mmas = (s.tile t).arr.mmas ∧ ∀ w, w ≠ t → r.tile w = s.tile w
    (∀ row g v, o.kind = .stacc row g v → g < 4 → wordsClear (s.tile t) row (groupCols g) o.ord 0 = true →
        Claim.noStaging (s.tile t).arr row →
        ∃ r, exec (.accWritePerformed t id) s = .next r ∧ frame r ∧ ∀ i c, c < 128 → word r i c =
          if i = row ∧ c / 32 = g then BitVec.ofNat 32 (v / 2 ^ (32 * (c % 32))) else word s i c)
    ∧ (∀ row n mask, o.kind = .accz row n mask → (∀ i, i < n → Claim.noStaging (s.tile t).arr (row + i)
          ∧ wordsClear (s.tile t) (row + i) (((List.range 4).filter fun g => bit mask g).map groupCols).flatten o.ord 0 = true) →
        ∃ r, exec (.accWritePerformed t id) s = .next r ∧ frame r ∧ ∀ i c, c < 128 → word r i c =
          if row ≤ i ∧ i < row + n ∧ mask.testBit (c / 32) = true then 0 else word s i c)

/-- ldacc returns each of its words as R195 allows: a word that has been read for it before an update keeps that value;
any other returns the word's value, or one that an mma whose tag, and the tags of those after it, tc leaves open has
replaced, and nothing earlier is there to be read again. No word of the store changes. (That words are read when the
ldacc completes is log entry 72.) -/
def Sys2Proof.Claim.ldaccReturnsWords : Prop :=
  ∀ (s : State) (t id d row g tc : Nat) (o : Op), (s.tile t).held = false → opOf (s.tile t).ctx id = some o →
    o.st = .waiting → o.kind = .ldacc d row g tc → g < 4 → tget 0 (s.tile t).ctx.lastW (destKey (.v d)) ≤ o.ord →
    (∀ p ∈ (s.tile t).ctx.ops, ∀ r n, p.kind.rows = some (r, n) → r ≤ row → row < r + n → o.ord ≤ p.ord) →
    ((s.tile t).ctx.ops.map (·.id)).Nodup → (s.tile t).arr.accBad = [] →
    let a := (s.tile t).arr
    let old (x : Array) (l : Nat) := tget [] x.old (accIdx row (32 * g + l))
    ∃ r, exec (.loadDataReturn t id) s = .next r ∧ opOf (r.tile t).ctx id = none ∧ (∀ x, r.byte x = s.byte x)
      ∧ (∀ i c, (r.tile t).arr.word i c = a.word i c) ∧ (∀ k, (r.tile t).ctx.getS k = (s.tile t).ctx.getS k)
      ∧ (∀ k, k ≠ d → (r.tile t).ctx.getV k = (s.tile t).ctx.getV k) ∧ (∀ w, w ≠ t → r.tile w = s.tile w)
      ∧ ∀ l, l < 32 →
        let v := ((r.tile t).ctx.getV d).toNat / 2 ^ (32 * l) % 2 ^ 32
        match a.reads.find? fun x => x.1 == id && x.2.1 == l with
        | some x => v = x.2.2.toNat
        | none => ∃ i, old (r.tile t).arr l = (old a l).drop i
            ∧ (match (old a l)[i]? with
              | some e => v = e.2.toNat ∧ ∀ q ∈ (old a l).drop i, q.1 = 0 ∨ tc.testBit (q.1 - 1) = false
              | none => v = (a.word row (32 * g + l)).toNat)

/-- The sums of an accepted row land in accumulator words: when a cycle in which the array has run ends, each word of the
one row on its way that nothing before it in the order still has to update takes its sum or keeps waiting, and waits no
longer than R29's bound of 130 + column cycles. A pass without the accumulate bit overwrites, one with it adds: f32 with
one rounding to nearest even, i32 modulo 2^32. No other word of the store changes. ROUND and the exact sum are the
model's. -/
def Sys2Proof.Claim.sumsLandInTheirWords : Prop :=
  ∀ (s : State) (t : Nat) (c : Contrib), let x := s.tile t
    (x.ran = true ∨ x.runOn = true) → x.arr.contribs = [c] → x.arr.accBad = [] → c.left.Nodup →
    (∀ k ∈ c.left, k < 128 ∧ wordsClear x c.row [k] c.ord c.pass = true) → x.arr.dsOn c.row c.ord = none →
    (∀ k, k < 128 → thas x.arr.stage (accIdx c.row k) = false) →
    let y := ((endCycle t s).tile t).arr
    let sum (k : Nat) := c.sums.getD k 0
    let new (k : Nat) : Nat :=
      let cur := (x.arr.word c.row k).toNat
      if !c.add then sum k
      else if c.int then (cur + sum k) % 2 ^ 32
      else (roundTo 1 { rnd := 0 } false false (Val.add false (decodeVal 1 cur) (decodeVal 1 (sum k)))).code
    (∀ k ∈ c.left,
      ((∃ d ∈ y.contribs, k ∈ d.left) ∧ y.word c.row k = x.arr.word c.row k ∧ x.arr.clk + 1 < c.base + 130 + k)
      ∨ ((∀ d ∈ y.contribs, k ∉ d.left) ∧ y.word c.row k = BitVec.ofNat 32 (new k)))
    ∧ (∀ row k, k < 128 → (row ≠ c.row ∨ k ∉ c.left) → y.word row k = x.arr.word row k)
    ∧ y.clk = x.arr.clk + 1 ∧ ∀ a, (endCycle t s).byte a = s.byte a

/-- What the accumulator store takes and gives: stacc and accz, ldacc, and the sums of the array. -/
def Obligations.AccumulatorWritesLand : Prop :=
  Claim.accumulatorStoresLand ∧ Claim.ldaccReturnsWords ∧ Claim.sumsLandInTheirWords

/-- wtl empties its slot and starts a load of it; mma joins the operations of the array with its physical rows,
passes, pair code and array context, where an operation may run and one wait. -/
def Obligations.WeightLoadAndMatrixIssue : Prop :=
  ∀ (s : State) (a b : Reg) (pair : BitVec 4) (pass slot : BitVec 2) (acc ds : Bool), s.cur.shadow = false →
    Claim.readable s a → Claim.readable s b →
    let x := s.me
    let row0 := (Claim.val s a).toNat
    let m := (Claim.val s b).toNat
    let rows := if ds then (pass.toNat + 1) * m else m
    ((x.arr.slotOf slot.toNat).st ≠ 1 → preloadPending x slot.toNat = false → ∃ t, exec (.wtl slot) s = .next t
        ∧ (t.me.arr.slotOf slot.toNat).st = 1 ∧ (t.me.arr.slotOf slot.toNat).toks = []
        ∧ t.me.arr.wtls = x.arr.wtls ++ [(slot.toNat, x.nextOp)] ∧ (∃ o, t.ctx.ops = s.ctx.ops ++ [o] ∧ o.kind = .wtl slot.toNat)
        ∧ t.me.arr.acc = x.arr.acc ∧ t.ctx.s = s.ctx.s ∧ t.ctx.v = s.ctx.v ∧ t.ctx.m = s.ctx.m ∧ Claim.elsewhere s t)
    ∧ (1 ≤ m → m ≤ 2048 → x.arr.winBad = false → row0 + rows ≤ 16 * x.arr.winCount → x.arr.unfed.length < 2 →
        ∃ t n, exec (.mma a b pair pass slot acc ds) s = .next t ∧ t.me.arr.mmas = x.arr.mmas ++ [n]
        ∧ n.row0 = 16 * x.arr.winBase + row0 ∧ n.m = m ∧ n.p = pass.toNat + 1 ∧ n.slot = slot.toNat
        ∧ n.pair = pair.toNat ∧ n.acc = acc ∧ n.ds = ds ∧ n.arr = x.arr.ctx ∧ n.tag = s.cur.ta ∧ n.started = false
        ∧ n.fed = false ∧ (∃ o, t.ctx.ops = s.ctx.ops ++ [o] ∧ o.kind = .mma)
        ∧ t.me.arr.acc = x.arr.acc ∧ t.ctx.s = s.ctx.s ∧ t.ctx.v = s.ctx.v ∧ t.ctx.m = s.ctx.m ∧ Claim.elsewhere s t)
    ∧ (Claim.canFault s → (m = 0 ∨ 2048 < m ∨ 16 * x.arr.winCount < row0 + rows) →
        Claim.faults (.mma a b pair pass slot acc ds) s 0x0A)

/-- A narrow value as a 32-bit one, exactly (R51): t2 as 0, 1 or −1; an integer sign- or zero-extended by its format; a
floating-point or e8m0 value as f32. -/
def Sys2Proof.Claim.widened (f x : Nat) : Nat :=
  if f = 13 then (if x % 4 = 1 then 1 else if x % 4 = 3 then 2 ^ 32 - 1 else 0)
  else if fmtSigned f ∧ 2 ^ (fmtWidth f - 1) ≤ x then x + (2 ^ 32 - 2 ^ fmtWidth f)
  else if fmtInt f then x
  else (roundTo 1 { rnd := 0 } false false (decodeVal f x)).code

/-- The transform units, for every format and part R296 lists: xexp widens the 32 values of a from value 32 × p on,
exactly; xtrn transposes R × C elements; xcvt narrows 32 lanes of a, i32 for an integer format and t2 and f32 for the
others, into the values of d from value 32 × p on and keeps d's others, an integer clamped under SAT and else taken
modulo its width, t2 by sign, the others rounded under VMODE with the lane's own draw under SR. Each result lands at its
bound (R296, R297). -/
def Obligations.TransformResults : Prop :=
  ∀ (s : State) (d a : Reg) (p f : BitVec 4) (w : XtrnW) (r : BitVec 3), s.cur.shadow = false →
    Claim.readableV s a → Claim.readableV s d →
    let v := (s.ctx.getV a.toNat).toNat
    let old := (s.ctx.getV d.toNat).toNat
    let m := vmodeOf s.me.sys.vmode
    let go (i : Instr) (L : Nat) (P : Nat → Prop) : Prop := ∃ (t : State) (q : Pend), exec i s = .next t
      ∧ t.ctx.pend = s.ctx.pend ++ [q] ∧ q.dest = .v d.toNat ∧ q.bound = s.now + L ∧ P q.val ∧ Claim.elsewhere s t
      ∧ Claim.sameRegs s.ctx t.ctx ∧ t.ctx.pc = s.ctx.pc ∧ t.me.sys.vflags = s.me.sys.vflags ∧ t.me.arr = s.me.arr
    let b := xtrnBits w
    let rows := 2 ^ r.toNat
    let cols := 1024 / (b * rows)
    let n := fmtWidth f.toNat
    let lo : Int := if fmtSigned f.toNat then -2 ^ (n - 1) else 0
    let hi : Int := if fmtSigned f.toNat then 2 ^ (n - 1) - 1 else 2 ^ n - 1
    let narrowed (l : Nat) : Nat :=
      let x := v / 2 ^ (32 * l) % 2 ^ 32
      if f = 13 then (if 0 < Claim.signed x then 1 else if Claim.signed x < 0 then 3 else 0)
      else if fmtInt f.toNat then
        ((if m.sat then max lo (min hi (Claim.signed x)) else Claim.signed x) % 2 ^ n).toNat
      else (roundTo f.toNat (m.rmode (lfsrStep (s.me.sys.gens.getD l 1))) m.sat m.flush (decodeSv 1 m.flush x)).code % 2 ^ n
    (p.toNat < xParts f.toNat → go (.xexp f d a p) 6 (fun x => ∀ l, l < 32 → x / 2 ^ (32 * l) % 2 ^ 32
        = Claim.widened f.toNat (v / 2 ^ (n * (32 * p.toNat + l)) % 2 ^ n) % 2 ^ 32))
    ∧ (rows * b ≤ 1024 → go (.xtrn w r d a) 10 (fun x => ∀ i j, i < rows → j < cols →
        x / 2 ^ (b * (j * rows + i)) % 2 ^ b = v / 2 ^ (b * (i * cols + j)) % 2 ^ b))
    ∧ (p.toNat < xParts f.toNat → go (.xcvt f d a p) 4 (fun x =>
        (∀ l, l < 32 → x / 2 ^ (n * (32 * p.toNat + l)) % 2 ^ n = narrowed l)
        ∧ ∀ k, k < 1024 → (k < n * 32 * p.toNat ∨ n * 32 * (p.toNat + 1) ≤ k) → x.testBit k = old.testBit k))

/-- The array's events. The hold stands in a cycle exactly where a control-class fault is queued, or a FEED without a
token for the row due or a DRN without room for a due row starves the array. While the array is not still, the next pass
is preloaded once its check passes and its cycle has come, and becomes resident when it starts; a row is accepted from
the eight FEEDs, with the scales of their scale tokens under a pair code that has them, and its sums are on their way to
the row they belong to, none landed yet (R29, R31, R188-R192). -/
def Obligations.ArrayEventsAdvance : Prop :=
  ∀ (s : State) (t : Nat), let x := s.tile t
    let hold : Prop := x.shadow.queue ≠ [] ∨ starved s t = true
    (hold → ∃ r, exec (.tileHoldAssert t) s = .next r ∧ (r.tile t) = { x with held := true }
        ∧ ∀ w, w ≠ t → r.tile w = s.tile w)
    ∧ (¬ hold → ∃ r, exec (.tileHoldRelease t) s = .next r ∧ (r.tile t) = { x with held := false }
        ∧ ∀ w, w ≠ t → r.tile w = s.tile w)
    ∧ (∀ m pass c, x.still = false → nextPreload x.arr = some (m, pass, c) → c ≤ x.arr.clk → passCheck s t m pass = none →
        x.arr.wbufBad = [] → ∃ r p, exec (.decompressorPreload t) s = .next r ∧ (r.tile t).arr.preload = some p
          ∧ p.slot = (m.slot + pass) % 4 ∧ p.toks = (x.arr.slotOf ((m.slot + pass) % 4)).toks ∧ p.pair = m.pair
          ∧ (r.tile t).arr.acc = x.arr.acc ∧ (r.tile t).ctx = x.ctx ∧ ∀ a, r.byte a = s.byte a)
    ∧ (∀ m rest ready p, x.still = false → x.arr.unfed = m :: rest → m.pre = some ready → m.started = false →
        m.failed = false → ready ≤ x.arr.clk → (0 < m.pass → m.startT + m.m ≤ x.arr.clk) → x.arr.preload = some p →
        ∃ r, exec (.passStart t) s = .next r ∧ (r.tile t).arr.resident = some p ∧ (r.tile t).arr.preload = none
          ∧ (r.tile t).arr.acc = x.arr.acc ∧ (r.tile t).ctx = x.ctx ∧ ∀ a, r.byte a = s.byte a)
    ∧ (∀ m l g slot p, x.still = false → rowDue x = some m → rowTokens s t m = some l → m.arr = some (g, slot) →
        x.arr.resident = some p →
        let scales := (l.map fun q => match q.2 with
          | some b => rowScales m.pair m.rows b
          | none => []).flatten
        ∃ r c, exec (.aRowAccept t) s = .next r
          ∧ (r.tile t).arr.contribs = x.arr.contribs ++ [c] ∧ c.mma = m.id ∧ c.pass = m.pass
          ∧ c.row = (if m.ds then m.row0 + m.pass * m.m + m.rows else m.row0 + m.rows)
          ∧ c.sums = rowSums p (rowNum (l.map (·.1))) scales ∧ c.base = x.arr.clk ∧ c.left = List.range 128
          ∧ c.add = (!m.ds && (decide (m.pass > 0) || m.acc)) ∧ (r.tile t).arr.acc = x.arr.acc
          ∧ (r.tile t).ctx = x.ctx ∧ ∀ a, r.byte a = s.byte a)

/-- A matrix operation is complete when every row has been accepted and every sum has landed, and a weight load when
every WLD has delivered its last token: the operation and its tag are then over, and the slot is valid or invalid by
the checks of R182, or empty where the load was of a block that has been discarded. -/
def Sys2Proof.Claim.matrixAndWeightOperationsEnd : Prop :=
  ∀ (s : State) (t id slot : Nat), let x := s.tile t
    let w := tget ({} : WSlot) x.arr.slots slot
    (∀ m, (x.arr.mmas.find? fun m => m.id == id) = some m → m.fed = true → (∀ c ∈ x.arr.contribs, c.mma ≠ id) →
        ∃ r, exec (.mmaComplete t id) s = .next r ∧ ((r.tile t).arr.mmas.find? fun m => m.id == id) = none
          ∧ (∀ o, m.op = some o → opOf (r.tile t).ctx o = none) ∧ (r.tile t).arr.acc = x.arr.acc
          ∧ (r.tile t).ctx.s = x.ctx.s ∧ (r.tile t).ctx.v = x.ctx.v ∧ ∀ a, r.byte a = s.byte a)
    ∧ (w.st = 1 → (∀ j, j < 4 → tget 0 w.eos j ≠ 0) → w.discard = false → ∃ r, exec (.weightImageComplete t slot) s = .next r
          ∧ (tget ({} : WSlot) (r.tile t).arr.slots slot).st = (if imgFail w.toks w.got = 0 then 2 else 3)
          ∧ (tget ({} : WSlot) (r.tile t).arr.slots slot).fail = imgFail w.toks w.got
          ∧ (tget ({} : WSlot) (r.tile t).arr.slots slot).toks = w.toks
          ∧ (∀ o, w.op = some o → opOf (r.tile t).ctx o = none) ∧ (r.tile t).arr.acc = x.arr.acc
          ∧ (r.tile t).ctx.s = x.ctx.s ∧ (r.tile t).ctx.v = x.ctx.v ∧ ∀ a, r.byte a = s.byte a)
    ∧ (w.st = 1 → (∀ j, j < 4 → tget 0 w.eos j ≠ 0) → w.discard = true → ∃ r, exec (.weightImageComplete t slot) s = .next r
          ∧ (tget ({} : WSlot) (r.tile t).arr.slots slot).st = 0 ∧ (tget ({} : WSlot) (r.tile t).arr.slots slot).toks = []
          ∧ (r.tile t).arr.acc = x.arr.acc ∧ ∀ a, r.byte a = s.byte a)

/-- Registers of the array: DCCLR clears RSVCNT; ARRMAP and ACCSPARE take their writable bits while no task is
dispatched, and ignore a write while one is; a failed self-check of the array raises control-class cause 0x35. -/
def Sys2Proof.Claim.arrayRegisters : Prop :=
  ∀ (s : State) (t row : Nat) (v : W64),
    (∃ r, exec (.dcclr t) s = .next r ∧ (r.tile t) = { s.tile t with arr := { (s.tile t).arr with rsvcnt := 0 } })
    ∧ ((s.tile t).task = none → (∃ r, exec (.arrmapWrite t v) s = .next r ∧ (r.tile t).arr.arrmap = v &&& 0x9F9F9F9F
          ∧ (r.tile t).arr.acc = (s.tile t).arr.acc ∧ ∀ a, r.byte a = s.byte a)
        ∧ ∃ r, exec (.accspareWrite t v) s = .next r ∧ (r.tile t).arr.accspare = v &&& 0xFFFF
          ∧ (r.tile t).arr.acc = (s.tile t).arr.acc ∧ ∀ a, r.byte a = s.byte a)
    ∧ ((s.tile t).task.isSome → exec (.arrmapWrite t v) s = .next s ∧ exec (.accspareWrite t v) s = .next s)
    ∧ ((s.tile t).shadow.queue.length < 8 → ∃ (r : State) (f : CFault), exec (.arrayCheck t row) s = .next r
        ∧ (r.tile t).shadow.queue = (s.tile t).shadow.queue ++ [f] ∧ f.fr.cause = 0x35 ∧ f.fr.tile = t
        ∧ (r.tile t).ctx = (s.tile t).ctx ∧ ∀ a, r.byte a = s.byte a)

/-- Matrix operations and weight loads end, and the array's registers are written (R182, R192, R202, R206, R224, R373). -/
def Obligations.MatrixOperationsAndArrayRegisters : Prop := Claim.matrixAndWeightOperationsEnd ∧ Claim.arrayRegisters

/-! ### Slot B: the collar, engine commands, tokens, the decoder, barriers, and leaving the stream (R288-R305) -/

/-- The acting task owns region `r` of its tile, as `g` (R288). -/
def Sys2Proof.Claim.owns (s : State) (r : BitVec 2) (g : Region) : Prop :=
  s.cur.shadow = false ∧ myRegion s r = some g

/-- Registers, the accumulator store and memory read as before. -/
def Sys2Proof.Claim.sameValues (s t : State) : Prop :=
  (∀ a, t.byte a = s.byte a) ∧ t.ctx.s = s.ctx.s ∧ t.ctx.v = s.ctx.v ∧ t.ctx.m = s.ctx.m ∧ t.ctx.loops = s.ctx.loops
  ∧ t.me.sys = s.me.sys ∧ t.me.arr.acc = s.me.arr.acc

/-- fire with SRC sends a start, due two cycles on, to each source element of the slot; ARR sets the array context;
DRN queues a drain of the rows its register names. A slot that is not armed raises CFG_STATE (R288, R289). -/
def Obligations.FireStartsAndDrains : Prop :=
  ∀ (s : State) (rgn cslot : BitVec 2) (arr src dr dom : Bool) (b : Reg) (g : Region), Claim.owns s rgn g →
    Claim.readable s b →
    let c := s.collar s.cur.unit
    let a := s.me.arr
    let slot := cslot.toNat
    let es := if src then startElems s g slot else []
    let ctx := if arr then some (rgn.toNat, slot) else a.ctx
    let first := (Claim.val s b).toNat % 2 ^ 11
    let count := (Claim.val s b).toNat / 2 ^ 16 % 2 ^ 11 + 1
    (g.armed.contains slot = true → (arr = true → arrOk c rgn.toNat = true) →
      (dr = true → ctx.isSome ∧ a.winBad = false ∧ first + count ≤ 16 * a.winCount ∧ a.drains.length < 2) →
      startFull s slot es = false → (src = true → fenceBlocks s.ctx 8 = false) →
      ∃ t, exec (.fire rgn cslot arr src dr dom b) s = .next t ∧ t.me.arr.ctx = ctx
        ∧ (∃ new, (t.collar s.cur.unit).starts = c.starts ++ new ∧ new.map (·.elem) = es
            ∧ ∀ x ∈ new, x.slot = slot ∧ x.at' = s.cycle + 2 ∧ x.dom = if dom then 1 else 0)
        ∧ (dr = false → t.me.arr.drains = a.drains)
        ∧ (dr = true → ∃ d, t.me.arr.drains = a.drains ++ [d] ∧ d.first = 16 * a.winBase + first ∧ d.cnt = count
            ∧ d.arr = ctx ∧ d.dom = dom)
        ∧ Claim.sameValues s t ∧ ∀ w, w ≠ s.cur.unit → t.tile w = s.tile w)
    ∧ (g.armed.contains slot = false → Claim.canFault s → Claim.faults (.fire rgn cslot arr src dr dom b) s 0x26)

/-- cfgs queues a load of an image into a plane of the slot; cfgw and cfgp start a switch to the plane a load has
staged, whole or partial as its image was; the operation's tag is busy until they complete (R127, R130-R132, R291,
R292). A region the task does not own raises CFG_STATE. -/
def Obligations.ConfigurationInstructionsIssue : Prop :=
  ∀ (s : State) (rgn cslot plane : BitVec 2) (img : BitVec 5) (g : Region), 
    (Claim.owns s rgn g → ∃ (t : State) (l : CfgLoad) (o : Op), exec (.cfgs rgn cslot plane img) s = .next t
        ∧ (t.collar s.cur.unit).loads = (s.collar s.cur.unit).loads ++ [l] ∧ l.rgn = rgn.toNat ∧ l.slot = cslot.toNat
        ∧ l.plane = plane.toNat ∧ l.img = img.toNat ∧ l.op = some o.id ∧ t.ctx.ops = s.ctx.ops ++ [o] ∧ o.kind = .cfg
        ∧ Claim.sameValues s t ∧ ∀ w, w ≠ s.cur.unit → t.tile w = s.tile w)
    ∧ (Claim.owns s rgn g → (∀ w ∈ g.switches, w.slot ≠ cslot.toNat) → thas g.staged cslot.toNat = true →
        ∃ (t : State) (w : Switch) (o : Op),
        exec (if (tget (0, false) g.staged cslot.toNat).2 then .cfgp rgn cslot else .cfgw rgn cslot) s = .next t
        ∧ ((t.collar s.cur.unit).region rgn.toNat).switches = g.switches ++ [w] ∧ w.slot = cslot.toNat
        ∧ w.to' = (tget (0, false) g.staged cslot.toNat).1 ∧ w.partial' = (tget (0, false) g.staged cslot.toNat).2
        ∧ w.op = some o.id ∧ w.arrive = s.cycle + 2 ∧ t.ctx.ops = s.ctx.ops ++ [o] ∧ o.kind = .cfg
        ∧ Claim.sameValues s t ∧ ∀ w, w ≠ s.cur.unit → t.tile w = s.tile w)
    ∧ (Claim.canFault s → myRegion s rgn = none → ∀ i ∈ [Instr.cfgs rgn cslot plane img, .cfgw rgn cslot, .cfgp rgn cslot],
        Claim.faults i s 0x26)

/-- copy, netr, netw, stgr and stgw hand a command over: the 64 bytes at the block address are read, the instruction's
token in place of the block's TKP; the engine takes the command into its queue and the token becomes PENDING, and no
other token, tile or byte of memory changes. A command whose block R84 rejects is queued to end FAILED with ENGINE_CMD. A
token that is PENDING raises TOKEN_STATE, and a block address that is no multiple of 64 raises ENGINE_CMD: both are
faults of the bundle, which takes no effect (R83-R85, R92, R293). -/
def Obligations.EngineCommandsAreAccepted : Prop :=
  ∀ (s s1 : State) (a : Reg) (tk : BitVec 6) (off : BitVec 9) (b : List Byte), s.cur.shadow = false →
    Claim.readable s a →
    let va := (((Claim.val s a).toNat + off.toInt * 64) % 2 ^ 64).toNat
    let n := s.myTask
    let blk := withTk b tk.toNat
    let forms : List (Instr × Eng × List Nat) := [(.copy a tk off, copyEngine s blk, [1, 2, 3]), (.netr a tk off, .eth, [4]),
      (.netw a tk off, .eth, [5]), (.stgr a tk off, .eth, [6]), (.stgw a tk off, .eth, [7])]
    (va % 64 = 0 → (s.token n tk.toNat).st ≠ 1 → fenceBlocks s.ctx 4 = false → storePending s.ctx (va, 64) = false →
      (∀ o ∈ s.ctx.ops, o.kind.acquires = false) → (∀ u, (s.collar u).fly = []) →
      tileRead s s.cur.unit (.task n) 3 0 va 64 pRD 4 4 = (.ok b, s1) → b.length = 64 →
      storePending s.ctx (natOfBytes ((blk.drop 8).take 8), 128) = false → ∀ p ∈ forms, engFree s p.2.1 = true →
      (∀ d ∈ (s.eng p.2.1).q, d.id < s.mod.nextCmd) →
      ∃ (t : State) (c : Cmd), exec p.1 s = .next t ∧ (t.eng p.2.1).q = (s.eng p.2.1).q ++ [c] ∧ c.block = blk
        ∧ c.task = some n ∧ c.tile = s.cur.unit ∧ c.tkp = tk.toNat ∧ (t.token n tk.toNat).st = 1
        ∧ (∀ k, k ≠ tk.toNat → t.token n k = s.token n k) ∧ (∀ x, t.byte x = s.byte x) ∧ t.tiles = s.tiles
        ∧ (blockBad s1 blk p.2.2 = true → ∃ w, c.st = .ending w ∧ w.toNat % 4 = 3 ∧ w.toNat / 2 ^ 8 % 2 ^ 6 = 0x16))
    ∧ (Claim.canFault s → va % 64 = 0 → (s.token n tk.toNat).st = 1 → ∀ p ∈ forms, Claim.faults p.1 s 0x0D)
    ∧ (Claim.canFault s → va % 64 ≠ 0 → ∀ p ∈ forms, Claim.faults p.1 s 0x16)

/-- tkw is issued and waits for its token; tkq writes the status word three tile cycles on, and with CLR a token that
is DONE or FAILED becomes FREE (R294). No other token and no memory changes. -/
def Sys2Proof.Claim.tokenWaitAndQuery : Prop :=
  ∀ (s : State) (d : Reg) (tk : BitVec 6) (clr : Bool), s.cur.shadow = false →
    Claim.issuesOp (.tkw d tk clr) s (.tkw d.toNat tk.toNat clr)
    ∧ ∃ (t : State) (p : Pend), exec (.tkq d tk clr) s = .next t ∧ t.ctx.pend = s.ctx.pend ++ [p] ∧ p.dest = .s d.toNat
      ∧ p.val = (s.token s.myTask tk.toNat).word.toNat ∧ p.bound = s.now + 3
      ∧ t.token s.myTask tk.toNat = (if clr = true ∧ 2 ≤ (s.token s.myTask tk.toNat).st then {} else s.token s.myTask tk.toNat)
      ∧ (∀ k, k ≠ tk.toNat → t.token s.myTask k = s.token s.myTask k) ∧ (∀ n, n ≠ s.myTask → t.task n = s.task n)
      ∧ Claim.sameValues s t

/-- A tkw completes when its token is not PENDING: d takes the status word, and with CLR a token that is DONE or
FAILED becomes FREE (R294). -/
def Sys2Proof.Claim.tokenWaitCompletes : Prop :=
  ∀ (s : State) (t id d tk : Nat) (clr : Bool) (o : Op), opOf (s.tile t).ctx id = some o → o.kind = .tkw d tk clr →
    o.st = .waiting → tget 0 (s.tile t).ctx.lastW (destKey (.s d)) ≤ o.ord →
    let n := (s.tile t).task.getD 0
    (s.token n tk).st ≠ 1 → ∃ r, exec (.loadDataReturn t id) s = .next r
      ∧ (∀ k, (r.tile t).ctx.getS k = if k = d ∧ k ≠ 0 then (s.token n tk).word else (s.tile t).ctx.getS k)
      ∧ r.token n tk = (if clr = true ∧ 2 ≤ (s.token n tk).st then {} else s.token n tk)
      ∧ opOf (r.tile t).ctx id = none ∧ (r.tile t).ctx.v = (s.tile t).ctx.v ∧ ∀ a, r.byte a = s.byte a

/-- At the completion of a phase each member gets the covered writes of those that released to it whom its scope of the
membership set holds, judged then, and no others (R336, R343). -/
def Sys2Proof.Claim.phaseReleases (s : State) (x : Barrier) (given : List (Nat × List WId)) : Prop :=
  given.map (·.1) = x.members ∧ ∀ r ∈ given, ∀ w, w ∈ r.2 ↔ ∃ c ∈ x.covs, w ∈ c.ws
    ∧ holdsAt s (some (if c.task ∈ x.members then (s.task c.task).tile else c.tile))
        (memberScope s r.1 (memberTiles s x)) (.task c.task) = true

/-- Barriers: bjoin makes the task a member, bleave ends that, barv makes it arrive in the current phase once its
earlier accesses have been performed, releasing what it has written, read and acquired; bwait goes on unless the phase it
last arrived in is still open, and acquires what that phase's completion gave it. Misuse raises BARRIER_STATE (R301): joining twice, a seventeenth, a second step group or the other kind; leaving, arriving or
waiting as no member; arriving twice, or by barv in a step group. A phase is complete in the first cycle in which every member has arrived; it opens the
next with no arrivals, each member to acquire what the tasks its scope holds released. -/
def Sys2Proof.Claim.barrierInstructions : Prop :=
  ∀ (s : State) (home : BitVec 6) (id : Byte) (step : Bool), Claim.plainTask s →
    let b := home.toNat * 256 + id.toNat
    let n := s.myTask
    let k := s.task n
    let x := s.bar b
    let same (t : State) : Prop := Claim.sameValues s t ∧ (∀ c, c ≠ b → t.bar c = s.bar c) ∧ t.tiles = s.tiles
    let mayJoin : Prop := n ∉ x.members ∧ k.barriers.length < 16 ∧ (step = true → k.stepGroup = none)
      ∧ (x.members ≠ [] → x.step = step)
    (mayJoin → ∃ t, exec (.bjoin home id step) s = .next t ∧ (t.bar b).members = x.members ++ [n]
        ∧ (t.bar b).arrived = x.arrived ∧ (t.bar b).phase = x.phase ∧ (step = true → (t.task n).stepGroup = some b) ∧ same t)
    ∧ (n ∈ x.members → accessPending s.ctx = false → ∃ t, exec (.bleave home id) s = .next t
        ∧ (t.bar b).members = x.members.erase n ∧ (∀ m ∈ (t.bar b).arrived, m ∈ x.arrived)
        ∧ (k.stepGroup = some b → (t.task n).stepGroup = none) ∧ same t)
    ∧ (n ∈ x.members → n ∉ x.arrived → x.step = false → accessPending s.ctx = false →
        ∃ t c, exec (.barv home id) s = .next t ∧ (t.bar b).arrived = x.arrived ++ [n] ∧ (t.bar b).members = x.members
          ∧ (t.bar b).phase = x.phase ∧ (t.bar b).covs = x.covs ++ [c] ∧ c.task = n ∧ c.tile = k.tile
          ∧ c.ws = (s.ag (.task n)).floor ∧ same t)
    ∧ (n ∈ x.members → thas k.arrived b = false → exec (.bwait home id) s = .next s)
    ∧ (n ∈ x.members → thas k.arrived b = true → tget 0 k.arrived b < x.phase → ∃ t, exec (.bwait home id) s = .next t
        ∧ t.bar b = x ∧ same t ∧ ∀ r ∈ x.doneCov, r.1 = n → ∀ w ∈ r.2, w ∈ (t.ag (.task n)).floor)
    ∧ (Claim.canFault s → (¬ mayJoin → Claim.faults (.bjoin home id step) s 0x05)
        ∧ (n ∉ x.members → Claim.faults (.bleave home id) s 0x05 ∧ Claim.faults (.bwait home id) s 0x05)
        ∧ (n ∉ x.members ∨ n ∈ x.arrived ∨ x.step = true → Claim.faults (.barv home id) s 0x05))
    ∧ (x.step = false → x.members ≠ [] → (∀ m ∈ x.members, m ∈ x.arrived) → ∃ t,
        exec (.barrierPhaseComplete b) s = .next t ∧ (t.bar b).phase = x.phase + 1 ∧ (t.bar b).arrived = []
          ∧ (t.bar b).members = x.members ∧ Claim.phaseReleases s x (t.bar b).doneCov ∧ same t)

/-- The bytes of the send blocks of the members of a ring stand in their successors' receive blocks, and no other byte of
memory has changed: each is what its member read there before any was written, the byte memory holds or that of another
write of its location that R333 still lets it read. No byte lies in two receive blocks. -/
def Sys2Proof.Claim.rotsMoveBlocks (s t : State) (ring : List Nat) : Prop :=
  let from' (m : Nat) : List Nat := ((s.task m).rots.map fun r => (List.range r.2.2).map (r.1 + ·)).flatten
  let into (m : Nat) : List Nat := ((s.task m).rots.map fun r => (List.range r.2.2).map (r.2.1 + ·)).flatten
  (ring.map into).flatten.Nodup →
  (∀ i, i < ring.length → ∀ m n, ring[i]? = some n → ring[(i + 1) % ring.length]? = some m →
    ∀ j a b : Nat, (from' n)[j]? = some a → (into m)[j]? = some b →
      t.byte b = s.byte a ∨ ∃ w ∈ tget [] s.mem.hist a, t.byte b = w.val)
  ∧ ∀ b, b ∉ (ring.map into).flatten → t.byte b = s.byte b

/-- step makes the member arrive, with what it has written, read and acquired, and goes on once the phase it arrived in is
over, with what that phase gave it;
outside a step group, and where every member has arrived and their rots do not match, it raises STEP_MISMATCH. The step
is complete once every member has arrived, their rots match, no counted operation of any still runs, and the banks of
the rots grant their lines: that opens the next phase, moves each member's send block into its successor's receive block
and clears what each had counted. A step without a rot leaves every byte of memory as it was (R111-R113; that members of
one tile stand in the ring in the order they joined is log entry 104). -/
def Sys2Proof.Claim.stepGroupsAdvance : Prop :=
  ∀ (s : State) (b : Nat), Claim.plainTask s →
    let n := s.myTask
    let k := s.task n
    let x := s.bar b
    (k.stepGroup = some b → thas k.arrived b = true → tget 0 k.arrived b < x.phase → ∃ t, exec .step s = .next t
        ∧ t.task n = { k with arrived := tdel k.arrived b } ∧ t.bar b = x ∧ Claim.sameValues s t
        ∧ (∀ r ∈ x.doneCov, r.1 = n → ∀ w ∈ r.2, w ∈ (t.ag (.task n)).floor) ∧ t.tiles = s.tiles)
    ∧ (k.stepGroup = some b → thas k.arrived b = false → x.members ≠ [] → accessPending s.ctx = false → ∃ t c, exec .step s = .next t
        ∧ t.cur.iss = .wait ∧ (t.bar b).arrived = x.arrived ++ [n] ∧ (t.bar b).covs = x.covs ++ [c] ∧ c.task = n
        ∧ c.ws = (s.ag (.task n)).floor ∧ (t.bar b).phase = x.phase ∧ Claim.sameValues s t)
    ∧ (k.stepGroup = none → Claim.canFault s → Claim.faults .step s 0x0E)
    ∧ (k.stepGroup = some b → thas k.arrived b = true → tget 0 k.arrived b = x.phase →
        x.arrived.length = x.members.length → rotMismatch s x = true → Claim.canFault s → Claim.faults .step s 0x0E)
    ∧ (∀ s1, x.step = true → x.members ≠ [] → (∀ m ∈ x.members, m ∈ x.arrived ∧ countedPending s m = false) →
        rotMismatch s x = false → rotBanks s x = (true, s1) → ∃ t, exec (.stepComplete b) s = .next t
        ∧ (t.bar b).phase = x.phase + 1 ∧ (t.bar b).arrived = [] ∧ (t.bar b).members = x.members
        ∧ (∀ m ∈ x.members, (t.task m).countedCmds = [] ∧ (t.task m).rots = [] ∧ (t.task m).rotTwice = false)
        ∧ ((∀ m ∈ x.members, (s.task m).rots = []) → ∀ a, t.byte a = s.byte a)
        ∧ (s.mem.wf = true → (∀ u, (s.collar u).fly = []) →
          (∀ m ∈ x.members, ∀ r ∈ (s.task m).rots, (place r.1).isMem = true ∧ (place r.2.1).isMem = true) →
          Claim.rotsMoveBlocks s t (ringOf s x)))

/-- rot of a member of a step group records its send and receive blocks and writes no byte; a second one in a phase is
recorded as such, for the step to find. Out of a step group, with a length that is no multiple of 64 bytes, 0 or above
1 MiB, or with a block that does not lie in one bank of the member's slice, it raises STEP_MISMATCH (R112, R113, R295). -/
def Obligations.RotationIsRecorded : Prop :=
  ∀ (s s1 s2 : State) (d a b : Reg) (ps qs : List (Nat × Nat)), Claim.plainTask s → Claim.readable s d →
    Claim.readable s a → Claim.readable s b →
    let len := (Claim.val s d).toNat
    let src := (Claim.val s a).toNat
    let dst := (Claim.val s b).toNat
    let k := s.mine
    let bad : Prop := k.stepGroup = none ∨ len % 64 ≠ 0 ∨ len = 0 ∨ 0x100000 < len
    let reads : Prop := fenceBlocks s.ctx 4 = false ∧ storePending s.ctx (src, len) = false
      ∧ tilePieces s s.cur.unit 3 1 src len pRD false = (.ok ps, s1)
      ∧ tilePieces s1 s.cur.unit 3 2 dst len pWR false = (.ok qs, s2)
    let banks : Prop := oneBank s.cur.unit ps = true ∧ oneBank s.cur.unit qs = true
    (¬ bad → reads → banks → ∃ t, exec (.rot d a b) s = .next t
        ∧ t.task s.myTask = (if k.rots = [] then { k with rots := zipPieces 32 ps qs } else { k with rotTwice := true })
        ∧ (∀ x, t.byte x = s.byte x) ∧ t.tiles = s.tiles ∧ ∀ n, n ≠ s.myTask → t.task n = s.task n)
    ∧ (bad → Claim.canFault s → Claim.faults (.rot d a b) s 0x0E)
    ∧ (¬ bad → reads → ¬ banks → Claim.canFault s → ∃ (t : State) (f : CFault), exec (.rot d a b) s = .next t
        ∧ t.cur.iss = .fault ∧ t.me.shadow.queue = s.me.shadow.queue ++ [f] ∧ f.fr.cause = 0x0E
        ∧ f.fr.pos = s.cur.bpc.toNat ∧ t.ctx = s.ctx ∧ t.tasks = s.tasks ∧ ∀ x, t.byte x = s.byte x)

/-- The decoder: dcfg starts a stream at an 8-byte-aligned address, and raises MISALIGN at another. dpop takes the FIFO's
first vector, landing three tile cycles on, and zero where no stream runs or it is at its end; a bad block or a failed
read raises its cause at the dpop that needs it, and is read anew for the next. A fill moves the next vector of the block
read into the FIFO; with none left it reads the next block, whose header gives the vectors, the payload's length and no
reserved bit, within the ratio, the bytes left and the payload's records, and any other block is bad with DECODE_RATIO
(R298, R299). -/
def Obligations.DecoderStream : Prop :=
  ∀ (s s1 s2 : State) (d a b : Reg) (rmax : BitVec 6) (t : Nat) (h y : List Byte),
    let k := s.me.dec
    let f := (s.tile t).dec
    let w := natOfBytes h
    let nv := w % 64 + 1
    let plen := w / 2 ^ 16 % 2 ^ 16
    let size := (8 + plen + 7) / 8 * 8
    let headOk : Prop := nv * 128 ≤ f.rmax * (8 + plen) ∧ w / 2 ^ 6 % 2 ^ 10 = 0 ∧ w / 2 ^ 32 % 2 ^ 32 = 0 ∧ size ≤ f.left
    let reads : Prop := f.on = true ∧ f.bad = none ∧ f.fifo.length < 16 ∧ f.block = [] ∧ 8 ≤ f.left
      ∧ (∀ u, (s.collar u).fly = [])
      ∧ tileRead s t (.task ((s.tile t).task.getD 0)) 6 0 f.addr.toNat 8 pRD 4 = (.ok h, s1)
    let same (r : State) : Prop := (r.tile t).ctx = (s.tile t).ctx ∧ (∀ w, w ≠ t → r.tile w = s.tile w) ∧ ∀ x, r.byte x = s.byte x
    (s.cur.shadow = false → Claim.readable s a → Claim.readable s b →
      ((Claim.val s a).toNat % 8 = 0 → ∃ r, exec (.dcfg a b rmax) s = .next r ∧ r.me.dec.on = true
        ∧ r.me.dec.addr = Claim.val s a ∧ r.me.dec.left = (Claim.val s b).toNat ∧ r.me.dec.rmax = rmax.toNat
        ∧ r.me.dec.fifo = [] ∧ r.me.dec.block = [] ∧ r.me.dec.bad = none ∧ r.me.ctx = s.me.ctx ∧ Claim.elsewhere s r)
      ∧ (Claim.canFault s → (Claim.val s a).toNat % 8 ≠ 0 → Claim.faults (.dcfg a b rmax) s 0x13))
    ∧ (s.cur.shadow = false →
      (∀ v rest, k.fifo = v :: rest → ∃ (r : State) (p : Pend), exec (.dpop d) s = .next r ∧ r.me.dec.fifo = rest
        ∧ r.ctx.pend = s.ctx.pend ++ [p] ∧ p.dest = .v d.toNat ∧ p.val = v.toNat ∧ p.bound = s.now + 3
        ∧ Claim.sameRegs s.ctx r.ctx ∧ Claim.elsewhere s r)
      ∧ (k.fifo = [] → k.bad = none → k.on = false ∨ (k.block = [] ∧ k.left = 0) → ∃ (r : State) (p : Pend),
        exec (.dpop d) s = .next r ∧ r.ctx.pend = s.ctx.pend ++ [p] ∧ p.dest = .v d.toNat ∧ p.val = 0 ∧ p.bound = s.now + 3
        ∧ Claim.sameRegs s.ctx r.ctx ∧ Claim.elsewhere s r)
      ∧ (∀ c va, k.fifo = [] → k.bad = some (c, va) → Claim.canFault s → ∃ (r : State) (g : CFault),
        exec (.dpop d) s = .next r ∧ r.cur.iss = .fault ∧ r.me.shadow.queue = s.me.shadow.queue ++ [g]
        ∧ g.fr.cause = c ∧ g.fr.pos = s.cur.bpc.toNat ∧ r.me.dec.bad = none ∧ r.ctx = s.ctx ∧ Claim.elsewhere s r))
    ∧ (∀ v rest, f.on = true → f.bad = none → f.fifo.length < 16 → f.block = v :: rest → ∃ r,
        exec (.decoderFill t) s = .next r ∧ (r.tile t).dec = { f with fifo := f.fifo ++ [v], block := rest } ∧ same r)
    ∧ (reads → headOk → tileRead s1 t (.task ((s.tile t).task.getD 0)) 6 1 (f.addr.toNat + 8) plen pRD 4 = (.ok y, s2) →
        recordsLen nv y = plen → ∃ r, exec (.decoderFill t) s = .next r ∧ same r ∧ (r.tile t).dec = { f with
          block := decodeRecords nv y, addr := f.addr + BitVec.ofNat 64 size, left := f.left - size })
    ∧ (reads → (¬ headOk ∨ tileRead s1 t (.task ((s.tile t).task.getD 0)) 6 1 (f.addr.toNat + 8) plen pRD 4 = (.ok y, s2)
          ∧ recordsLen nv y ≠ plen) →
        ∃ r, exec (.decoderFill t) s = .next r ∧ same r ∧ (r.tile t).dec = { f with bad := some (0x0C, f.addr.toNat) })

/-- nop of slot B changes nothing; a task's done and yield leave every value and make the tile wait, for the task's end or
for the tokens that a register names; sys stops the task with SYS_CALL, the record holding the bundle's PC and the
service number, while slot A keeps its effect (R220, R302, R303, R305). -/
def Obligations.LeavingTheBundleStream : Prop :=
  ∀ (s : State) (a d : Reg) (any : Bool) (svc : BitVec 20), exec .nopB s = .next s ∧
    (s.cur.shadow = false → Claim.readable s a →
      (∃ t, exec .done s = .next t ∧ t.me.doneWait = true ∧ t.me.ctx = s.me.ctx ∧ Claim.sameTile s.me t.me
          ∧ Claim.elsewhere s t)
      ∧ ∃ t, exec (.yield a any) s = .next t ∧ t.me.parkWait = some (.tokens (Claim.val s a) any)
          ∧ t.me.ctx = s.me.ctx ∧ Claim.sameTile s.me t.me ∧ Claim.elsewhere s t)
    ∧ (Claim.canFault s → ∃ (t : State) (f : CFault), exec (.sys d svc) s = .next t
        ∧ t.me.shadow.queue = s.me.shadow.queue ++ [f] ∧ f.fr.cause = 0x06 ∧ f.fr.pos = s.cur.bpc.toNat
        ∧ f.fr.detail = svc.toNat ∧ t.cur.iss = s.cur.iss ∧ t.me.ctx = s.me.ctx ∧ Claim.elsewhere s t)

/-- tkw and tkq: the issue of both, what a query answers, and when a wait completes. -/
def Obligations.TokenWaits : Prop := Claim.tokenWaitAndQuery ∧ Claim.tokenWaitCompletes

/-- bjoin, bleave, barv, bwait and step: membership, arrival, waiting, and the completion of phases and steps. -/
def Obligations.BarriersAndStepGroups : Prop := Claim.barrierInstructions ∧ Claim.stepGroupsAdvance

/-! ### Weight-driven execution (R304, R307-R325) -/

/-- The target of a link of the block at the engine's WPC: LINK × 256 bytes on, modulo 2^64 (R310). -/
def Sys2Proof.Claim.target (s : State) (l : W64) : Nat := ((s.me.wd.wpc + l.toInt * 256) % 2 ^ 64).toNat

/-- The block takes effect: the chain goes on at `n`, one more block is counted, and the block leaves the read-ahead;
general registers and memory read as before (R314). -/
def Sys2Proof.Claim.chainGoes (s t : State) (n : Nat) : Prop :=
  t.me.wd.wpc = n ∧ t.me.wd.ahead = s.me.wd.ahead.drop 1 ∧ t.me.wd.blocks = (s.me.wd.blocks + 1) % 2 ^ 32
  ∧ t.me.wd.wait = false ∧ t.me.wd.mid = false ∧ t.me.ctx = s.me.ctx ∧ t.me.sys = s.me.sys ∧ t.me.arr.acc = s.me.arr.acc
  ∧ (∀ a, t.byte a = s.byte a) ∧ ∀ u, u ≠ s.cur.unit → t.tile u = s.tile u

/-- The chain's own opcodes: W.NOP goes on at LINK0; W.BR consumes the pennant at the head of the queue it names and
chooses by it; W.CALL pushes LINK0's target and W.RET pops it; W.SYNC passes a token that is FREE or DONE, and acquires
what a DONE one covers; W.SCALE loads the frame; W.END ends the mode when the passes and drains of the mode are over
(R317, R320). -/
def Obligations.ChainBlocksTakeEffect : Prop :=
  ∀ (s : State) (l m : W64) (ctx psrc : BitVec 2) (pnot clr : Bool) (tk : BitVec 6),
    Claim.target s l < 2 ^ 52 → Claim.target s m < 2 ^ 52 →
    let w := s.me.wd
    let e := wldElem psrc.toNat
    let c := s.collar s.cur.unit
    (∃ t, exec (.wNop l) s = .next t ∧ Claim.chainGoes s t (Claim.target s l) ∧ t.me.wd.links = w.links)
    ∧ (∀ rgn sl p q rest, s.me.arr.ctx = some (rgn, sl) → (c.elem e).curOf ctx.toNat = some p →
        (c.region rgn).armed.contains ctx.toNat = true → ((c.elem e).plane p).opcode = 0x43 →
        ((c.elem e).plane p).eop.pg = false → ((c.elem e).plane p).qp = q :: rest →
        ∃ t, exec (.wBr ctx psrc pnot l m) s = .next t
          ∧ Claim.chainGoes s t (if q.val = pnot then Claim.target s l else Claim.target s m)
          ∧ (t.planeOf s.cur.unit e p).qp = rest)
    ∧ (w.links.length < 4 → ∃ t, exec (.wCall l m) s = .next t ∧ Claim.chainGoes s t (Claim.target s m)
        ∧ t.me.wd.links = w.links ++ [Claim.target s l])
    ∧ (∀ ls n, w.links = ls ++ [n] → ∃ t, exec .wRet s = .next t ∧ Claim.chainGoes s t n ∧ t.me.wd.links = ls)
    ∧ ((s.token s.myTask tk.toNat).st = 0 ∨ (s.token s.myTask tk.toNat).st = 2 → ∃ t, exec (.wSync tk clr l) s = .next t
        ∧ Claim.chainGoes s t (Claim.target s l)
        ∧ t.token s.myTask tk.toNat
            = (if (s.token s.myTask tk.toNat).st = 2 ∧ clr = true then {} else s.token s.myTask tk.toNat)
        ∧ ((s.token s.myTask tk.toNat).st = 2 → ∀ w ∈ (s.token s.myTask tk.toNat).cov,
            w ∈ (t.ag (.task s.myTask)).floor))
    ∧ (∀ b rest, w.ahead = b :: rest → b.frame ≠ [] → frameOk b.frame = true → ∃ t, exec (.wScale l) s = .next t
        ∧ Claim.chainGoes s t (Claim.target s l) ∧ t.me.wd.row0 = natOfBytes (b.frame.take 4)
        ∧ t.me.wd.m = natOfBytes ((b.frame.drop 4).take 4) ∧ t.me.wd.dfirst = natOfBytes ((b.frame.drop 8).take 2)
        ∧ t.me.wd.dcnt = natOfBytes ((b.frame.drop 10).take 2)
        ∧ t.me.wd.dom = (natOfBytes ((b.frame.drop 12).take 1)).testBit 0)
    ∧ (wdBusy s.me = false → ∃ t, exec .wEnd s = .next t ∧ t.me.wd.on = false ∧ t.me.ctx = s.me.ctx
        ∧ t.me.arr.acc = s.me.arr.acc ∧ (∀ a, t.byte a = s.byte a) ∧ ∀ u, u ≠ s.cur.unit → t.tile u = s.tile u)

/-- W.MMA runs a pass of the tile its load has placed, W.MMAZ another of the last tile, over the frame's rows, and
W.EXIT drains the frame's drain rows, each in the array context the block names; SRC sends that context's starts with
the frame's DOM, once their queues have room and no fence with col is pending; the chain then goes on at LINK0
(R282, R288, R313, R318, R319). -/
def Obligations.PassAndDrainBlocksTakeEffect : Prop :=
  ∀ (s : State) (ctx sp kc : BitVec 2) (acc src mx : Bool) (fmt pair : BitVec 4) (plen : W32) (l : W64) (ot : BitVec 24)
    (nout : BitVec 7) (rgn : Nat), Claim.target s l < 2 ^ 52 →
    let w := s.me.wd
    let x := s.me.arr
    let es := startElems s ((s.collar s.cur.unit).region rgn) ctx.toNat
    let free : Prop := src = true → startFull s ctx.toNat es = false ∧ fenceBlocks s.ctx 8 = false
    let starts (t : State) : Prop := (t.collar s.cur.unit).starts = (s.collar s.cur.unit).starts ++
      (if src = true then es.map fun e => { elem := e, slot := ctx.toNat, dom := boolNat w.dom, at' := s.cycle + 2 } else [])
    let pass (i : Instr) (slot code : Nat) : Prop := ∃ t n, exec i s = .next t ∧ Claim.chainGoes s t (Claim.target s l)
      ∧ t.me.arr.mmas = x.mmas ++ [n] ∧ n.row0 = 16 * x.winBase + w.row0 ∧ n.m = w.m ∧ n.p = 1 ∧ n.slot = slot
      ∧ n.pair = code ∧ n.acc = acc ∧ n.ds = false ∧ n.wd = true ∧ n.arr = some (rgn, ctx.toNat)
      ∧ t.me.wd.wlast = slot ∧ t.me.wd.pairlast = code ∧ starts t
    (wdCtxOk s ctx.toNat feedElem 0x42 = some rgn → free → 1 ≤ w.m → x.winBad = false →
      w.row0 + w.m ≤ 16 * x.winCount → x.unfed.length < 2 →
        (∀ b rest k, w.ahead = b :: rest → b.slot = some k → (x.slotOf k).st = 2 →
          pass (.wMma ctx acc src fmt sp mx kc pair plen l ot nout) k pair.toNat)
        ∧ (w.lv = true → pass (.wMmaz ctx acc src l) w.wlast w.pairlast))
    ∧ (wdCtxOk s ctx.toNat drnElem 0x44 = some rgn → free → 1 ≤ w.dcnt → x.winBad = false →
      w.dfirst + w.dcnt ≤ 16 * x.winCount → x.drains.length < 2 → ∃ t d, exec (.wExit ctx src l) s = .next t
        ∧ Claim.chainGoes s t (Claim.target s l) ∧ starts t ∧ t.me.arr.drains = x.drains ++ [d]
        ∧ d.first = 16 * x.winBase + w.dfirst ∧ d.cnt = w.dcnt ∧ d.dom = w.dom ∧ d.arr = some (rgn, ctx.toNat))

/-- A block that R313 rejects takes no effect: its control-class fault is queued with the PC of the wdrive bundle and
WPC, and the chain stands. So it is for an address out of range, a fifth W.CALL, a W.RET with no entry, a W.MMAZ
before any W.MMA, a frame record with a value out of range, a tile image that fails, a FAILED token, a context that is
not armed or does not hold the operation, and rows outside the window. -/
def Obligations.RejectedBlocksFault : Prop :=
  ∀ (s : State) (l m : W64) (ctx psrc sp kc : BitVec 2) (acc src pnot mx clr : Bool) (fmt pair : BitVec 4) (plen : W32)
    (ot : BitVec 24) (nout : BitVec 7) (tk : BitVec 6), s.me.shadow.queue.length < 8 →
    let w := s.me.wd
    let x := s.me.arr
    let mma := Instr.wMma ctx acc src fmt sp mx kc pair plen l ot nout
    let slot := w.ahead.head?.bind fun b => b.slot
    let stops (i : Instr) (c d : Nat) : Prop := ∃ (t : State) (f : CFault), exec i s = .next t
      ∧ t.me.shadow.queue = s.me.shadow.queue ++ [f] ∧ f.fr.cause = c ∧ f.fr.detail = d ∧ f.fr.pos = w.pc.toNat
      ∧ f.fr.unit = 258 ∧ f.fr.idx = [w.wpc % 2 ^ 32, w.wpc / 2 ^ 32] ∧ t.me.wd.wpc = w.wpc ∧ t.me.wd.ahead = w.ahead
      ∧ t.me.wd.links = w.links ∧ t.me.wd.flt = true ∧ (c = 0x38 → t.me.wd.hdrd = d) ∧ t.me.ctx = s.me.ctx
      ∧ t.me.arr = s.me.arr ∧ ∀ a, t.byte a = s.byte a
    (2 ^ 52 ≤ Claim.target s l → ∀ i ∈ [Instr.wNop l, mma, .wMmaz ctx acc src l, .wExit ctx src l,
      .wBr ctx psrc pnot l m, .wCall l m, .wSync tk clr l, .wScale l], stops i 0x38 5)
    ∧ (Claim.target s l < 2 ^ 52 → 2 ^ 52 ≤ Claim.target s m → ∀ i ∈ [Instr.wBr ctx psrc pnot l m, .wCall l m], stops i 0x38 5)
    ∧ (w.links = [] → stops .wRet 0x38 7)
    ∧ (Claim.target s l < 2 ^ 52 →
      (Claim.target s m < 2 ^ 52 → 4 ≤ w.links.length → stops (.wCall l m) 0x38 6)
      ∧ (Claim.target s m < 2 ^ 52 → ∀ rgn sl, x.ctx = some (rgn, sl) →
        ((s.collar s.cur.unit).region rgn).armed.contains ctx.toNat = false → stops (.wBr ctx psrc pnot l m) 0x26 0)
      ∧ (w.lv = false → stops (.wMmaz ctx acc src l) 0x38 2)
      ∧ (∀ b rest, w.ahead = b :: rest → b.frame ≠ [] → frameOk b.frame = false → stops (.wScale l) 0x38 8)
      ∧ (∀ k, slot = some k → (x.slotOf k).st ≠ 1 → (x.slotOf k).st ≠ 2 → stops mma 0x38 9)
      ∧ ((s.token s.myTask tk.toNat).st = 3 → stops (.wSync tk clr l) 0x0D tk.toNat)
      ∧ (∀ i, (i = .wMmaz ctx acc src l ∧ w.lv = true) ∨ (i = mma ∧ ∃ k, slot = some k ∧ (x.slotOf k).st = 2) →
        (wdCtxOk s ctx.toNat feedElem 0x42 = none → stops i 0x26 0)
        ∧ (∀ rgn, wdCtxOk s ctx.toNat feedElem 0x42 = some rgn → x.winBad = true ∨ w.m = 0 ∨ 16 * x.winCount < w.row0 + w.m →
          stops i 0x0A 0))
      ∧ (wdCtxOk s ctx.toNat drnElem 0x44 = none → stops (.wExit ctx src l) 0x26 0)
      ∧ (∀ rgn, wdCtxOk s ctx.toNat drnElem 0x44 = some rgn →
          x.winBad = true ∨ w.dcnt = 0 ∨ 16 * x.winCount < w.dfirst + w.dcnt → stops (.wExit ctx src l) 0x0A 0))

/-- wdrive enters the mode at a 256-byte-aligned address when the array has a context, no WLD of it takes pennants and
no load is in progress, and faults at another address or without a context; a header that is read joins the read-ahead,
or is that of the block a resume reloads; the payload reader starts a load in the slot WNEXT, or a reload in WLAST,
delivers the image's header token first, reads a frame record, and records a fault of a line (R304, R307, R309, R312,
R315, R316, R322, R325). -/
def Obligations.WeightChainIsRead : Prop :=
  ∀ (s : State) (a : Reg) (t : Nat),
    let x := s.tile t
    let w := x.wd
    (∀ rgn slot, s.cur.shadow = false → Claim.readable s a → s.me.arr.ctx = some (rgn, slot) →
      (Claim.val s a).toNat % 256 = 0 → (∀ j, j < 4 → (s.me.arr.slotOf j).st ≠ 1) →
      (∀ j, j < 4 → ∀ p, ((s.collar s.cur.unit).elem (wldElem j)).curOf slot = some p →
        (((s.collar s.cur.unit).elem (wldElem j)).plane p).eop.pg = false) →
      ∃ r, exec (.wdrive a) s = .next r ∧ r.me.wd.on = true ∧ r.me.wd.wpc = (Claim.val s a).toNat
        ∧ r.me.wd.pc = s.cur.bpc ∧ r.me.wd.links = [] ∧ r.me.wd.lv = false ∧ r.me.wd.wnext = 0 ∧ r.me.ctx = s.me.ctx
        ∧ Claim.elsewhere s r)
    ∧ (Claim.canFault s → Claim.readable s a → ((Claim.val s a).toNat % 256 ≠ 0 → Claim.faults (.wdrive a) s 0x13)
        ∧ ((Claim.val s a).toNat % 256 = 0 → s.me.arr.ctx = none → Claim.faults (.wdrive a) s 0x26))
    ∧ (∀ addr b s1, w.on = true → w.flt = false → x.landing = false →
        (w.reload = none → nextRead w = some addr → readHeader s t addr = (some b, s1) →
          ∃ r, exec (.wblockRead t) s = .next r ∧ (r.tile t).wd.ahead = (s1.tile t).wd.ahead ++ [{ b with num := w.nread }]
            ∧ (r.tile t).wd.nread = w.nread + 1 ∧ ∀ q, r.byte q = s1.byte q)
        ∧ (∀ o, w.reload = some o → o.read = false → o.err = none → readHeader s t o.addr = (some b, s1) →
          ∃ r, exec (.wblockRead t) s = .next r ∧ (r.tile t).wd.reload = some { b with num := w.nread }
            ∧ (r.tile t).wd.ahead = (s1.tile t).wd.ahead ∧ (r.tile t).wd.nread = w.nread + 1 ∧ ∀ q, r.byte q = s1.byte q))
    ∧ (∀ b l s1, w.readFault = none → readerBlk w = some b → b.instr = some (.wScale l) → x.landing = false →
        (∀ bs, readerBytes s t b (b.addr + 32) 64 = (.ok bs, s1) → ∃ r, exec (.payloadLoad t) s = .next r
          ∧ (∀ c ∈ (r.tile t).wd.ahead, c.num = b.num → c.frame = bs) ∧ ∀ q, r.byte q = s1.byte q)
        ∧ (∀ c line, readerBytes s t b (b.addr + 32) 64 = (.error (some (c, line)), s1) →
          ∃ r f, exec (.payloadLoad t) s = .next r ∧ (r.tile t).wd.readFault = some f ∧ f.cause = c ∧ f.unit = 256
            ∧ f.addr = line ∧ f.pos = (line - b.addr) / 64 ∧ f.idx = [b.addr % 2 ^ 32, b.addr / 2 ^ 32]
            ∧ ∀ q, r.byte q = s1.byte q))
    ∧ (∀ b i, w.readFault = none → readerBlk w = some b → b.instr = some i → (∀ l, i ≠ .wScale l) →
        (∀ k, k = (if w.reloads b then w.wlast else w.wnext) → b.slot = none → x.landing = false →
          (x.arr.slotOf k).st ≠ 1 → preloadPending x k = false → ∃ r,
          exec (.payloadLoad t) s = .next r ∧ (tget ({} : WSlot) (r.tile t).arr.slots k).st = 1
          ∧ (r.tile t).wd.wnext = (if w.reloads b then w.wnext else (w.wnext + 1) % 4)
          ∧ (r.tile t).ctx = x.ctx ∧ ∀ q, r.byte q = s.byte q)
        ∧ (∀ k, b.slot = some k → b.pos = 0 → ∃ r d, exec (.payloadLoad t) s = .next r
          ∧ (r.tile t).arr.deliv = x.arr.deliv ++ [d] ∧ d.lane = 0 ∧ d.slot = some k
          ∧ d.val = BitVec.ofNat 512 (wHeaderToken i) ∧ d.due = s.cycle + 2 ∧ (r.tile t).ctx = x.ctx
          ∧ ∀ q, r.byte q = s.byte q))

/-! ### Elements: operations (R143-R176), memory and ports (R168-R173) -/

/-- The element whose turn it is fires `o` in this cycle: no fault, nothing to emit from before, the head of every
sourced queue there and no banner, all with EOS or none, the guard 1, domains it takes, and output space unless it has
no data result (R124, R143-R147, R176). -/
def Sys2Proof.Claim.fires (s : State) (o : EOp) (bare : Bool) : Prop :=
  let u := s.cur.unit
  let e := s.cur.elem
  let c := fctx s o
  (s.elemOf u e).fault = none ∧ c.y.bank.st.outq = [] ∧ (bare = false → outRoom (s.collar u) e = true)
  ∧ (∀ q ∈ srcQ o, ∃ t rest, c.y.queue q = t :: rest ∧ t.bnr = false ∧ t.eos = c.eos)
  ∧ (o.pg = true → ∃ g, c.y.qp.head? = some g ∧ (srcQ o ≠ [] → g.eos = c.eos) ∧ g.val ≠ o.pp) ∧ domOk c = true

/-- Memory reads as in `m`, in which lines that AGs had on their way may have been written; where none was, as in `s`. -/
def Sys2Proof.Claim.memAs (s m t : State) : Prop :=
  (∀ a, t.byte a = m.byte a) ∧ ((∀ v, (s.collar v).fly = []) → ∀ a, m.byte a = s.byte a)

/-- What a firing changes: a token of each queue of `use` is gone, and the pennant if one is used and `pen`; the data
result, and the pennant result, enter the pipeline, due the type's latency on. The other planes of the element and every
other element stand as they did (R124). -/
def Sys2Proof.Claim.firedOnly (s r : State) (o : EOp) (use : List Nat) (pen : Bool) (out : Option Tok) (pout : Option Pen) : Prop :=
  let u := s.cur.unit
  let e := s.cur.elem
  let p := s.cur.plane
  let x := s.elemOf u e
  let x' := r.elemOf u e
  let due := s.cycle + (elemType e).lat
  (∀ q, q < 3 → (x'.plane p).queue q = ((x.plane p).queue q).drop (use.count q))
  ∧ (x'.plane p).qp = (if pen = true ∧ o.pg = true then (x.plane p).qp.drop 1 else (x.plane p).qp)
  ∧ x'.out.map (·.tok) = x.out.map (·.tok) ++ (out.map (stamp s)).toList
  ∧ x'.pout = x.pout ++ (pout.map fun t =>
      { pen := { t with rgn := regionNum (s.collar u) e, slot := s.cur.slot, plane := p, src := e, at' := s.cycle }
        ready := due }).toList
  ∧ x'.fault = x.fault ∧ (∀ i, i ≠ p → x'.plane i = x.plane i) ∧ (∀ f, f ≠ e → r.elemOf u f = s.elemOf u f)
  ∧ r.cycle = s.cycle

/-- The same, and every other collar stands as it did. -/
def Sys2Proof.Claim.firedElem (s r : State) (o : EOp) (use : List Nat) (pen : Bool) (out : Option Tok) (pout : Option Pen) : Prop :=
  Claim.firedOnly s r o use pen out pout ∧ ∀ v, v ≠ s.cur.unit → r.collar v = s.collar v

/-- The same with nothing outside the element changed. -/
def Sys2Proof.Claim.fired (s r : State) (o : EOp) (use : List Nat) (pen : Bool) (out : Option Tok) (pout : Option Pen) : Prop :=
  Claim.firedElem s r o use pen out pout
  ∧ (r.elemOf s.cur.unit s.cur.elem).out = (s.elemOf s.cur.unit s.cur.elem).out
      ++ (out.map fun t => { tok := stamp s t, ready := s.cycle + (elemType s.cur.elem).lat }).toList
  ∧ r.tiles = s.tiles ∧ r.tasks = s.tasks ∧ r.engines = s.engines ∧ r.mod = s.mod ∧ ∀ a, r.byte a = s.byte a

/-- Flags that are set stand, and the results' are set beside them; the counts stop at 0xFFFF (R50). -/
def Sys2Proof.Claim.flagsSet (b a : Bank) (rs : List Rnd) : Prop :=
  a.iv = (b.iv || rs.any (·.fl.iv)) ∧ a.dz = (b.dz || rs.any (·.fl.dz)) ∧ a.ovf = (b.ovf || rs.any (·.fl.ovf))
  ∧ a.uf = (b.uf || rs.any (·.fl.uf)) ∧ a.sclamp = (b.sclamp || rs.any (·.fl.sclamp))
  ∧ a.sat = min 0xFFFF (b.sat + (rs.map (·.fl.sat)).sum) ∧ a.ufl = min 0xFFFF (b.ufl + (rs.map (·.fl.ufl)).sum)

/-- A value-wise result (R143): while no value meets a condition that traps, one token whose value i is `g i`, with
the sideband of the tokens consumed and the values' flags set (R50); while one does, the fault of the lowest cause, and
nothing is consumed (R49, R381). -/
def Sys2Proof.Claim.valueResult (i : Instr) (s : State) (o : EOp) (w : Nat) (g : Nat → Rnd) : Prop :=
  let c := fctx s o
  let u := s.cur.unit
  let e := s.cur.elem
  (Claim.fires s o false → (o.sv = 2 → ∀ k, k < c.v → (g k).fl.cause = none) →
    ∃ r t, exec i s = .next r ∧ Claim.fired s r o (srcQ o) true (some t) none
      ∧ t.val = lineOf w (tabulate c.v fun k => (g k).code) ∧ t.vc = o.ovc.toNat ∧ t.eos = c.eos ∧ t.bnr = false
      ∧ t.lcnt = lcntOf c.v w ∧ (∀ h, c.like = some h → t.dom = h.dom ∧ t.seq = h.seq)
      ∧ Claim.flagsSet c.y.bank ((r.elemOf u e).plane s.cur.plane).bank (tabulate c.v g))
  ∧ (Claim.fires s o false → o.sv = 2 → c.y.bank.st.grant = none → ∀ k cause, k < c.v → (g k).fl.cause = some cause →
    ∃ r f, exec i s = .next r ∧ (r.elemOf u e).fault = some f ∧ f.cause ≤ cause
      ∧ (∃ j, j < c.v ∧ (g j).fl.cause = some f.cause) ∧ ((r.elemOf u e).plane s.cur.plane).trapped = true
      ∧ (∀ q, ((r.elemOf u e).plane s.cur.plane).queue q = (c.y).queue q) ∧ (r.elemOf u e).out = (s.elemOf u e).out
      ∧ ∀ a, r.byte a = s.byte a)

/-- Integer operations compute the exact result on the operands' values and keep it modulo 2^w, or clamp it under
mode.SAT; imulh never clamps; shifts count modulo the width; icmp answers all ones or zero (R150). -/
def Obligations.ElementIntegerResults : Prop :=
  ∀ (s : State) (o : EOp),
    let c := fctx s o
    let A := c.intAt 0 (c.operand 0)
    let B := c.intAt 1 (c.operand 1)
    let x := c.codeAt 0 (c.operand 0)
    let y := c.codeAt 1 (c.operand 1)
    let W := wOf c.inF
    let f := c.rangeFmt
    let sat : Nat → Int → Rnd := fun _ z => if c.y.sat then
        { code := wrapInt (fmtWidth f) (max (intMin f) (min (intMax f) z)), fl := { sat := if z < intMin f ∨ intMax f < z then 1 else 0 } }
      else { code := wrapInt (fmtWidth f) z }
    let raw (n : Nat) : Rnd := { code := n % 2 ^ W }
    let R (i : Instr) (g : Nat → Rnd) : Prop := Claim.valueResult i s o (if o.fmt = 0 then W else wOf o.fmt.toNat) g
    R (.iadd o) (fun k => sat k (A k + B k)) ∧ R (.isub o) (fun k => sat k (A k - B k))
    ∧ R (.imul o) (fun k => sat k (A k * B k))
    ∧ R (.imulh o) (fun k => { code := wrapInt (fmtWidth f) (A k * B k / (2 ^ W : Nat)) })
    ∧ R (.imin o) (fun k => sat k (min (A k) (B k))) ∧ R (.imax o) (fun k => sat k (max (A k) (B k)))
    ∧ R (.iabs o) (fun k => sat k (A k).natAbs) ∧ R (.ishl o) (fun k => sat k (A k * (2 ^ (y k % W) : Nat)))
    ∧ R (.isra o) (fun k => sat k (A k / (2 ^ (y k % W) : Nat)))
    ∧ R (.iand o) (fun k => raw (x k &&& y k)) ∧ R (.ior o) (fun k => raw (x k ||| y k))
    ∧ R (.ixor o) (fun k => raw (x k ^^^ y k)) ∧ R (.ishr o) (fun k => raw (x k / 2 ^ (y k % W)))
    ∧ R (.icmp o) (fun k =>
        let t := match c.y.mf 10 8 with
          | 0 => decide (A k = B k)
          | 1 => decide (A k ≠ B k)
          | 2 => decide (A k < B k)
          | 3 => decide (A k ≤ B k)
          | 4 => decide (A k > B k)
          | _ => decide (A k ≥ B k)
        { code := if t then 2 ^ W - 1 else 0 })

/-- Floating-point operations form the exact result of each value and round it once, with the value's own draw under
SR; the minimum and maximum give one operand, fneg flips the sign, fcmp answers all ones or zero, lut takes a segment's
line, rred the fraction of a multiple (R153, R154, R159, R160). ROUND and the exact operations are the model's. -/
def Obligations.ElementFloatResults : Prop :=
  ∀ (s : State) (o : EOp),
    let c := fctx s o
    let op (j : Nat) := c.operand j
    let A := valAt (op 0) c.flush
    let B := valAt (op 1) c.flush
    let C := valAt (op 2) c.flush
    let f := o.fmt.toNat
    let rm (k : Nat) := c.rm c.n k
    let inv (g : Nat) : Rnd := { code := fmtNaN g, fl := Fl.invalid }
    let one (k : Nat) (v : Val) : Rnd := if v.isNaN then inv f else roundTo f (rm k) c.y.sat c.flush v
    let dz (b : Bool) (r : Rnd) : Rnd := if b then { r with fl := { r.fl with dz := true } } else r
    let pick (j : Nat) (k : Nat) : Nat := if (op j).1 = f then (op j).2.getD k 0
      else (roundTo f { rnd := 0 } false false (valAt (op j) c.flush k)).code
    let mm (mx : Bool) (k : Nat) : Rnd := if (A k).isNaN || (B k).isNaN then inv f
      else fminmax f c.flush mx (pick 0 k) (pick 1 k)
    let R (i : Instr) (g : Nat → Rnd) : Prop := Claim.valueResult i s o (if f = 0 then wOf c.inF else wOf f) g
    let ng := if o.fmt = 0 then c.inF else f
    let cv := decodeSv 1 c.flush (c.y.const % 2 ^ 32)
    R (.fadd o) (fun k => one k (Val.add (rm k).down (A k) (B k)))
    ∧ R (.fsub o) (fun k => one k (Val.add (rm k).down (A k) (B k).negate))
    ∧ R (.fmul o) (fun k => one k (Val.mul (A k) (B k)))
    ∧ R (.ffma o) (fun k => one k (Val.add (rm k).down (Val.mul (A k) (B k)) (C k)))
    ∧ R (.fdiv o) (fun k => dz (Val.div0 (A k) (B k)) (one k (Val.div (A k) (B k))))
    ∧ R (.frsq o) (fun k => dz (A k).isZero (one k (A k).rsqrt))
    ∧ R (.fmin o) (mm false) ∧ R (.fmax o) (mm true)
    ∧ Claim.valueResult (.fneg o) s o (if ng = 0 then wOf c.inF else wOf ng) (fun k =>
        if (op 0).1 = ng then signLane ng true ((op 0).2.getD k 0)
        else { code := (roundTo ng { rnd := 0 } false false (valAt (op 0) false k).negate).code })
    ∧ R (.fcmp o) (fun k =>
        let nan := (A k).isNaN || (B k).isNaN
        let cond := c.y.mf 10 8
        let lt := Val.cmp (A k) (B k) == .lt
        let eq := Val.cmp (A k) (B k) == .eq
        let t := if nan then cond == 1 || cond == 6 else
          match cond with
          | 0 => eq
          | 1 => !eq
          | 2 => lt
          | 3 => lt || eq
          | 4 => !(lt || eq)
          | 5 => !lt
          | _ => false
        { code := if t then 2 ^ wOf c.inF - 1 else 0, fl := { iv := nan && decide (2 ≤ cond ∧ cond ≤ 5), inv := nan } })
    ∧ (33 ≤ c.y.bank.st.table.length → tableOk c.y.bank.st.table = true → R (.lut o) (fun k =>
        let v := (lutAt c.y.bank.st.table (A k) (rm k).down).1
        if v.isNaN then inv f else roundTo f (rm k) c.y.sat c.flush v))
    ∧ (c.y.mf 8 8 = 0 → R (.rred o) (fun k =>
        let y := Val.mul (A k) cv
        let v := if y.isNaN || y.isInf then .nan else Val.add c.y.rnd.down y (nearest y).negate
        if v.isNaN then inv f else roundTo f c.y.rnd c.y.sat c.flush v))
    ∧ (c.y.mf 8 8 = 1 → R (.rred o) (fun k =>
        let y := Val.mul (A k) cv
        let v := if y.isNaN || y.isInf then y else nearest y
        if v.isNaN then inv f else roundTo f c.y.rnd c.y.sat c.flush v))

/-- A conversion (R144): into a narrower format or one of the same width it gathers the results of as many input tokens
as fill one, or as the stream still has; into a wider one it emits one token per part of the input token, and consumes
the input with the last part. -/
def Sys2Proof.Claim.converts (i : Instr) (s : State) (o : EOp) (g : Nat → RMode → Rnd) : Prop :=
  let c := fctx s o
  let st := c.y.bank.st
  let win := wOf c.inF
  let wout := wOf o.fmt.toNat
  let after (r : State) : OpState := ((r.elemOf s.cur.unit s.cur.elem).plane s.cur.plane).bank.st
  let wide : Prop := win < wout
  let lo := if win < wout then st.ph * (512 / wout) else 0
  let cnt := if win < wout then min (512 / wout) (c.v - lo) else c.v
  let n := if win < wout then 512 / wout else 512 / win
  let res (k : Nat) : Rnd := g (lo + k) (c.rm n k)
  let codes := tabulate cnt fun k => (res k).code
  Claim.fires s o false → (o.sv = 2 → ∀ k, k < cnt → (res k).fl.cause = none) →
    (wide → lo + 512 / wout < c.v → ∃ r t, exec i s = .next r ∧ Claim.fired s r o [] false (some t) none
        ∧ t.val = lineOf wout codes ∧ t.eos = false ∧ (after r).ph = st.ph + 1)
    ∧ (wide → c.v ≤ lo + 512 / wout → ∃ r t, exec i s = .next r ∧ Claim.fired s r o (srcQ o) true (some t) none
        ∧ t.val = lineOf wout codes ∧ t.eos = c.eos ∧ (after r).ph = 0)
    ∧ (¬ wide → (win / wout ≤ st.k + 1 ∨ c.eos = true) → ∃ r t, exec i s = .next r
        ∧ Claim.fired s r o (srcQ o) true (some t) none ∧ t.val = lineOf wout (st.vals ++ codes) ∧ t.eos = c.eos
        ∧ (after r).vals = [] ∧ (after r).k = 0)
    ∧ (¬ wide → st.k + 1 < win / wout → c.eos = false → ∃ r, exec i s = .next r
        ∧ Claim.fired s r o (srcQ o) true none none ∧ (after r).vals = st.vals ++ codes ∧ (after r).k = st.k + 1)

/-- Conversions: cvt rounds each value into fmt, isat narrows a / 2^SH and clamps, pack keeps low bits or the sign
select, unpk extends (R151, R155, R163), cvt drawing only where an end is floating-point or the target is e8m0 (R48; of
an e8m0 target R47 speaks and R48 does not: log entry 78); and the operations that keep state between firings, which consume
what their rule says and emit what it makes: imac, amax, qnt, the reductions, hfwd, hthr, hinv and deq (R152, R156-R158,
R161, R166, R167, R215), each of which does so whenever it fires, no value can trap, and its tokens have the domain, the
SEQ or the header that it needs. -/
def Obligations.ElementConversionsAndReductions : Prop :=
  ∀ (s : State) (o : EOp),
    let c := fctx s o
    let a := c.operand 0
    let f := o.fmt.toNat
    let x (k : Nat) : Nat := a.2.getD k 0
    let A := c.intAt 0 a
    let after (r : State) : Plane := (r.elemOf s.cur.unit s.cur.elem).plane s.cur.plane
    let does (r : State) (act : Act) : Prop := Claim.firedElem s r o act.use act.pen act.out act.pout
      ∧ (∀ v, r.byte v = s.byte v) ∧ (after r).bank = { act.bank with st := { act.bank.st with grant := none } }
    let head (q : Nat) (h : Tok → Prop) : Prop := ∃ t, c.tok q = some t ∧ h t
    let runs (i : Instr) (f : Fr) : Prop := ∃ act r, f = .act act ∧ exec i s = .next r ∧ does r act
    Claim.converts (.cvt o) s o (fun k r =>
      roundTo f (if fmtFloat c.inF ∨ fmtFloat f ∨ f = 7 then r else c.y.rnd) c.y.sat c.flush (valAt a c.flush k))
    ∧ Claim.converts (.isat o) s o (fun k r =>
        roundInt f r (.num (decide (A k < 0)) (A k).natAbs (-(c.y.mf 12 8 : Int)) false))
    ∧ Claim.converts (.pack o) s o (fun k _ =>
        if f = 13 then toT2 (valAt a c.flush k) else { code := x k % 2 ^ wOf f })
    ∧ Claim.converts (.unpk o) s o (fun k _ => { code := wrapInt (wOf f) (if c.inF = 13 then valInt (decodeVal 13 (x k))
        else if fmtSigned f then sextInt (wOf c.inF) (x k) else (x k : Nat)) })
    ∧ (Claim.fires s o false → ∀ p ∈ [(Instr.imac o, imacFire), (.amax o, amaxFire), (.qnt o, qntFire),
          (.rsum o, redFire .sum), (.rmax o, redFire .max), (.rmin o, redFire .min), (.hfwd o, hfwdFire),
          (.hthr o, hthrFire)], ∀ act, p.2 c = .act act →
        ∃ r, exec p.1 s = .next r ∧ does r act ∧ r.tasks = s.tasks ∧ r.engines = s.engines)
    ∧ (Claim.fires s o false → 0 ∈ srcQ o → ∀ act, deqFire { c with eos := ((c.tok 0).map (·.eos)).getD false } = .act act →
        ∃ r, exec (.deq o) s = .next r ∧ does r act ∧ r.tiles = s.tiles)
    ∧ (Claim.fires s o false → (bit c.y.mode 19 = true → 1 ∈ srcQ o) → ∀ act,
        hinvFire { c with eos := ((c.tok 1).map (·.eos)).getD false } (bit c.y.mode 19)
          (((c.tok 1).map (·.val.toNat)).getD 0) = .act act →
        ∃ r, exec (.hinv o) s = .next r ∧ does r act ∧ r.tiles = s.tiles)
    ∧ (Claim.fires s o false → head 0 (fun _ => True) → runs (.imac o) (imacFire c)
        ∧ (head 0 (fun t => t.dom = 1) → runs (.hthr o) (hthrFire c))
        ∧ (o.sv ≠ 2 →
          runs (.amax o) (amaxFire c) ∧ runs (.rsum o) (redFire .sum c) ∧ runs (.rmax o) (redFire .max c)
          ∧ runs (.rmin o) (redFire .min c) ∧ runs (.hfwd o) (hfwdFire c)
          ∧ (bit c.y.mode 8 = false → runs (.qnt o) (qntFire c))
          ∧ ((c.sel 1 = 1 → ∃ q, c.tok 0 = some q ∧ head 1 fun t => t.seq = q.seq) →
              deqCross { c with eos := ((c.tok 0).map (·.eos)).getD false } = false →
              runs (.deq o) (deqFire { c with eos := ((c.tok 0).map (·.eos)).getD false }))
          ∧ (head 0 (fun t => t.dom = 1) → (bit c.y.mode 19 = true → head 1 fun t =>
                bit c.y.mode 20 = true → c.y.bank.st.on = true ∨ headerOk c t.val.toNat = true) →
              runs (.hinv o) (hinvFire { c with eos := ((c.tok 1).map (·.eos)).getD false } (bit c.y.mode 19)
                (((c.tok 1).map (·.val.toNat)).getD 0)))))
    ∧ (Claim.fires s o false → c.y.mf 9 8 = 0 → c.y.mf 10 10 = 0 → f = 10 → c.inF = 10 → c.v = 2 → c.y.sat = false →
        ∃ r t, exec (.rsum o) s = .next r ∧ Claim.fired s r o (srcQ o) true (some t) none ∧ t.lcnt = 1
          ∧ t.val = lineOf 32 [wrapInt 32 (sextInt 32 (x 0) + sextInt 32 (x 1))])

/-! ### Operations that keep values between firings (R152, R156-R158, R161, R166, R167) -/

/-- An operation that has consumed its tokens leaves `ts` in order: the first enters the pipeline, the others follow one
a firing. -/
def Sys2Proof.Claim.emitsAll (i : Instr) (s : State) (o : EOp) (ts : List Tok) (after : Bank → Prop) : Prop :=
  ∃ r, exec i s = .next r ∧ Claim.firedElem s r o (srcQ o) true ts.head? none ∧ (∀ a, r.byte a = s.byte a)
    ∧ ((r.elemOf s.cur.unit s.cur.elem).plane s.cur.plane).bank.st.outq = ts.drop 1
    ∧ after ((r.elemOf s.cur.unit s.cur.elem).plane s.cur.plane).bank

/-- An integer that wraps to `w` bits, or is clamped to their signed or unsigned range. -/
def Sys2Proof.Claim.fitInt (w : Nat) (signed sat : Bool) (z : Int) : Nat :=
  let lo : Int := if signed then -(2 ^ (w - 1)) else 0
  let hi : Int := if signed then 2 ^ (w - 1) - 1 else 2 ^ w - 1
  ((if sat then max lo (min hi z) else z) % 2 ^ w).toNat
/-- Code `x` of `w` bits as an integer. -/
def Sys2Proof.Claim.intOf (w : Nat) (signed : Bool) (x : Nat) : Int :=
  if signed ∧ 2 ^ (w - 1) ≤ x % 2 ^ w then (x % 2 ^ w : Nat) - 2 ^ w else (x % 2 ^ w : Nat)
/-- Lane `i` of 32 bits of a register. -/
def Sys2Proof.Claim.word (l : Line) (i : Nat) : Nat := l.toNat / 2 ^ (32 * i) % 2 ^ 32

/-- imac: accumulator value i lies in lane i mod 16 of e[reg + i div 16], the registers modulo 8 (log entry 63); each valid value
takes a × b, b under CYC being the lane of the scale register for the firing's number; after K tokens, or at EOS, tokens of 16
leave for the values taken, and the accumulator is zero again. -/
def Sys2Proof.Claim.imacResults : Prop :=
  ∀ (s : State) (o : EOp),
    let c := fctx s o
    let st := c.y.bank.st
    let n := 512 / wOf c.inF
    let acc (b : Bank) (i : Nat) : Nat := Claim.word (tget 0 b.e ((o.reg.toNat + i / 16) % 8)) (i % 16)
    let B (i : Nat) : Int := if bit c.y.mode 16 then Claim.intOf 32 true (Claim.word (tget 0 c.y.bank.c c.creg) (st.k % 16))
      else c.intAt 1 (c.operand 1) i
    let sum (i : Nat) : Int := Claim.intOf 32 true (acc c.y.bank i) + c.intAt 0 (c.operand 0) i * B i
    let new (i : Nat) : Nat := if i < c.v then Claim.fitInt 32 true c.y.sat (sum i) else acc c.y.bank i
    let clamped := ((List.range c.v).filter fun i => c.y.sat && decide (sum i < -2 ^ 31 ∨ 2 ^ 31 ≤ sum i)).length
    let V := max st.cnt c.v
    let last := c.y.mf 15 8 = st.k + 1 ∨ c.eos = true
    Claim.fires s o false → wOf c.inF ∈ [8, 16, 32] → 1 ≤ c.v → st.cnt ≤ n →
      (¬ last → Claim.emitsAll (.imac o) s o [] fun b => (∀ i, i < n → acc b i = new i) ∧ b.st.k = st.k + 1 ∧ b.st.cnt = V
          ∧ b.sat = min 0xFFFF (c.y.bank.sat + clamped))
      ∧ (last → ∃ ts, Claim.emitsAll (.imac o) s o ts fun b => (∀ i, i < n → acc b i = 0) ∧ b.st.k = 0 ∧ b.st.cnt = 0
            ∧ b.sat = min 0xFFFF (c.y.bank.sat + clamped)
          ∧ ts.length = (V + 15) / 16 ∧ ∀ j t, ts[j]? = some t → let k := min 16 (V - 16 * j)
            t.val = lineOf 32 (tabulate k fun i => new (16 * j + i)) ∧ t.lcnt = k ∧ t.vc = o.ovc.toNat ∧ t.bnr = false
            ∧ t.eos = (c.eos && decide (j + 1 = ts.length)))

/-- The smaller or larger of two codes of a floating-point format, −0 below +0, a subnormal one under flush as the zero of
its sign; a NaN gives the canonical NaN (R154). -/
def Sys2Proof.Claim.pick (f : Nat) (flush mx : Bool) (x y : Nat) : Nat :=
  let F (z : Nat) := decodeSv f flush z
  let top := 2 ^ (fmtWidth f - 1)
  let kept (z : Nat) : Nat := if flush = true ∧ isSubnormal f z = true then z / top * top else z
  let below : Bool := Val.cmp (F x) (F y) == .lt || (Val.cmp (F x) (F y) == .eq && (decide (top ≤ x) || decide (y < top)))
  if (F x).isNaN || (F y).isNaN then fmtNaN f else if below == mx then kept y else kept x

/-- One step of a reduction: the sum rounded in the format, or wrapped or clamped; the larger or the smaller (R161). -/
def Sys2Proof.Claim.combine (op : RedOp) (f : Nat) (y : Plane) (flush : Bool) (a b : Nat) : Nat :=
  let w := fmtWidth f
  let sg := fmtSigned f
  match op with
  | .sum => if fmtFloat f then (roundTo f y.rnd y.sat flush (Val.add y.rnd.down (decodeSv f flush a) (decodeSv f flush b))).code
    else Claim.fitInt w sg y.sat (Claim.intOf w sg a + Claim.intOf w sg b)
  | .max => if fmtFloat f then Claim.pick f flush true a b else if Claim.intOf w sg a ≤ Claim.intOf w sg b then b else a
  | .min => if fmtFloat f then Claim.pick f flush false a b else if Claim.intOf w sg a ≤ Claim.intOf w sg b then a else b
/-- Where a reduction starts: +0, −∞ or the least integer, +∞ or the greatest (R161). -/
def Sys2Proof.Claim.start (op : RedOp) (f : Nat) : Nat :=
  let w := fmtWidth f
  match op, fmtFloat f with
  | .sum, _ => 0
  | .max, true => if f = 1 then 0xFF800000 else if f = 2 then 0xFF80 else 0xFC00
  | .min, true => if f = 1 then 0x7F800000 else if f = 2 then 0x7F80 else 0x7C00
  | .max, false => if fmtSigned f then 2 ^ (w - 1) else 0
  | .min, false => if fmtSigned f then 2 ^ (w - 1) - 1 else 2 ^ w - 1

/-- rsum, rmax and rmin by SCOPE, under sv = 0 or 1: within the token, value by value with the tokens before, or both; the accumulators stand in e[reg] until K tokens or EOS, and
a new group starts anew. A single result stands in value 0, or in every value under BC. -/
def Sys2Proof.Claim.reductionResults : Prop :=
  ∀ (s : State) (o : EOp) (i : Instr) (op : RedOp), (i, op) ∈ [(Instr.rsum o, RedOp.sum), (.rmax o, .max), (.rmin o, .min)] →
    let c := fctx s o
    let st := c.y.bank.st
    let f := o.fmt.toNat
    let w := fmtWidth f
    let n := 512 / w
    let x (k : Nat) : Nat := (c.operand 0).2.getD k 0
    let step := Claim.combine op f c.y c.flush
    let fold (l : List Nat) : Nat := l.foldl step (Claim.start op f)
    let old (k : Nat) : Nat := if st.k = 0 then Claim.start op f else (tget 0 c.y.bank.e o.reg.toNat).toNat / 2 ^ (w * k) % 2 ^ w
    let new (k : Nat) : Nat := if k < c.v then step (old k) (x k) else old k
    let V := max st.cnt c.v
    let scope := c.y.mf 9 8
    let last := c.y.mf 23 16 = st.k + 1 ∨ c.eos = true
    let single (t : Tok) (r : Nat) : Prop := t.eos = c.eos ∧ t.vc = o.ovc.toNat
      ∧ (bit c.y.mode 10 = false → t.val = lineOf w [r] ∧ t.lcnt = 1)
      ∧ (bit c.y.mode 10 = true → t.val = lineOf w (List.replicate n r) ∧ t.lcnt = 16)
    Claim.fires s o false → o.sv ≠ 2 → f ∈ [1, 2, 3, 10, 9, 14, 12] → wOf c.inF = w → c.v ≤ (c.operand 0).2.length →
      (∀ z ∈ (c.operand 0).2, z < 2 ^ w) → V ≤ n →
      (scope = 0 → ∃ t, single t (fold (tabulate c.v x)) ∧ Claim.emitsAll i s o [t] fun b => b.e = c.y.bank.e)
      ∧ (scope = 1 ∨ scope = 2 → ¬ last → Claim.emitsAll i s o [] fun b => b.st.k = st.k + 1 ∧ b.st.cnt = V
          ∧ tget 0 b.e o.reg.toNat = lineOf w (tabulate n new))
      ∧ (scope = 1 → last → ∃ t, t.eos = c.eos ∧ t.vc = o.ovc.toNat ∧ t.val = lineOf w (tabulate V new) ∧ t.lcnt = lcntOf V w
          ∧ Claim.emitsAll i s o [t] fun b => b.st.k = 0 ∧ b.st.cnt = 0)
      ∧ (scope = 2 → last → ∃ t, single t (fold (tabulate V new)) ∧ Claim.emitsAll i s o [t] fun b => b.st.k = 0 ∧ b.st.cnt = 0)

/-- amax under sv = 0 or 1: the largest magnitude of each 32 values, as f32, a NaN the canonical one, an infinity +∞, subnormals kept; 16 blocks make a
token, a block in progress goes on with the next token, and one cut short by EOS is taken over what is there (log entry 102). -/
def Sys2Proof.Claim.amaxResults : Prop :=
  ∀ (s : State) (o : EOp),
    let c := fctx s o
    let st := c.y.bank.st
    let m (x : Nat) : Nat := (roundTo 1 { rnd := 0 } false false (decodeVal (c.operand 0).1 x).abs).code
    let larger (x y : Nat) : Nat := if (decodeVal 1 x).isNaN || (decodeVal 1 y).isNaN then 0x7FC00000 else max x y
    let vals := (c.operand 0).2.take c.v
    let most (a : Nat) (l : List Nat) : Nat := l.foldl (fun a x => larger a (m x)) a
    let left := 32 - st.cnt
    let ends := left ≤ vals.length
    let cur := if ends then most 0 (vals.drop left) else most st.thv vals
    let cnt := if ends then vals.length - left else st.cnt + vals.length
    let done := st.vals ++ (if ends then [most st.thv (vals.take left)] else []) ++ (if c.eos = true ∧ 0 < cnt then [cur] else [])
    let tok (t : Tok) (l : List Nat) (eos : Bool) : Prop :=
      t.val = lineOf 32 l ∧ t.lcnt = l.length ∧ t.eos = eos ∧ t.vc = o.ovc.toNat ∧ t.bnr = false
    Claim.fires s o false → o.sv ≠ 2 → st.cnt < 32 → st.vals.length < 16 → 1 ≤ vals.length → vals.length ≤ 32 →
      (c.eos = false → done.length < 16 → Claim.emitsAll (.amax o) s o [] fun b =>
          b.st.vals = done ∧ b.st.thv = cur ∧ b.st.cnt = cnt)
      ∧ (c.eos = false → 16 ≤ done.length → ∃ t, tok t (done.take 16) false ∧ Claim.emitsAll (.amax o) s o [t] fun b =>
          b.st.vals = done.drop 16 ∧ b.st.thv = cur ∧ b.st.cnt = cnt)
      ∧ (c.eos = true → ∃ ts, Claim.emitsAll (.amax o) s o ts (fun b => b.st.vals = [] ∧ b.st.thv = 0 ∧ b.st.cnt = 0)
          ∧ (done.length ≤ 16 → ∃ t, ts = [t] ∧ tok t done true)
          ∧ (16 < done.length → ∃ t u, ts = [t, u] ∧ tok t (done.take 16) false ∧ tok u (done.drop 16) true))

/-- qnt under sv = 0 or 1 with SRE = 0: each complete block of 32 values is scaled by its code, derived (R57) or carried (R58), and rounded with saturation into fmt,
under SR with its lane's draws in order; a result token holds what the input tokens of R144 give, and the scales of 64 blocks, or
left at EOS, make a scale token on VC const[4:0] unless NOSC = 1. Tokens of group g have SEQ g; data tokens leave first
(log entries 63, 81 and 102). -/
def Sys2Proof.Claim.qntResults : Prop :=
  ∀ (s : State) (o : EOp),
    let c := fctx s o
    let st := c.y.bank.st
    let a := c.operand 0
    let f := o.fmt.toNat
    let w := fmtWidth f
    let held (st : OpState) : List Nat :=
      (valuesOf (wOf a.1) (tget 0 st.table 0) ++ valuesOf (wOf a.1) (tget 0 st.table 1)).take st.thv
    let all := held st ++ a.2.take c.v
    let ready := if c.eos then all ++ List.replicate ((32 - all.length % 32) % 32) 0 else all.take (all.length / 32 * 32)
    let mag (x : Nat) : Nat := if c.flush && isSubnormal a.1 x then 0
      else (roundTo 1 { rnd := 0 } false false (decodeVal a.1 x).abs).code
    let larger (x y : Nat) : Nat := if (decodeVal 1 x).isNaN || (decodeVal 1 y).isNaN then 0x7FC00000 else max x y
    let emax : Int := if f = 4 then 8 else if f = 5 then 15 else if f = 6 then 2 else 6
    let scale (j : Nat) : Nat := if o.sb.toNat = 5 then (tget 0 c.y.bank.c c.creg).toNat % 256
      else match decodeVal 1 (((ready.drop (32 * j)).take 32).foldl (fun m x => larger m (mag x)) 0) with
        | .num _ m e _ => if m = 0 then 0 else ((Nat.log2 m : Int) + e - emax + 127).toNat
        | _ => 255
    let lane (i : Nat) : Nat := 16 * (i % c.n) / c.n
    let drawn (i : Nat) : Nat := iterate (i / c.n * (c.n / 16) + i % (c.n / 16) + 1) (c.y.bank.gens.getD (lane i) 1)
    let mode (i : Nat) : RMode := { rnd := c.y.rnd.rnd, draw := if c.y.sr then some (drawn i) else none }
    let code (i : Nat) : Nat := if scale (i / 32) = 255 then fmtNaN f else (roundTo f (mode i) true c.flush
      (Val.mul (decodeSv a.1 c.flush (ready.getD i 0)) (.num false 1 (127 - (scale (i / 32) : Int)) false))).code
    let out := st.vals ++ tabulate ready.length code
    let scales := st.scales ++ tabulate (ready.length / 32) scale
    let blocks := st.cnt + ready.length / 32
    let first := if st.vals.isEmpty then st.cnt else st.seq0
    let cap := 512 / w
    let done := c.eos = true ∨ (wOf c.inF / w ≤ st.k + 1 ∧ out ≠ [])
    let nd := if done then (out.length + cap - 1) / cap else 0
    let ns := if bit c.y.mode 9 then 0 else if c.eos then (scales.length + 63) / 64 else scales.length / 64
    Claim.fires s o false → o.sv ≠ 2 → bit c.y.mode 8 = false → f ∈ [4, 5, 6, 8] → a.1 ∈ [1, 2, 3] → c.sel 0 = 0 → 0 ∈ srcQ o →
      ∃ ts, Claim.emitsAll (.qnt o) s o ts (fun b => b.st.scales = (if c.eos then [] else scales.drop (scales.length / 64 * 64))
          ∧ b.st.cnt = (if c.eos then 0 else blocks) ∧ (done → b.st.vals = [] ∧ b.st.k = 0)
          ∧ (¬ done → b.st.vals = out ∧ b.st.k = st.k + 1) ∧ held b.st = (if c.eos then [] else all.drop ready.length))
        ∧ ts.length = nd + ns
        ∧ (∀ i t, i < nd → ts[i]? = some t → let l := (out.drop (cap * i)).take cap
            t.val = lineOf w l ∧ t.lcnt = lcntOf l.length w ∧ t.vc = o.ovc.toNat ∧ t.seq = (first + cap * i / 32) / 64 % 16
            ∧ t.eos = (c.eos && decide (i + 1 = nd)))
        ∧ ∀ i t, i < ns → ts[nd + i]? = some t → let l := (scales.drop (64 * i)).take 64
            t.val = lineOf 8 l ∧ t.lcnt = (l.length + 3) / 4 ∧ t.vc = c.y.const % 32
            ∧ t.seq = ((blocks - scales.length) / 64 + i) % 16
            ∧ t.eos = (c.eos && decide (i + 1 = ns))

/-- The f32 step of R166: a sum or difference rounded to f32, and halved with a second rounding. -/
def Sys2Proof.Claim.haar (sat flush sub half : Bool) (x y : Nat) : Nat :=
  let F (z : Nat) := decodeSv 1 flush z
  let r := (roundTo 1 { rnd := 0 } sat flush (Val.add false (F x) (if sub then (F y).negate else F y))).code
  if half then (roundTo 1 { rnd := 0 } sat flush (Val.mul (F r) (.num false 1 (-1) false))).code else r
/-- A column through the forward levels: s_L, d_L, …, d_1. -/
def Sys2Proof.Claim.haarDown (step : Bool → Nat → Nat → Nat) : Nat → List Nat → List Nat
  | 0, xs => xs
  | l + 1, xs => Claim.haarDown step l (tabulate (xs.length / 2) fun m => step false (xs.getD (2 * m) 0) (xs.getD (2 * m + 1) 0))
      ++ tabulate (xs.length / 2) fun m => step true (xs.getD (2 * m) 0) (xs.getD (2 * m + 1) 0)
/-- A column through the inverse levels, from s_L with what follows it. -/
def Sys2Proof.Claim.haarUp (step : Bool → Nat → Nat → Nat) : Nat → List Nat → List Nat → List Nat
  | 0, ss, _ => ss
  | l + 1, ss, rest => Claim.haarUp step l
      (tabulate (2 * ss.length) fun i => step (i % 2 == 1) (ss.getD (i / 2) 0) (rest.getD (i / 2) 0)) (rest.drop ss.length)

/-- Result tokens of a segment of 2^L rows of `len` values: value `p` of row `r` is `g r p` rounded into fmt, in row order;
`ends` says that the last has EOS. They have LCNT 16 (log entry 64). -/
def Sys2Proof.Claim.segment (c : FCtx) (rows len dom : Nat) (ends : Bool) (g : Nat → Nat → Nat) (ts : List Tok) : Prop :=
  let f := c.o.fmt.toNat
  let w := wOf f
  let n := 512 / w
  ts.length * n = rows * len
  ∧ ∀ j t, ts[j]? = some t → t.dom = dom ∧ t.vc = c.o.ovc.toNat ∧ t.lcnt = 16 ∧ t.bnr = false
    ∧ t.eos = (ends && decide (j + 1 = ts.length))
    ∧ t.val = lineOf w (tabulate n fun i =>
        (roundTo f c.y.rnd c.y.sat c.flush (decodeVal 1 (g ((j * n + i) / len) ((j * n + i) % len)))).code)

/-- hfwd, hinv and hthr, of full tokens (hfwd and hinv under sv = 0 or 1 and SR = 0): a token joins its segment; with the
segment's last, or at EOS, the results of all 2^L rows follow, missing rows as zeros: of hfwd in tree order with DOM 1, of
hinv in spatial order with DOM 0. -/
def Sys2Proof.Claim.haarResults : Prop :=
  ∀ (s : State) (o : EOp) (t : Tok),
    let c := fctx s o
    let st := c.y.bank.st
    let w := wOf c.inF
    let nv := 512 / w
    let R := 2 ^ c.y.mf 10 8
    let T := c.y.mf 18 11
    let len := T * nv
    let toks := st.rows ++ [t.val]
    let f32 (x : Nat) : Nat := (roundTo 1 { rnd := 0 } false false (decodeSv c.inF c.flush x)).code
    let x (l : List Line) (r p : Nat) : Nat := (valuesOf w (l.getD (r * T + p / nv) 0)).getD (p % nv) 0
    let step := Claim.haar c.y.sat c.flush
    let legal : Prop := 1 ≤ c.y.mf 10 8 ∧ c.y.mf 10 8 ≤ 6 ∧ 0 < T
    let plain : Prop := legal ∧ o.sv ≠ 2 ∧ c.y.sr = false ∧ c.inF ∈ [1, 2, 3] ∧ o.fmt.toNat ∈ [1, 2, 3] ∧ c.sel 0 = 0
      ∧ c.tok 0 = some t ∧ t.lcnt = 16 ∧ qFmt c.y 0 = c.inF
    (Claim.fires s o false → plain → srcQ o = [0] →
      (toks.length < R * T → c.eos = false → Claim.emitsAll (.hfwd o) s o [] fun b => b.st.rows = toks)
      ∧ (R * T ≤ toks.length ∨ c.eos = true → ∃ r, exec (.hfwd o) s = .next r ∧ Claim.fired s r o (srcQ o) true none none
          ∧ let b := ((r.elemOf s.cur.unit s.cur.elem).plane s.cur.plane).bank
            b.st.rows = [] ∧ Claim.segment c R len 1 c.eos (fun r p =>
              (Claim.haarDown (fun sub => step sub true) (c.y.mf 10 8) (tabulate R fun q => f32 (x toks q p))).getD r 0) b.st.outq))
    ∧ (Claim.fires s o false → plain → t.dom = 1 →
      let bm := bit c.y.mode 19
      let own (b : Tok) : Nat := if bit c.y.mode 20 then b.val.toNat / 2 ^ 64 % 2 ^ 64 else b.val.toNat % 2 ^ R
      ∀ bmap b, (bm = false → srcQ o = [0] ∧ (st.on = false → bmap = 2 ^ R - 1)) →
        (bm = true → o.sb = 1 ∧ srcQ o = [0, 1] ∧ c.tok 1 = some b
          ∧ (st.on = false → bmap = own b ∧ (bit c.y.mode 20 = true → headerOk c b.val.toNat = true))) →
        (st.on = true → bmap = st.bmap) → bmap < 2 ^ 64 → bmap ≠ 0 →
        let bits (k : Nat) : Nat := ((List.range k).filter fun i => bmap.testBit i).length
        (toks.length < bits 64 * T → c.eos = false → ∃ r, exec (.hinv o) s = .next r ∧ Claim.fired s r o [0] true none none
            ∧ let b := ((r.elemOf s.cur.unit s.cur.elem).plane s.cur.plane).bank
              b.st.rows = toks ∧ b.st.on = true ∧ b.st.bmap = bmap)
        ∧ (bits 64 * T ≤ toks.length ∨ c.eos = true → ∃ r, exec (.hinv o) s = .next r
            ∧ Claim.fired s r o (srcQ o) true none none
            ∧ let b := ((r.elemOf s.cur.unit s.cur.elem).plane s.cur.plane).bank
              b.st.rows = [] ∧ b.st.on = false ∧ Claim.segment c R len 0 c.eos (fun r p =>
                let col := tabulate R fun k => if bmap.testBit k then f32 (x toks (bits k) p) else 0
                (Claim.haarUp (fun sub => step sub false) (c.y.mf 10 8) (col.take 1) (col.drop 1)).getD r 0) b.st.outq))
    ∧ (Claim.fires s o false → legal → srcQ o = [0] → c.tok 0 = some t → t.dom = 1 → s.cur.unit < 64 → (s.tile s.cur.unit).ctx.mts = [] →
      let thr := c.y.mf 21 19
      let th := if st.rows.isEmpty then (tget 0 (s.tile s.cur.unit).sys.th thr).toNat else st.thv
      let ze := bit c.y.mode 22
      let hdr := bit c.y.mode 23
      let low (v : Nat) : Bool := match decodeVal 1 th, decodeVal c.inF v with
        | .nan, _ => false
        | _, .nan => false
        | y, z => !(y.sign && !y.isZero) && Val.cmp z.abs y != .gt
      let keep (k : Nat) : Bool := k == 0 || ze || !((List.range len).all fun p => low (x toks k p))
      let bmap := ((List.range R).map fun k => if keep k then 2 ^ k else 0).sum
      let rows : List Line := (((List.range R).filter keep).map fun k => tabulate T fun j =>
        if ze && k != 0 then lineOf w ((valuesOf w (toks.getD (k * T + j) 0)).map fun v => if low v then 0 else v)
        else toks.getD (k * T + j) 0).flatten
      let head : Line := BitVec.ofNat 512 (2 ^ 14 + c.y.mf 10 8 * 2 ^ 11 + bits c.y.const 7 5 * 2 ^ 8 + thr * 2 ^ 5
        + (if ze then 1 else 0) * 2 ^ 2 + T * 2 ^ 16 + c.inF * 2 ^ 24 + ((List.range R).filter keep).length * 2 ^ 32
        + bmap * 2 ^ 64 + th * 2 ^ 128)
      let side (t : Tok) : Prop := t.vc = c.y.const % 32 ∧ t.dom = 0 ∧ t.lcnt = (if hdr then 16 else 2)
        ∧ t.val = if hdr then head else BitVec.ofNat 512 bmap
      (toks.length < R * T → c.eos = false → ∃ r, exec (.hthr o) s = .next r ∧ Claim.fired s r o [0] true none none
          ∧ let b := ((r.elemOf s.cur.unit s.cur.elem).plane s.cur.plane).bank
            b.st.rows = toks ∧ b.st.thv = th)
      ∧ (R * T ≤ toks.length ∨ c.eos = true → ∃ r, exec (.hthr o) s = .next r ∧ Claim.firedElem s r o [0] true none none
          ∧ (r.arr s.cur.unit).hdrop = (s.arr s.cur.unit).hdrop + BitVec.ofNat 32 (R - ((List.range R).filter keep).length)
          ∧ let ts := ((r.elemOf s.cur.unit s.cur.elem).plane s.cur.plane).bank.st.outq
            ts.length = rows.length + 1
            ∧ (∀ j v, ts[j]? = some v → v.eos = (c.eos && decide (j + 1 = ts.length)))
            ∧ (∃ v, ts[if hdr then 0 else rows.length]? = some v ∧ side v)
            ∧ ∀ j, j < rows.length → ∃ v, ts[if hdr then j + 1 else j]? = some v ∧ v.val = rows.getD j 0 ∧ v.dom = 1
              ∧ v.vc = o.ovc.toNat ∧ v.lcnt = 16))

/-- deq under sv = 0 or 1: value i becomes its element times the scale its select names, of an MX block's the scale at the
value's place in the stream, rounded into fmt with its draw; a data token makes one result token a firing, and the scale token goes with the firing that uses its last block, or with the data's
end. -/
def Sys2Proof.Claim.deqResults : Prop :=
  ∀ (s : State) (o : EOp) (t b : Tok),
    let c := fctx s o
    let st := c.y.bank.st
    let x := s.elemOf s.cur.unit s.cur.elem
    let f := o.fmt.toNat
    let w := wOf f
    let n := 512 / w
    let V := t.lcnt * 32 / wOf c.inF
    let lo := st.ph * n
    let cnt := min n (V - lo)
    let last := V ≤ lo + n
    let pos (k : Nat) : Nat := st.cnt + lo + k
    let mx : Prop := o.sb = 1
    let S (k : Nat) : Val := if o.sb = 1 then decodeVal 7 ((valuesOf 8 b.val).getD (pos k / 32 % 64) 0)
      else if o.sb = 4 then decodeSv 1 c.flush (c.y.const % 2 ^ 32)
      else if o.sb = 5 then valAt (c.operand 1) c.flush (lo + k) else .num false 1 0 false
    let uses : Prop := mx ∧ ((last ∧ t.eos = true) ∨ (pos 0 / 2048 < pos cnt / 2048 ∧ ¬ (b.eos = true ∧ t.eos = true)))
    x.fault = none → st.outq = [] → outRoom (s.collar s.cur.unit) s.cur.elem = true → c.tok 0 = some t → t.bnr = false → t.dom = 0 →
    (o.pg = true → ∃ g, c.y.qp.head? = some g ∧ g.eos = t.eos ∧ g.val ≠ o.pp) → o.sv ≠ 2 → t.lcnt ≤ 16 →
    c.sel 0 = 0 → qFmt c.y 0 = c.inF → c.inF ∈ [4, 5, 6, 8, 13] → f ∈ [1, 2, 3] → lo < V →
    (mx → srcQ o = [0, 1] ∧ c.tok 1 = some b ∧ b.bnr = false ∧ b.dom = 0 ∧ (st.ph = 0 → t.seq = b.seq)
      ∧ pos cnt ≤ (pos 0 / 2048 + 1) * 2048 ∧ (uses → b.eos = decide (last ∧ t.eos = true))) →
    (¬ mx → srcQ o = [0] ∧ (o.sb = 4 ∨ o.sb = 5 ∨ o.sb = 6)) →
    ∃ r v, exec (.deq o) s = .next r
      ∧ Claim.fired s r o ((if last then [0] else []) ++ (if uses then [1] else [])) (decide last) (some v) none
      ∧ v.val = lineOf w (tabulate cnt fun k =>
          (roundTo f (c.rm n k) c.y.sat c.flush (Val.mul (valAt (c.operand 0) c.flush (lo + k)) (S k))).code)
      ∧ v.lcnt = lcntOf cnt w ∧ v.eos = (decide last && t.eos) ∧ v.seq = t.seq ∧ v.dom = t.dom ∧ v.vc = o.ovc.toNat
      ∧ let st' := ((r.elemOf s.cur.unit s.cur.elem).plane s.cur.plane).bank.st
        st'.ph = (if last then 0 else st.ph + 1) ∧ st'.cnt = (if last then (if t.eos then 0 else st.cnt + V) else st.cnt)

/-- The results of the operations that keep values between firings (R152, R156, R157, R158, R161, R166, R167). -/
def Obligations.ElementStateResults : Prop :=
  Claim.imacResults ∧ Claim.reductionResults ∧ Claim.amaxResults ∧ Claim.qntResults ∧ Claim.haarResults ∧ Claim.deqResults

/-- Stream, lane and pennant operations (R162, R164, R165, R174, R175): pass hands the token on; dup repeats it COUNT
times; bnr and eos add banners and EOS; const and cnt make their stream's tokens, under a guard none for a pennant of
0 (R147): it is consumed and the stream's count stands (log entry 62; the EOS of each is log entries 61 and 65);
shuf, bcst and algn move values; pgen makes a pennant; gate, steer and sel act as their pennant says; merge takes the
token of the queue its pennant names. -/
def Obligations.ElementStreamResults : Prop :=
  ∀ (s : State) (o : EOp),
    let c := fctx s o
    let st := c.y.bank.st
    let w := wOf c.inF
    let a := (c.operand 0).2
    let after (r : State) : Bank := ((r.elemOf s.cur.unit s.cur.elem).plane s.cur.plane).bank
    let og : EOp := { o with pg := true }
    let go (i : Instr) (use : List Nat) (pen : Bool) (t : Tok) (st' : OpState) : Prop := ∃ r, exec i s = .next r
      ∧ Claim.fired s r o use pen (some t) none ∧ (after r).st = { st' with grant := none }
    let lf := if o.fmt = 0 then c.inF else o.fmt.toNat
    let lw := if lf = 0 then w else wOf lf
    (Claim.fires s o false →
      go (.pass o) (srcQ o) true (c.whole 0) st
      ∧ (st.ph + 1 < c.y.mf 15 8 → go (.dup o) [] false { c.whole 0 with eos := false } { st with ph := st.ph + 1 })
      ∧ (c.y.mf 15 8 ≤ st.ph + 1 → go (.dup o) (srcQ o) true (c.whole 0) { st with ph := 0 })
      ∧ (st.cnt + 1 < c.y.mf 23 8 → (c.whole 0).eos = false →
          go (.bnr o) (srcQ o) true (c.whole 0) { st with cnt := st.cnt + 1, outq := [] }
          ∧ go (.eos o) (srcQ o) true (c.whole 0) { st with cnt := st.cnt + 1 })
      ∧ (c.y.mf 23 8 ≤ st.cnt + 1 → (c.whole 0).eos = false →
          (∃ r b, exec (.bnr o) s = .next r ∧ Claim.fired s r o (srcQ o) true (some (c.whole 0)) none
            ∧ (after r).st.cnt = 0 ∧ (after r).st.outq = [b] ∧ b.bnr = true ∧ b.eos = false)
          ∧ go (.eos o) (srcQ o) true { c.whole 0 with eos := true } { st with cnt := 0 })
      ∧ ((c.whole 0).eos = true → go (.eos o) (srcQ o) true (c.whole 0) { st with cnt := 0 })
      ∧ (bit c.y.mode 16 = false → ∃ r t, exec (.algn o) s = .next r ∧ Claim.fired s r o (srcQ o) true (some t) none
          ∧ t.val = lineOf w (tabulate c.v fun i => if i < c.y.mf 15 8 then
              (valuesOf w (tget 0 c.y.bank.e o.reg.toNat)).getD (c.n + i - c.y.mf 15 8) 0 else a.getD (i - c.y.mf 15 8) 0)
          ∧ tget 0 (after r).e o.reg.toNat = if c.eos then 0 else lineOf w a))
    ∧ Claim.valueResult (.shuf o) s o lw (fun k =>
        { code := if (c.operand 1).2.getD k 0 < c.n then a.getD ((c.operand 1).2.getD k 0) 0 else 0 })
    ∧ Claim.valueResult (.bcst o) s o lw (fun _ => { code := a.getD (c.y.mf 15 8) 0 })
    ∧ (Claim.fires s o false → o.sv ≠ 2 → ∃ r t, exec (.pgen o) s = .next r
        ∧ Claim.fired s r o (srcQ o) true none (some t) ∧ t.vc = o.ovc.toNat ∧ t.eos = c.eos
        ∧ t.val = pgenTest (c.y.mf 10 8) ((a.take c.v).map (decodeSv (numFmt c.inF) c.flush))
            (decodeSv (numFmt c.inF) c.flush (c.y.const % 2 ^ wOf (numFmt c.inF))))
    ∧ (srcQ o = [] → st.outq = [] → (s.elemOf s.cur.unit s.cur.elem).fault = none → st.on = true → st.ready ≤ s.cycle →
        outRoom (s.collar s.cur.unit) s.cur.elem = true → (c.k = 0 ∨ st.cnt < c.k) →
        (∀ g, o.pg = true → c.y.qp.head? = some g → g.val = o.pp → ∀ i ∈ [Instr.const o, .cnt o],
          ∃ r, exec i s = .next r ∧ Claim.fired s r o [] true none none ∧ (after r).st = { st with grant := none })
        ∧ ((o.pg = true → ∃ g, c.y.qp.head? = some g ∧ g.val ≠ o.pp) →
        let fw := wOf o.fmt.toNat
        let n := 512 / fw
        let src (i : Instr) (vals : List Nat) : Prop := ∃ r t, exec i s = .next r ∧ Claim.fired s r o [] true (some t) none
          ∧ t.val = lineOf fw vals ∧ t.vc = o.ovc.toNat ∧ t.dom = st.dom ∧ t.seq = st.t % 16 ∧ t.lcnt = 16 ∧ t.bnr = false
          ∧ t.eos = countLast s c st.t ∧ (countLast s c st.t = false → (after r).st.t = st.t + 1)
        src (.const o) (List.replicate n (c.y.const % 2 ^ fw))
        ∧ src (.cnt o) (tabulate n fun i => wrapInt fw ((c.y.const : Int) + ((st.t * n + i : Nat) : Int)
            * sextInt 8 (c.y.mf 15 8)))))
    ∧ (∀ g, Claim.fires s { o with pg := false } false → c.y.qp.head? = some g → (srcQ o ≠ [] → g.eos = c.eos) →
        let on := g.val != o.pp
        let go (i : Instr) (t : Option Tok) : Prop := ∃ r, exec i s = .next r ∧ Claim.fired s r og (srcQ o) true t none
        go (.gate o) (if on then some (c.whole 0) else none)
        ∧ go (.steer o) (some (if on then c.whole 0 else { c.whole 0 with vc := c.y.const % 32 }))
        ∧ go (.elemSel o) (some (c.whole (if on then 0 else 1))))
    ∧ (∀ g h rest, (s.elemOf s.cur.unit s.cur.elem).fault = none → st.outq = [] → c.y.qp.head? = some g →
        outRoom (s.collar s.cur.unit) s.cur.elem = true → g.eos = false →
        let q := if (g.val != o.pp) = true then c.sel 0 else c.sel 1
        q < 3 → c.y.queue q = h :: rest → h.bnr = false → h.eos = false → h.dom = 0 → (∀ t ∈ c.toks, t.2.bnr = false) →
        ∃ r, exec (.merge o) s = .next r
          ∧ Claim.fired s r og [q] true (some { h with vc := o.ovc.toNat, eos := false }) none)

/-- A line on its way is written once it is due, to its element's own bank in its cycle, and else when its bank grants it:
its bytes take their place, or an agrmw combines each 32-bit value of the line as it stands with its token's, whole, and
gives the old line to the first result that awaits one. No other byte changes but those of lines granted before at the
same bank (R101, R104, R170, R334). -/
def Sys2Proof.Claim.linesLand : Prop :=
  ∀ (s s1 : State) (u : Nat) (w : Fly), (s.collar u).fly = [w] → w.due ≤ s.cycle →
    (if w.direct = true then s1 = s else askBanks s (agWay u w.elem) (flyReq u w.elem) w.elem [(w.pa, w.bytes.length)] = (true, s1)) →
    s1.mem.wf = true → (∀ v off, place w.pa ≠ .planes v off) →
    let r := landDue s u
    let n := w.bytes.length
    let word (l : List Byte) (i : Nat) : Nat := natOfBytes ((l.drop (4 * i)).take 4)
    let old := (memRead s1 (.stream w.str) w.pa 64 4 true).1
    (r.collar u).fly = []
    ∧ (w.rmw = none → ∀ a, r.byte a = if w.pa ≤ a ∧ a < w.pa + n then w.bytes.getD (a - w.pa) 0 else s1.byte a)
    ∧ ∀ m, w.rmw = some m → m.value = none → n % 4 = 0 →
      (∀ a, r.byte a = if w.pa ≤ a ∧ a < w.pa + n then Claim.byteOf
          (rmwOf m.op m.fmt m.sat m.flush (word old ((a - w.pa) / 4)) (word w.bytes ((a - w.pa) / 4))).code ((a - w.pa) % 4)
        else s1.byte a)
      ∧ ∀ pre q post, (s1.elemOf u w.elem).out = pre ++ q :: post → (∀ y ∈ pre, y.need = false) → q.need = true → m.ret = true →
        (r.elemOf u w.elem).out
          = pre ++ { q with tok := { q.tok with val := lineOfBytes (old.take n) }, need := false } :: post

/-- Elements that reach memory (R104, R105, R159, R168-R171): a descriptor read fills the element's descriptor, a malformed one
faults; agld makes a token of the line at its pattern's address, agreq a request token, each also as a triggered stream's
first, whose trigger's first 8 bytes give the base where they are not 0; a memory node sends a line of its request to the
consumer's collar, whose boxes have words for it (R122; log entry 59); agst sends the valid bytes of its token on their
way to memory, or buffers them where its region has banners (R387), agrmw sends its operation there, and with RET the old
line leaves it; a lut reads the next line of its table, a poisoned one as it stands (log entry 85). No byte of memory
changes at a firing but those of lines granted at the bank before; when a trigger is taken and that SAT and sv hold for
agrmw are log entries 65 and 80. -/
def Obligations.ElementMemoryAccesses : Prop := Claim.linesLand ∧
  ∀ (s s1 s2 : State) (o : EOp) (d : Desc) (pa : Nat) (b : List Byte) (tk : Tok) (rest : List Tok),
    let u := s.cur.unit
    let e := s.cur.elem
    let p := s.cur.plane
    let x := s.elemOf u e
    let c := fctx s o
    let st := c.y.bank.st
    let ready : Prop := x.fault = none ∧ st.desc = some d ∧ st.wantDesc = false ∧ st.ready ≤ s.cycle ∧ st.grant = none
      ∧ agAwaits s u e = false ∧ (st.on = true → st.begun ≠ s.cycle)
    let mem (r m : State) : Prop := Claim.memAs s m r
    let guard (eos : Option Bool) : Prop := o.pg = true → ∃ g, c.y.qp.head? = some g ∧ g.val ≠ o.pp ∧ ∀ v, eos = some v → g.eos = v
    let reads : Prop := ready ∧ st.on = true ∧ outRoom (s.collar u) e = true ∧ (d.trig = false → guard none)
    let head : Prop := c.tok 0 = some tk ∧ c.y.qa = tk :: rest ∧ tk.bnr = false ∧ (∀ t ∈ c.toks, t.2.dom = 0)
      ∧ guard (some tk.eos)
    let emits (r m : State) (val : Line) (t dom seq lat : Nat) : Prop := ∃ out, (r.elemOf u e).out = x.out ++ [out]
      ∧ out.ready = s.cycle + lat ∧ out.tok.val = val ∧ out.tok.vc = o.ovc.toNat ∧ out.tok.dom = dom
      ∧ out.tok.seq = seq % 16 ∧ out.tok.lcnt = 16 ∧ out.tok.eos = decide (d.len ≤ t + 1)
      ∧ (t + 1 < d.len → ((r.elemOf u e).plane p).bank.st.t = t + 1) ∧ mem r m
    let started : Prop := ready ∧ st.on = false ∧ d.trig = true ∧ outRoom (s.collar u) e = true ∧ head
    let d1 := if tk.val.toNat % 2 ^ 64 = 0 then d else { d with base := tk.val.toNat % 2 ^ 64 }
    let dt := if d.trig then d1 else d
    let stream (v : State) : State := if d.trig then newStream v u e s.cur.slot else useStream v u e s.cur.slot
    let readBy (v : State) : List Byte × State := agRead v (streamOf v u e s.cur.slot) u e pa false
    let unlogged : Prop := ∀ n, taskOf s1 u e = some n → (s1.task n).staged pa = false
    let sends (r : State) (w : Fly) : Prop := (r.collar u).fly = (s1.collar u).fly ++ [w] ∧ w.elem = e ∧ w.pa = pa
      ∧ w.str = streamNo (stream s1) u e s.cur.slot ∧ w.due = s.cycle + agLat s u e pa ∧ w.direct = agDirect u e pa
      ∧ w.bytes = (lineBytes tk.val).take (4 * tk.lcnt)
    (reads → c.y.opcode = 0x3E → d.node = false → bannerDue c d = false →
      agLine s u e (d.va st.t) pRD (d.loc u) = (.ok pa, s1) → anyPoison s1 pa 64 = false →
      readBy (useStream s1 u e s.cur.slot) = (b, s2) →
      ∃ r, exec (.agld o) s = .next r ∧ emits r s1 (lineOfBytes b) st.t st.dom (st.t / 2 ^ bits d.ctl 12 9) (agLat s u e pa))
    ∧ (reads → c.y.opcode = 0x40 → d.va st.t % 64 = 0 → (d.loc u = true → d.va st.t < 0x100000) →
      ∃ r, exec (.agreq o) s = .next r ∧ emits r s (requestLine c.y d st.t) st.t st.dom st.t 6)
    ∧ (started → c.y.opcode = 0x3E → d.node = false →
      agLine (newStream s u e s.cur.slot) u e (d1.va 0) pRD (d.loc u) = (.ok pa, s1) → anyPoison s1 pa 64 = false →
      readBy (useStream s1 u e s.cur.slot) = (b, s2) →
      ∃ r, exec (.agld o) s = .next r ∧ ((r.elemOf u e).plane p).qa = rest
        ∧ emits r s1 (lineOfBytes b) 0 tk.dom 0 (agLat s u e pa))
    ∧ (started → c.y.opcode = 0x40 → d1.va 0 % 64 = 0 → (d.loc u = true → d1.va 0 < 0x100000) →
      ∃ r, exec (.agreq o) s = .next r ∧ ((r.elemOf u e).plane p).qa = rest
        ∧ emits r s (requestLine c.y d1 0) 0 tk.dom 0 6)
    ∧ (∀ addr left tile elem vc fmt tag n rg box, ready → c.y.opcode = 0x3E → d.node = true → head →
      (match st.req with | some l => some l | none => requestOf tk.val) = some [addr, left, tile, elem, vc, fmt, tag] →
      let dc := s.collar tile
      let far := tile ≠ u ∧ u < 64
      regionOf dc elem = some rg → taskOf s u e = some n → sameKernel s (dc.region rg).task (some n) = true →
      meshBox dc rg (((dc.elem elem).curOf s.cur.slot).getD p) vc = some box →
      pathOk dc rg (((dc.elem elem).curOf s.cur.slot).getD p) vc false 64 box 7 = true →
      (far → meshRoom s u true ≠ 0) →
      agLine (if far then meshTake s u 1 true else s) u e addr pRD false false = (.ok pa, s1) → anyPoison s1 pa 64 = false →
      agRead (if st.req = none ∨ (s1.ag (.reply u e)).task ≠ some n then
          s1.newAgent (.reply u e) (some n) (s1.task n).colFloor else s1) (.reply u e) u e pa false = (b, s2) →
      ∃ r m, exec (.agld o) s = .next r ∧ ((r.elemOf u e).plane p).qa = (if left ≤ 64 then rest else tk :: rest)
        ∧ ((r.collar tile).box box).mesh = (dc.box box).mesh ++ [m] ∧ m.val = lineOfBytes b ∧ m.vc = vc
        ∧ m.eos = decide (left ≤ 64) ∧ m.dom = tk.dom ∧ m.seq = st.t % 16 ∧ m.fmt = some fmt ∧ mem r s1)
    ∧ (ready → Claim.fires s o true → gateClosed s u e s.cur.slot = false → c.tok 0 = some tk →
      c.y.qa = tk :: rest → agLine s u e (dt.va st.t) pWR (d.loc u) true true = (.ok pa, s1) → unlogged →
      (c.k = 0 → ∃ r w, exec (.agst o) s = .next r ∧ ((r.elemOf u e).plane p).qa = rest ∧ (r.elemOf u e).out = x.out
        ∧ sends r w ∧ w.rmw = none ∧ mem r s1)
      ∧ (c.k ≠ 0 → (x.plane p).lines.length < 64 → ∃ r l, exec (.agst o) s = .next r ∧ ((r.elemOf u e).plane p).qa = rest
        ∧ ((r.elemOf u e).plane p).lines = (x.plane p).lines ++ [l] ∧ l.ivl = (x.plane p).bnrs + 1 ∧ l.pa = pa
        ∧ l.bytes = (lineBytes tk.val).take (4 * tk.lcnt) ∧ (r.collar u).fly = (s1.collar u).fly ∧ mem r s1))
    ∧ (ready → Claim.fires s o (!d.ret) → gateClosed s u e s.cur.slot = false → c.tok 0 = some tk →
      c.y.qa = tk :: rest → agLine s u e (dt.va st.t) (pRD + pWR) (d.loc u) true true = (.ok pa, s1) →
      anyPoison s1 pa 64 = false → agRead (stream s1) (streamOf (stream s1) u e s.cur.slot) u e pa true = (b, s2) → unlogged →
      let word (l : List Byte) (i : Nat) : Nat := natOfBytes ((l.drop (4 * i)).take 4)
      (o.sv = 2 → ∀ i, i < tk.lcnt →
        (rmwOf d.rmw o.fmt.toNat c.y.sat c.flush (word b i) (word (lineBytes tk.val) i)).fl.cause = none) →
      ∃ r w m, exec (.agrmw o) s = .next r ∧ ((r.elemOf u e).plane p).qa = rest ∧ sends r w ∧ mem r s1
        ∧ w.rmw = some m ∧ m.op = d.rmw ∧ m.fmt = o.fmt.toNat ∧ m.sat = c.y.sat ∧ m.flush = c.flush ∧ m.plane = p
        ∧ m.ret = d.ret ∧ m.value = none
        ∧ (d.ret = false → (r.elemOf u e).out = x.out)
        ∧ (d.ret = true → ∃ out, (r.elemOf u e).out = x.out ++ [out] ∧ out.need = true ∧ out.ready = s.cycle + agLat s u e pa
            ∧ out.tok.vc = o.ovc.toNat ∧ out.tok.eos = tk.eos ∧ out.tok.seq = tk.seq))
    ∧ ∀ (v f q : Nat),
      let y := s.planeOf v f q
      let at' := descPa v y
      let sl := (((s.elemOf v f).cur.find? fun c => c.2 == q).map (·.1)).getD 0
      let v1 := useStream s1 v f sl
      let (bs, _) := agRead v1 (streamOf v1 v f sl) v f at' false
      let dd := descOf (y.overlay at' bs)
      let line := localAddr v (y.const + 64 * y.bank.st.table.length)
      (y.bank.st.wantDesc = true → (s.elemOf v f).fault = none →
        takeBank s at' (((bankAt at').map (agPort v f)).getD 3) f = some s1 → anyPoison s1 at' 64 = false →
        (descBad v y.opcode dd = false → ∃ r, exec (.agDescriptorRead v f q) s = .next r
          ∧ (r.planeOf v f q).bank.st.desc = some dd ∧ (r.planeOf v f q).bank.st.wantDesc = false
          ∧ (r.planeOf v f q).bank.st.ready = s.cycle + 1 ∧ mem r s1)
        ∧ (descBad v y.opcode dd = true → ∃ r g, exec (.agDescriptorRead v f q) s = .next r
          ∧ (r.elemOf v f).fault = some g ∧ g.cause = 0x08 ∧ mem r s1))
      ∧ (y.opcode = 0x2C → y.bank.st.table.length < 33 → y.loaded = true → (∃ k, (k, q) ∈ (s.elemOf v f).cur) →
        y.bank.st.ready ≤ s.cycle → askBanks s (fun _ => (2, 0)) (elemReq v f) f [(line, 64)] = (true, s1) →
        ∃ r, exec (.lutTableRead v f q) s = .next r
          ∧ (r.planeOf v f q).bank.st.table = tput y.bank.st.table y.bank.st.table.length (lineOfBytes (s1.bytes line 64))
          ∧ (r.planeOf v f q).qa = y.qa ∧ mem r s1)

/-- Elements at the array and at ports (R95, R172, R173, R180, R196, R426): feed and wld hand their token to the array,
two cycles on; drn takes 16 words of the drain's due row; emit hands a command block to its engine, or a message to the
control processor, and passes replies on; recv passes messages on. Under a guard of 0, drn and recv take their row or
message and emit nothing (R147; log entry 62). DOM, SEQ and LCNT of a reply are log entry 54. -/
def Obligations.ElementArrayAndPorts : Prop :=
  ∀ (s : State) (o : EOp) (t : Tok),
    let u := s.cur.unit
    let e := s.cur.elem
    let x := s.elemOf u e
    let c := fctx s o
    let put : Tok := { t with
      rgn := regionNum (s.collar u) e, slot := s.cur.slot, plane := s.cur.plane, src := e, at' := s.cycle + 2 }
    let mem (r : State) : Prop := ∀ a, r.byte a = s.byte a
    (Claim.fires s o true → c.tok 0 = some t → (feedHeld x s.cur.slot).length < 4 → ∃ r, exec (.feed o) s = .next r
        ∧ Claim.fired s r o (srcQ o) true none none ∧ (r.elemOf u e).inbox = x.inbox ++ [put])
    ∧ (Claim.fires s o true → c.tok 0 = some t → wldAwaited (s.arr u) (wldLane e) = true → ∃ r, exec (.wld o) s = .next r
        ∧ Claim.firedElem s r o (srcQ o) true none none ∧ mem r ∧ (r.arr u).acc = (s.arr u).acc
        ∧ (r.arr u).deliv = (s.arr u).deliv ++ [{ lane := wldLane e, val := t.val, eos := t.eos, due := s.cycle + 2 }])
    ∧ (∀ d, u < 64 → drainDue (s.tile u) = some d → d.arr = some (regionNum (s.collar u) e, s.cur.slot) →
        let j := (e - 192) / 4
        let a := s.arr u
        let row := d.first + d.next
        a.dueRow = some row → j ∉ a.took → x.fault = none → outRoom (s.collar u) e = true → (s.tile u).still = false →
        (a.took = [] → ∀ i, i < 8 → drnRoom s u (drnElem i) s.cur.slot = true) → (∀ k ∈ a.accBad, k / 128 ≠ row) →
        (o.pg = true → c.y.qp ≠ []) →
        let taken (r : State) : Prop := (r.arr u).acc = a.acc
          ∧ (a.took.length + 1 < 8 → (r.arr u).took = a.took ++ [j] ∧ (r.arr u).drains = a.drains)
          ∧ (8 ≤ a.took.length + 1 → (r.arr u).took = [] ∧ (r.arr u).drains = if d.cnt ≤ d.next + 1 then a.drains.drop 1
              else { d with next := d.next + 1 } :: a.drains.drop 1)
        (∀ g, o.pg = true → c.y.qp.head? = some g → g.val = o.pp → ∃ r, exec (.drn o) s = .next r
          ∧ Claim.firedElem s r o [] true none none ∧ mem r ∧ taken r)
        ∧ ((o.pg = true → ∃ g, c.y.qp.head? = some g ∧ g.val ≠ o.pp) →
        ∃ r t', exec (.drn o) s = .next r ∧ Claim.firedElem s r o [] true (some t') none ∧ mem r
          ∧ t'.dom = boolNat d.dom ∧ t'.val = lineOf 32 (tabulate 16 fun i => (a.word row (16 * j + i)).toNat)
          ∧ t'.eos = decide (d.cnt ≤ d.next + 1) ∧ t'.seq = d.next % 16 ∧ t'.vc = o.ovc.toNat ∧ taken r))
    ∧ (∀ m, x.fault = none → outRoom (s.collar u) e = true → x.inbox.find? (fun t => t.slot == s.cur.slot) = some m →
        (∃ r, exec (.emit o) s = .next r ∧ Claim.fired s r o [] false (some m) none ∧ (r.elemOf u e).inbox = x.inbox.erase m)
        ∧ ((o.pg = true → ∃ g, c.y.qp.head? = some g ∧ g.val ≠ o.pp) → ∃ r, exec (.recv o) s = .next r
          ∧ Claim.fired s r o [] true (some { m with vc := o.ovc.toNat }) none ∧ (r.elemOf u e).inbox = x.inbox.erase m)
        ∧ ∀ g, o.pg = true → c.y.qp.head? = some g → g.val = o.pp → ∃ r, exec (.recv o) s = .next r
          ∧ Claim.fired s r o [] true none none ∧ (r.elemOf u e).inbox = x.inbox.erase m)
    ∧ (Claim.fires s o true → gateClosed s u e s.cur.slot = false → c.tok 0 = some t →
        x.inbox.find? (fun t => t.slot == s.cur.slot) = none →
        let blk := lineBytes t.val
        (c.y.mf 10 8 = 3 → s.mod.inbox.length < 64 → s.mod.waiting = [] → ∃ r m, exec (.emit o) s = .next r
          ∧ Claim.firedElem s r o (srcQ o) true none none ∧ mem r ∧ r.mod.inbox = s.mod.inbox ++ [m] ∧ m.kind = 0
          ∧ m.src = u ∧ m.unit = e ∧ m.bytes = blk)
        ∧ (∀ en opcs, c.y.mf 10 8 ≠ 3 → portEngine u (c.y.mf 10 8) blk = some (en, opcs) → 16 ≤ t.lcnt →
            engFree s en = true → (∀ n, taskOf s u e = some n → (s.token n ((blk.getD 2 0).toNat % 64)).st ≠ 1) →
            (∀ d ∈ (s.eng en).q, d.id < s.mod.nextCmd) → (∀ v, (s.collar v).fly = []) →
            ∃ r cmd, exec (.emit o) s = .next r ∧ Claim.firedOnly s r o (srcQ o) true none none ∧ mem r
              ∧ (r.eng en).q = (s.eng en).q ++ [cmd] ∧ cmd.block = blk ∧ cmd.task = taskOf s u e))

/-! ### The collar's network, configuration and cuts (R120-R136, R288, R386) -/

/-- Every byte of memory reads as before, and every tile's registers, accumulator store and faults stand. -/
def Sys2Proof.Claim.quiet (s t : State) : Prop := (∀ a, t.byte a = s.byte a) ∧ t.tiles = s.tiles

/-- A result leaves its element for every output the box's words name, each with room, and waits there; a token at a
box's element port enters the queue its VC names, one at another port or at a mesh attachment goes on into a box whose
words name outputs with room (R117, R119, R121-R124); pennants move the same way. A token on a VC the plane does not know
is told with 0x20; a fault token on vc31 follows its box's words or goes to the corner of its strip, which takes it into its
graph, or keeps its record, or tells with 0x2D that no handler stands there (R373-R375). How fault tokens reach the corner
is log entry 96, and the place in DETAIL log entry 97. -/
def Obligations.TokensAndPennantsHop : Prop :=
  ∀ (s : State) (u e b port p q : Nat) (r : ORes) (g : OPen) (rest : List ORes) (grest : List OPen) (t : Tok) (pn : Pen)
    (trest : List Tok) (prest : List Pen),
    let c := s.collar u
    let x := c.elem e
    let box := c.box (boxOf e)
    let outs := outsFor (box.words r.tok.rgn r.tok.plane) (portOf e) r.tok.vc false
    let pouts := outsFor (box.words g.pen.rgn g.pen.plane) (portOf e) g.pen.vc true
    let lastAt (l : List Tok) := (l.getLast?).map (·.at')
    (x.out = r :: rest → r.ready ≤ s.cycle → r.need = false → outs ≠ [] → outs.Nodup →
      pathOk c r.tok.rgn r.tok.plane r.tok.vc false 64 (boxOf e) (portOf e) = true →
      (∀ o ∈ outs, boxRoom c s.cycle (boxOf e) (dataKey r.tok.vc o) (lastAt (tget [] box.dbuf (dataKey r.tok.vc o))) = true) →
      ∃ n, exec (.tokenHop u (.elem e)) s = .next n ∧ (n.elemOf u e).out = rest ∧ Claim.quiet s n
        ∧ (∀ o ∈ outs, tget [] ((n.collar u).box (boxOf e)).dbuf (dataKey r.tok.vc o)
            = tget [] box.dbuf (dataKey r.tok.vc o) ++ [{ r.tok with at' := s.cycle }])
        ∧ (∀ k, k ∉ outs.map (dataKey r.tok.vc) → tget [] ((n.collar u).box (boxOf e)).dbuf k = tget [] box.dbuf k)
        ∧ (∀ f, f ≠ e → n.elemOf u f = s.elemOf u f) ∧ (∀ i, i ≠ boxOf e → (n.collar u).box i = c.box i))
    ∧ (x.pout = g :: grest → g.ready ≤ s.cycle → pouts ≠ [] → pouts.Nodup →
      pathOk c g.pen.rgn g.pen.plane g.pen.vc true 64 (boxOf e) (portOf e) = true →
      (∀ o ∈ pouts, boxRoom c s.cycle (boxOf e) (8 + o) (((tget [] box.pbuf o).getLast?).map (·.at')) = true) →
      ∃ n, exec (.pennantHop u (.elem e)) s = .next n ∧ (n.elemOf u e).pout = grest ∧ Claim.quiet s n
        ∧ ∀ o ∈ pouts, tget [] ((n.collar u).box (boxOf e)).pbuf o
            = tget [] box.pbuf o ++ [{ g.pen with at' := s.cycle }])
    ∧ (port < 4 → let f := elemAt b port
      let y := (c.elem f).plane p
      tget [] (c.box b).dbuf port = t :: trest → t.at' < s.cycle → intakePlane (c.elem f) t.slot t.vc = some p →
      vcV (y.vc t.vc) = true → vcQ (y.vc t.vc) = q → (q = 2 → 2 ∈ srcQ y.eop) → (y.queue q).length < 4 →
      lastAt (y.queue q) ≠ some s.cycle → queueKey f p q ∉ c.full →
      ∃ n, exec (.tokenHop u (.box b port)) s = .next n ∧ Claim.quiet s n
        ∧ ((n.elemOf u f).plane p).queue q = y.queue q ++ [{ t with at' := s.cycle }]
        ∧ tget [] ((n.collar u).box b).dbuf port = trest ∧ ∀ i, i ≠ p → (n.elemOf u f).plane i = (c.elem f).plane i)
    ∧ (port < 4 → let f := elemAt b port
      let y := (c.elem f).plane p
      tget [] (c.box b).pbuf port = pn :: prest → pn.at' < s.cycle → (c.elem f).curOf pn.slot = some p → p < 4 →
      pn.slot ∉ (c.elem f).switching → y.qp.length < 4 → (y.qp.getLast?).map (·.at') ≠ some s.cycle →
      queueKey f p 3 ∉ c.full →
      ∃ n, exec (.pennantHop u (.box b port)) s = .next n ∧ Claim.quiet s n
        ∧ ((n.elemOf u f).plane p).qp = y.qp ++ [{ pn with at' := s.cycle }]
        ∧ tget [] ((n.collar u).box b).pbuf port = prest)
    ∧ (∀ nb inp, let os := outsFor ((c.box nb).words t.rgn t.plane) inp t.vc false
      os ≠ [] → os.Nodup → (∀ o ∈ os, boxRoom c s.cycle nb (dataKey t.vc o)
        (lastAt (tget [] (c.box nb).dbuf (dataKey t.vc o))) = true) →
      let came (n : State) : Prop := Claim.quiet s n ∧ ∀ o ∈ os, tget [] ((n.collar u).box nb).dbuf (dataKey t.vc o)
        = tget [] (c.box nb).dbuf (dataKey t.vc o) ++ [{ t with at' := s.cycle }]
      (4 ≤ port → port < 7 → neighbour b port = (nb, inp) → nb ≠ b → tget [] (c.box b).dbuf port = t :: trest →
        t.at' < s.cycle → ∃ n, exec (.tokenHop u (.box b port)) s = .next n ∧ came n
          ∧ tget [] ((n.collar u).box b).dbuf port = trest)
      ∧ (nb = b → inp = 7 → (c.box b).mesh = t :: trest → t.at' ≤ s.cycle →
        ∃ n, exec (.tokenHop u (.mesh b)) s = .next n ∧ came n ∧ ((n.collar u).box b).mesh = trest))
    ∧ (∀ nb inp, let os := outsFor ((c.box nb).words pn.rgn pn.plane) inp pn.vc true
      os ≠ [] → os.Nodup → (∀ o ∈ os, boxRoom c s.cycle nb (8 + o) (((tget [] (c.box nb).pbuf o).getLast?).map (·.at')) = true) →
      let came (n : State) : Prop := Claim.quiet s n ∧ ∀ o ∈ os, tget [] ((n.collar u).box nb).pbuf o
        = tget [] (c.box nb).pbuf o ++ [{ pn with at' := s.cycle }]
      (4 ≤ port → port < 7 → neighbour b port = (nb, inp) → nb ≠ b → tget [] (c.box b).pbuf port = pn :: prest →
        pn.at' < s.cycle → ∃ n, exec (.pennantHop u (.box b port)) s = .next n ∧ came n
          ∧ tget [] ((n.collar u).box b).pbuf port = prest)
      ∧ (nb = b → inp = 7 → (c.box b).meshPen = pn :: prest → pn.at' ≤ s.cycle →
        ∃ n, exec (.pennantHop u (.mesh b)) s = .next n ∧ came n ∧ ((n.collar u).box b).meshPen = prest))
    ∧ (port < 4 → let f := elemAt b port
      let y := (c.elem f).plane p
      tget [] (c.box b).dbuf port = t :: trest → t.at' < s.cycle → intakePlane (c.elem f) t.slot t.vc = some p →
      vcV (y.vc t.vc) = false → (c.elem f).fault = none →
      ∃ n w, exec (.tokenHop u (.box b port)) s = .next n ∧ Claim.quiet s n ∧ (n.elemOf u f).fault = some w ∧ w.cause = 0x20
        ∧ w.detail = (if (srcQ y.eop).isEmpty then 4 else min 2 (vcQ (y.vc t.vc)))
        ∧ ((n.collar u).box b).dbuf = (c.box b).dbuf)
    ∧ (∀ ft frest, x.flt = ft :: frest → ft.vc = 31 → let os := outsFor (box.words ft.rgn ft.plane) (portOf e) 31 false
      (os = [] → (u < 64 ∨ ft.src / 64 ≠ 2 ∨ ft.flt = true) → ∃ n a, exec (.tokenHop u (.flt e)) s = .next n ∧ Claim.quiet s n
        ∧ (n.elemOf u e).flt = frest ∧ s.cycle < a
        ∧ (n.collar (stripOf u)).faultIn = (s.collar (stripOf u)).faultIn ++ [{ ft with at' := a }])
      ∧ (os ≠ [] → os.Nodup → (∀ o ∈ os, boxRoom c s.cycle (boxOf e) (16 + o) (lastAt (tget [] box.dbuf (16 + o))) = true) →
        ∃ n, exec (.tokenHop u (.flt e)) s = .next n ∧ Claim.quiet s n ∧ (n.elemOf u e).flt = frest
          ∧ ∀ o ∈ os, tget [] ((n.collar u).box (boxOf e)).dbuf (16 + o)
            = tget [] box.dbuf (16 + o) ++ [{ ft with at' := s.cycle }]))
    ∧ (∀ ft, c.faultIn.find? (fun t => decide (t.at' ≤ s.cycle)) = some ft →
      let kept (n : State) : Prop := Claim.quiet s n ∧ (n.collar u).faultIn = c.faultIn.erase ft
        ∧ (n.collar u).corner = c.corner ++ [frecOf (lineBytes ft.val)] ∧ (n.collar u).fin = (c.fin + 1) % 65536
      (cornerUp s u = false → s.mod.inbox.length < 64 → s.mod.waiting = [] → ∃ n m, exec (.tokenHop u .corner) s = .next n
        ∧ Claim.quiet s n ∧ (n.collar u).faultIn = c.faultIn.erase ft ∧ (n.collar u).corner = c.corner
        ∧ n.mod.inbox = s.mod.inbox ++ [m] ∧ m.kind = 3 ∧ m.cause = 0x2D)
      ∧ (cornerUp s u = true → cornerDoor c = none → ∃ n, exec (.tokenHop u .corner) s = .next n ∧ kept n)
      ∧ ∀ db r' sl pl, cornerUp s u = true → cornerDoor c = some (db, r', sl, pl) → ft.vc = 31 →
        let os := outsFor ((c.box db).words r' pl) 7 31 false
        os.Nodup → (∀ o ∈ os, boxRoom c s.cycle db (16 + o) (lastAt (tget [] (c.box db).dbuf (16 + o))) = true) →
        ∃ n, exec (.tokenHop u .corner) s = .next n ∧ kept n ∧ ∀ o ∈ os, tget [] ((n.collar u).box db).dbuf (16 + o)
          = tget [] (c.box db).dbuf (16 + o) ++ [{ ft with rgn := r', slot := sl, plane := pl, at' := s.cycle }])

/-- Configuration: a start begins a stream that is not running and is held beside one that is; a load that ends without
an error arms an empty slot, or stages its plane, one with an error changes no element, one with a parity error waits for
the image to be rewritten; a switch request reaches each element that takes part; in the cycle after its final firing an
element takes the staged plane, or faults where tokens remain in the old one; a banner at every sourced head saves the bank; a cut complete
at every element of a slot moves CUT on; ECLR clears what its bits name (R120, R127, R130, R136, R288, R386). -/
def Obligations.ConfigurationAndCuts : Prop :=
  ∀ (s : State) (u e r slot p : Nat) (v : W32),
    let c := s.collar u
    let x := c.elem e
    let y := x.plane p
    let g := c.region r
    (∀ a, c.starts.find? (fun a => a.elem == e && decide (a.at' ≤ s.cycle)) = some a → x.curOf a.slot = some p →
      startable y = true → a.slot ∉ x.switching → ∃ n, exec (.sourceStartArrival u e) s = .next n ∧ Claim.quiet s n
        ∧ (n.collar u).starts = c.starts.erase a
        ∧ (y.bank.st.on = false → (n.planeOf u e p).bank.st.on = true ∧ (n.planeOf u e p).bank.st.dom = a.dom
            ∧ (n.planeOf u e p).bank.st.t = 0)
        ∧ (y.bank.st.on = true → (n.planeOf u e p).bank.st = { y.bank.st with held := some a.dom }))
    ∧ (∀ l rest, c.loads = l :: rest → ctxParity s u l.img = true → l.told = false →
        ∃ n, exec (.configLoad u) s = .next n ∧ Claim.quiet s n
          ∧ (n.collar u).loads = { l with start := none, told := true } :: rest
          ∧ ((n.collar u).region l.rgn).armed = (c.region l.rgn).armed ∧ (n.collar u).elems = c.elems)
    ∧ (∀ l rest err, c.loads = l :: rest → ctxParity s u l.img = false → imageErr s u l.rgn l.slot l.plane l.img = some err →
        ∃ n, exec (.configLoad u) s = .next n ∧ (∀ a, n.byte a = s.byte a) ∧ (n.collar u).loads = rest
          ∧ ((n.collar u).region l.rgn).armed = (c.region l.rgn).armed ∧ (n.collar u).elems = c.elems)
    ∧ (∀ l rest, c.loads = l :: rest → ctxParity s u l.img = false → imageErr s u l.rgn l.slot l.plane l.img = none →
        ∃ n, exec (.configLoad u) s = .next n ∧ (∀ a, n.byte a = s.byte a) ∧ (n.collar u).loads = rest
          ∧ l.slot ∈ ((n.collar u).region l.rgn).armed
          ∧ (l.slot ∈ (c.region l.rgn).armed →
              tget (4, false) ((n.collar u).region l.rgn).staged l.slot = (l.plane, (imageOf s u l.img).partial')))
    ∧ (∀ w f, g.switches.find? (fun w => decide (w.arrive ≤ s.cycle) && w.arrive != 0) = some w →
        f < 256 → bit g.emask f = true → thas c.elems f = true → ((c.elem f).goesTo w.slot = some w.to'
          ∨ (w.partial' = false ∧ ∃ k, (c.elem f).curOf w.slot = some k)) →
        ∃ n, exec (.switchRequestArrival u r) s = .next n ∧ Claim.quiet s n
          ∧ (n.elemOf u f).switching = (c.elem f).switching ++ [w.slot] ∧ (n.elemOf u f).planes = (c.elem f).planes
          ∧ (n.elemOf u f).cur = (c.elem f).cur)
    ∧ (∀ w old, (c.region (regionNum c e)).switches.find? (fun w => w.slot == slot) = some w → x.curOf slot = some old →
        slot ∈ x.switching → thas x.final slot = true → tget 0 x.final slot < s.cycle → x.fault = none →
        x.goesTo slot = some w.to' → let z := x.plane old
        let empty : Prop := z.qa = [] ∧ z.qb = [] ∧ z.qc = [] ∧ z.qp = []
        z.bank.st.outq = [] → ¬ (z.bank.st.on = true ∧ z.opcode = 0x3E ∧ srcQ z.eop ≠ []) →
        (empty ∨ z.eosp = true ∨ z.bank.st.grant = some 4 →
          ∃ n, exec (.elementPlaneSwitch u e slot) s = .next n ∧ (∀ a, n.byte a = s.byte a)
          ∧ (n.elemOf u e).curOf slot = some w.to' ∧ (n.elemOf u e).switching = x.switching.erase slot
          ∧ (old ≠ w.to' → (n.planeOf u e old).bank.disc
              = min 0xFFFF (z.bank.disc + (z.qa.length + z.qb.length + z.qc.length + z.qp.length)))
          ∧ ∀ f, f ≠ e → n.elemOf u f = s.elemOf u f)
        ∧ (¬ empty → z.eosp = false → z.bank.st.grant ≠ some 4 →
          ∃ n q, exec (.elementPlaneSwitch u e slot) s = .next n ∧ (∀ a, n.byte a = s.byte a)
          ∧ (n.elemOf u e).fault = some q ∧ q.cause = 0x22 ∧ (n.elemOf u e).cur = x.cur
          ∧ q.detail = (if z.qa ≠ [] then 0 else if z.qb ≠ [] then 1 else if z.qc ≠ [] then 2 else 3)))
    ∧ (x.cur.find? (fun k => k.2 == p) = some (slot, p) → x.fault = none → y.bank.st.outq = [] → srcQ y.eop ≠ [] →
        (∀ q ∈ srcQ y.eop, ∃ t rest, y.queue q = t :: rest ∧ t.bnr = true) → outRoom c e = true → y.lacksTable = false →
        (gatedOp y.opcode = true → gateClosed s u e slot = false) →
        ∃ n, exec (.bannerCut u e p) s = .next n ∧ Claim.quiet s n ∧ (n.planeOf u e p).bnrs = y.bnrs + 1
          ∧ (n.planeOf u e p).cuts = y.cuts ++ [(y.bnrs + 1,
              if y.opcode = 0x03 then { y.bank with st := { y.bank.st with cnt := 0 } } else y.bank)]
          ∧ (∀ q ∈ srcQ y.eop, (n.planeOf u e p).queue q = (y.queue q).drop 1))
    ∧ (∀ k, let es := (slotElems c g slot).filter fun i => ((c.elem i.1).plane i.2).opcode != 0
        es ≠ [] → (∀ i ∈ es, ((((c.elem i.1).plane i.2).cuts).head?).map (·.1) = some k) →
        ∃ n, exec (.cutComplete u r slot) s = .next n ∧ tget 256 ((n.collar u).region r).cut slot = k % 256)
    ∧ (e < 256 → p < 4 → ∃ n, exec (.eclr u e p v) s = .next n ∧ Claim.quiet s n
        ∧ (v.toNat.testBit 0 = true → (n.planeOf u e p).bank.sat = 0 ∧ (n.planeOf u e p).bank.ufl = 0
            ∧ (n.planeOf u e p).bank.rsv = 0 ∧ (n.planeOf u e p).bank.disc = 0)
        ∧ (v.toNat.testBit 0 = false → { (n.planeOf u e p).bank with ctr := y.bank.ctr } = y.bank)
        ∧ (n.planeOf u e p).bank.ctr = (if v.toNat.testBit 1 then [] else y.bank.ctr) ∧ (n.planeOf u e p).queue = y.queue
        ∧ ∀ f, f ≠ e → n.elemOf u f = s.elemOf u f)

/-- Repair tokens (R376-R380, R388, R389): one that names the outstanding record and is accepted for its cause ends the
fault, by a retry, a value, the plain attempt, a line of zeros, a discarded token or the last complete cut, or tells that
no cut can be gone back to; a payload reader's is ended the same way; ESCALATE leaves the unit stopped and reports the
record; any other token is discarded, counted in RBAD and reported. RPTOK7 sends
the assembled token, CORNSTAT.CLR clears RBAD. What ZERO does where no line is at hand is log entry 49, and that an answer
by RPTOK comes in as an input log entry 74. -/
def Obligations.RepairsTakeEffect : Prop :=
  ∀ (s : State) (r : Repair) (f : FRec) (strip : Nat) (v : W64),
    let x := s.elemOf r.tile r.unit
    let named : Prop := r.tile < 68 ∧ r.unit < 256 ∧ x.fault = some f ∧ f.unit = r.unit ∧ f.tile = r.tile
      ∧ f.fseq = r.fseq.toNat ∧ f.ctx % 64 = r.ctx.toNat
    let after (n : State) := (n.elemOf r.tile r.unit)
    let st (n : State) : OpState := (n.planeOf r.tile r.unit f.plane).bank.st
    let mem (n : State) : Prop := ∀ a, n.byte a = s.byte a
    let formsOf (r : Repair) : List (Nat × Instr) := [(0, .repairRetry r), (1, .repairReplace r), (2, .repairDefault r),
      (3, .repairZero r), (4, .repairDiscard r), (5, .repairRollback r), (6, .repairEscalate r)]
    (named → f.accepts 0 = true → ∃ n, exec (.repairRetry r) s = .next n ∧ (after n).fault = none
        ∧ (after n).planes = x.planes ∧ mem n)
    ∧ (named → f.accepts 1 = true → ∃ n, exec (.repairReplace r) s = .next n ∧ (after n).fault = none
        ∧ (st n).grant = some 1 ∧ (st n).value = r.value.toNat ∧ mem n)
    ∧ (named → f.accepts 2 = true → ∃ n, exec (.repairDefault r) s = .next n ∧ (after n).fault = none
        ∧ (st n).grant = some 2 ∧ mem n)
    ∧ (named → f.accepts 3 = true → ∃ n, exec (.repairZero r) s = .next n ∧ (after n).fault = none ∧ mem n)
    ∧ (named → f.accepts 4 = true → ∃ n, exec (.repairDiscard r) s = .next n
        ∧ (after n).fault = none ∧ mem n)
    ∧ (∀ p k b, named → f.accepts 5 = true → rollbackRefusal s f.tile (f.ctx % 4) f.slot = none →
        thas (s.collar r.tile).elems r.unit = true → bit ((s.collar r.tile).region (f.ctx % 4)).emask r.unit = true →
        x.curOf f.slot = some p → (x.plane p).cutDone = some (k, b) → ∃ n, exec (.repairRollback r) s = .next n ∧ mem n
          ∧ (after n).fault = none ∧ ((after n).plane p).bank = { b with st := { b.st with grant := none } }
          ∧ ((after n).plane p).qa = [] ∧ ((after n).plane p).qb = [] ∧ ((after n).plane p).qc = []
          ∧ ((after n).plane p).qp = [])
    ∧ (∀ why, named → f.accepts 5 = true → rollbackRefusal s f.tile (f.ctx % 4) f.slot = some why →
        ∃ n g, exec (.repairRollback r) s = .next n ∧ mem n ∧ (after n).fault = some g ∧ g.cause = 0x28
          ∧ g.detail = f.cause + 2 ^ 8 * why ∧ (after n).planes = x.planes)
    ∧ (r.tile < 64 → r.unit = 256 → (s.tile r.tile).wd.readFault = some f → f.unit = 256 → f.tile = r.tile →
        f.fseq = r.fseq.toNat → f.ctx % 64 = r.ctx.toNat → ∀ k ∈ [(0, Instr.repairRetry r), (3, .repairZero r)],
        f.accepts k.1 = true → ∃ n, exec k.2 s = .next n ∧ (n.tile r.tile).wd.readFault = none
          ∧ (n.tile r.tile).wd.wpc = (s.tile r.tile).wd.wpc ∧ (n.tile r.tile).ctx = (s.tile r.tile).ctx ∧ mem n)
    ∧ (named → f.accepts 6 = true → s.mod.inbox.length < 64 → s.mod.waiting = [] → ∃ n m, exec (.repairEscalate r) s = .next n
        ∧ (after n).fault = some f ∧ n.mod.inbox = s.mod.inbox ++ [m] ∧ m.kind = 1 ∧ m.cause = f.cause ∧ m.bytes = f.bytes
        ∧ mem n)
    ∧ (r.tile < 68 → r.unit < 256 → (s.collar r.tile).gone = [] → ∀ k ∈ formsOf r, (x.fault = none
        ∨ ∃ g, x.fault = some g ∧ (g.fseq ≠ r.fseq.toNat ∨ g.accepts k.1 = false)) → ∃ n, exec k.2 s = .next n
        ∧ (n.collar (repairStrip r)).rbad = min 0xFFFF ((s.collar (repairStrip r)).rbad + 1) ∧ after n = x ∧ mem n)
    ∧ (let b := (tabulate 8 fun n => bytesOfNat 8 (if n = 7 then v else tget 0 (s.collar strip).rptok n).toNat).flatten
        let tok : Repair := { tile := blk b 1 1, unit := blk b 2 2, ctx := BitVec.ofNat 6 (blk b 4 1)
                              fseq := BitVec.ofNat 8 (blk b 5 1), value := BitVec.ofNat 32 (blk b 8 4)
                              rsvAct := BitVec.ofNat 5 (blk b 0 1 / 8), rsvCtx := BitVec.ofNat 2 (blk b 4 1 / 64)
                              rsv := BitVec.ofNat 16 (blk b 6 2) }
        (∀ k ∈ formsOf tok, blk b 0 1 % 8 = k.1 → exec (.rptokSend strip v) s = .next { s with inputs := s.inputs ++ [k.2] })
        ∧ (blk b 0 1 % 8 = 7 → ∃ n, exec (.rptokSend strip v) s = .next n ∧ mem n
          ∧ (n.collar strip).rbad = min 0xFFFF ((s.collar strip).rbad + 1)))
    ∧ ∃ n, exec (.cornstatClr strip) s = .next n ∧ (n.collar strip).rbad = 0 ∧ (n.collar strip).corner = (s.collar strip).corner
        ∧ Claim.quiet s n

/-! ### Engines and links (R82-R98, R415-R419) -/

/-- An element that a command has read is put at its destination: where a page fails the command pauses; where a line
still waits for its bank it is held; else every byte outside the destination is as it was, and a byte written now is that
read, unless it was poisoned, lies at a source byte or one written before of the command, or where another command wrote (R72,
R82, R88, R89, R101; the free values and the order are log entry 42). `v` is the state it is put in, `t` the one after. -/
def Sys2Proof.Claim.puts (e : Eng) (id : Nat) (v t : State) (c : Cmd) (h : Shape) (k : Nat) (d : List (Byte × Bool)) : Prop :=
  let dst := (h.addrs k).2
  let n := 2 ^ h.esz
  let now (f : Cmd → Prop) : Prop := ∃ c', cmdOf t e id = some c' ∧ c'.block = c.block ∧ f c'
  (∀ v1 cause a, cmdXlate v e c dst n pWR = (.fail cause a, v1) → Claim.memAs v v t ∧ now fun c' => c'.st = .paused cause a)
  ∧ ∀ qs v1, cmdXlate v e c dst n pWR = (.ok qs, v1) → v.mem.wf = true → (∀ q ∈ qs, ∀ w off, place q.1 ≠ .planes w off) →
    (∀ u, (v.collar u).fly = []) →
    (∀ a, a ∉ pieceBytes qs → t.byte a = v.byte a)
    ∧ (∀ v2, writeElem v1 e c qs (elemUnit h.esz dst.toNat) d = (none, v2) →
        now fun c' => c'.hold = some (k, d) ∧ c'.pos = c.pos ∧ c'.st = .running)
    ∧ (∀ v2 b c1, writeElem v1 e c qs (elemUnit h.esz dst.toNat) d = (some (b, c1), v2) →
        now (fun c' => c'.hold = none ∧ c'.st = .running ∧ (k = c.pos → c'.pos = c.pos + 1)
          ∧ (k ≠ c.pos → c'.pos = c.pos ∧ c'.ahead.length = c.ahead.length + 1))
        ∧ ∀ pd, qs = [(pd, d.length)] → (bankAt pd = none ∨ (pd % 64 + d.length ≤ 64
            ∧ ∃ r, reqAt v1 (reqId 15 c.id) (pd, d.length) = some r ∧ r.granted = true ∧ r.got = none)) →
          ∀ i, i < d.length → (d.getD i (0, false)).2 = false → pd + i ∉ c.readB → pd + i ∉ c.wrote →
            foreignByte v1 (.cmd c.id) (pd + i) = false → t.byte (pd + i) = (d.getD i (0, false)).1)

/-- Engine commands (R82, R84, R85, R88-R98, R341): a waiting command whose shape record is still to be read has it read;
one with its record ends where a consumed token is FAILED, and starts when all are DONE or FREE; a copy reads one element
and puts it at its destination, or visits one that it has performed ahead, and pauses where a translation fails; the
commands to the network and storage gather their source bytes, hand them over or ask for theirs, and write what comes; a
link push sends what it has gathered and ends once every packet is answered, a link pull asks for its data and ends once
every element has come; an ended command gives its token the status, also in its task's saved image, and leaves the
engine's queue; a paused one is resumed, or ends FAILED. A turn handles one element (log entry 42), and a push ends with
its last answer (log entry 43). A running command's record is the one kept while memory still holds what was read of it. -/
def Obligations.EngineCommandsProgress : Prop :=
  ∀ (s : State) (e : Eng) (id : Nat) (c : Cmd), cmdOf s e id = some c →
    let forms : List (Nat × Instr) := [(1, .cmdCopy e id), (2, .cmdLpush e id), (3, .cmdLpull e id), (4, .cmdNetr e id),
      (5, .cmdNetw e id), (6, .cmdStgr e id), (7, .cmdStgw e id)]
    let far : List (Nat × Instr) := [(4, .cmdNetr e id), (5, .cmdNetw e id), (6, .cmdStgr e id), (7, .cmdStgw e id)]
    let k := tget {} s.handles c.handle
    let now (t : State) (f : Cmd → Prop) : Prop := ∃ c', cmdOf t e id = some c' ∧ c'.block = c.block ∧ f c'
    let mem (t : State) : Prop := ∀ a, t.byte a = s.byte a
    let ended (t : State) : Prop := mem t ∧ now t fun c' => ∃ w, c'.st = .ending w
    (∀ p ∈ forms, c.opc = p.1 → c.st = .waiting → c.shape = none → ∀ s1 s2 ps d,
        cmdXlate s e c (blk c.block 8 8 : Nat) 128 pRD = (.ok ps, s1) →
        lineAccess s1 (cmdPort e c) (reqId 7 c.id) 256 (cmdTile e c) false ps (fun pa n s =>
          ((lineRead (match c.task with | some n => AgentId.task n | none => .sched) 4 pa n s).1, s)) = (some d, s2) →
        (∀ x ∈ d, x.2 = false) →
        let b := d.map (·.1)
        (shapeBad b c.opc = true ∨ lengthBad s2 c (shapeOf b) = true → ∃ t, exec p.2 s = .next t ∧ Claim.memAs s s2 t
          ∧ now t fun c' => ∃ w, c'.st = .ending w)
        ∧ (shapeBad b c.opc = false → lengthBad s2 c (shapeOf b) = false → c.retryOnly = false →
          ∃ t, exec p.2 s = .next t ∧ now t (fun c' => c'.shape = some b ∧ c'.st = .waiting) ∧ Claim.memAs s s2 t))
    ∧ (∀ p ∈ forms, c.opc = p.1 → c.st = .waiting → c.shape ≠ none →
        (∀ n j, c.task = some n → j ∈ c.tkcs → (s.token n j).st = 3 → ∃ t w, exec p.2 s = .next t ∧ mem t
          ∧ now t (fun c' => c'.st = .ending w) ∧ w.toNat % 4 = 3 ∧ w.toNat.testBit 19 = true)
        ∧ (c.carry = false → (∀ n, c.task = some n → ∀ j ∈ c.tkcs, (s.token n j).st ≠ 1 ∧ (s.token n j).st ≠ 3) →
        ∃ t, exec p.2 s = .next t ∧ now t (fun c' => c'.st = .running) ∧ mem t ∧ t.tiles = s.tiles ∧ t.collars = s.collars))
    ∧ (∀ b, c.st = .running → c.shape = some b → (∀ r ∈ c.read, s.bytes r.1 r.2.length = r.2) → let h := shapeOf b
        (c.opc = 1 → c.hold = none → c.pos < h.count →
          (∀ a, c.ahead.find? (fun a => a.1 == c.pos) = some a → ∃ t, exec (.cmdCopy e id) s = .next t
              ∧ now t (fun c' => c'.pos = c.pos + 1 ∧ c'.st = .running) ∧ mem t)
          ∧ (c.ahead.find? (fun a => a.1 == c.pos) = none →
          let j := c.elem.getD (nextElem s e c h)
          let c0 := { c with elem := some j }
          let s0 := setCmd s e c0
          (∀ s1 cause a, cmdXlate s0 e c0 (h.addrs j).1 (2 ^ h.esz) pRD = (.fail cause a, s1) → ∃ t,
            exec (.cmdCopy e id) s = .next t ∧ mem t ∧ now t (fun c' => c'.st = .paused cause a))
          ∧ ∀ s1 s2 s3 ps qs c1 d,
          cmdXlate s0 e c0 (h.addrs j).1 (2 ^ h.esz) pRD = (.ok ps, s1) →
          cmdXlate s1 e c0 (h.addrs j).2 (2 ^ h.esz) pWR = (.ok qs, s2) →
          readElem s2 e c0 ps (elemUnit h.esz (h.addrs j).1.toNat) = (some (d, c1), s3) →
          ∃ t, exec (.cmdCopy e id) s = .next t
            ∧ Claim.puts e id (setCmd s3 e { c1 with hold := some (j, d) }) t { c1 with hold := some (j, d) } h j d))
        ∧ (∀ j d, c.opc = 1 → c.hold = some (j, d) → ∃ t, exec (.cmdCopy e id) s = .next t ∧ Claim.puts e id s t c h j d)
        ∧ (c.opc = 1 → c.hold = none → h.count ≤ c.pos → ∃ t w, exec (.cmdCopy e id) s = .next t
            ∧ now t (fun c' => c'.st = .ending w) ∧ mem t ∧ (c.poisoned = false → c.cmp = false → w.toNat % 4 = 2))
        ∧ (∀ s1 s2 ps d c1, c.wrote = [] → c.pos < h.count → c.opc = 5 ∨ c.opc = 7 →
            cmdXlate s e c (h.addrs c.pos).1 (2 ^ h.esz) pRD = (.ok ps, s1) →
            readElem s1 e c ps (elemUnit h.esz (h.addrs c.pos).1.toNat) = (some (d, c1), s2) →
            ((d.any (·.2)) && e == .eth) = false → ∀ p ∈ far, c.opc = p.1 → ∃ t, exec p.2 s = .next t ∧ Claim.memAs s s2 t
              ∧ now t (fun c' => c'.pos = c.pos + 1 ∧ c'.data = c.data ++ d.map (·.1) ∧ c'.st = .running))
        ∧ (h.count ≤ c.pos → c.sent = 0 → (c.opc = 5 → ∃ t, exec (.cmdNetw e id) s = .next t ∧ now t (fun c' => c'.sent = 1)
              ∧ t.outbox = s.outbox ++ [.rdmaWrite k.qp k.key (BitVec.ofNat 64 c.remoteVa) c.data] ∧ mem t)
            ∧ (c.opc = 7 → ∃ t, exec (.cmdStgw e id) s = .next t ∧ now t (fun c' => c'.sent = 1) ∧ mem t
              ∧ t.outbox = s.outbox ++ [.nvme c.handle true (BitVec.ofNat 64 c.remoteVa) c.data c.data.length]))
        ∧ (c.sent = 0 → (c.opc = 4 → ∃ t, exec (.cmdNetr e id) s = .next t ∧ now t (fun c' => c'.sent = 1) ∧ mem t
              ∧ t.outbox = s.outbox ++ [.rdmaRead k.qp k.key (BitVec.ofNat 64 c.remoteVa) h.bytes])
            ∧ (c.opc = 6 → ∃ t, exec (.cmdStgr e id) s = .next t ∧ now t (fun c' => c'.sent = 1) ∧ mem t
              ∧ t.outbox = s.outbox ++ [.nvme c.handle false (BitVec.ofNat 64 c.remoteVa) [] h.bytes]))
        ∧ (∀ s1 s2 qs b c1, c.sent ≠ 0 → c.pos < h.count → c.opc = 4 ∨ c.opc = 6 → s.mem.wf = true →
            (∀ u, (s.collar u).fly = []) → cmdXlate s e c (h.addrs c.pos).2 (2 ^ h.esz) pWR = (.ok qs, s1) →
            (∀ q ∈ qs, ∀ w off, place q.1 ≠ .planes w off) →
            writeElem s1 e c qs (elemUnit h.esz (h.addrs c.pos).2.toNat)
              ((farBytes s1 (2 ^ h.esz)).map fun x => (x, false)) = (some (b, c1), s2) →
            ∀ p ∈ far, c.opc = p.1 → ∃ t, exec p.2 s = .next t
              ∧ now t (fun c' => c'.pos = c.pos + 1 ∧ c'.st = .running) ∧ ∀ a, a ∉ pieceBytes qs → t.byte a = s.byte a)
        ∧ (h.count ≤ c.pos → c.sent ≠ 0 → ∀ p ∈ far, c.opc = p.1 → ∃ t, exec p.2 s = .next t ∧ ended t)
        ∧ (∀ p, routePort s c.peerCoord = some p → (s.link p).state ≠ 0 →
            (c.opc = 2 → h.count ≤ c.pos → c.data = [] → c.bad = [] → c.sent ≤ c.got → ∃ t, exec (.cmdLpush e id) s = .next t ∧ ended t)
            ∧ (c.opc = 2 → h.count ≤ c.pos → c.data ≠ [] → c.bad = List.replicate c.data.length false →
              c.data.length ≤ 30 * 64 → (s.link p).want = [] → (s.link p).kept.length < 8 → ∃ t,
              exec (.cmdLpush e id) s = .next t ∧ now t (fun c' => c'.data = [] ∧ c'.sent = c.sent + 1) ∧ mem t
              ∧ (t.link p).kept.length = (s.link p).kept.length + 1 ∧ t.outbox.length = s.outbox.length + 1)
            ∧ (∀ s1 s2 ps d c1, c.opc = 2 → c.wrote = [] → c.pos < h.count → c.data = [] → c.bad = [] →
              cmdXlate s e c (h.addrs c.pos).1 (2 ^ h.esz) pRD = (.ok ps, s1) → e ≠ .eth →
              readElem s1 e c ps (elemUnit h.esz (h.addrs c.pos).1.toNat) = (some (d, c1), s2) → ∃ t,
              exec (.cmdLpush e id) s = .next t ∧ Claim.memAs s s2 t ∧ now t (fun c' => c'.pos = c.pos + 1 ∧ c'.data = d.map (·.1)))
            ∧ (c.opc = 3 → c.pos < h.count → c.data.length < 2 ^ h.esz → c.sent ≤ c.got → (s.link p).want = [] →
              (s.link p).kept.length < 8 → ∃ t, exec (.cmdLpull e id) s = .next t ∧ mem t
                ∧ now t (fun c' => c'.sent = c.sent + 1) ∧ t.outbox.length = s.outbox.length + 1)
            ∧ (c.opc = 3 → h.count ≤ c.pos → ∃ t, exec (.cmdLpull e id) s = .next t ∧ ended t)))
    ∧ (∀ w, c.st = .ending w → ∃ t, exec (.engineCmdComplete e id) s = .next t ∧ cmdOf t e id = none
        ∧ ((∀ n pa, c.task = some n → savedAt s n ≠ some (.mem pa)) → mem t)
        ∧ (∀ n pa, c.task = some n → savedAt s n = some (.mem pa) → s.mem.wf = true →
            let at' := pa + 832 + 8 * c.tkp
            (∀ i, i < 8 → t.byte (at' + i) = BitVec.ofNat 8 (w.toNat / 2 ^ (8 * i)))
            ∧ ∀ a, (a < pa + 20 ∨ pa + 24 ≤ a) → (a < at' ∨ at' + 8 ≤ a) → t.byte a = s.byte a)
        ∧ (∀ n, c.task = some n → (t.token n c.tkp).word = w
          ∧ (∀ j, j ≠ c.tkp → t.token n j = s.token n j) ∧ (w.toNat % 4 ≠ 2 → (t.token n c.tkp).cov = [])))
    ∧ (∀ cause addr fail, c.st = .paused cause addr → ∃ t, exec (.commandResume e id fail) s = .next t ∧ mem t
        ∧ now t (fun c' => c'.st = if fail then .ending (failedWord s e c cause)
            else if c.shape = none then .waiting else .running))

/-- Torus ports (R96, R415-R419): a whole frame with the expected sequence number is taken in and acknowledged away, one
whose CRC is wrong is refused and counted; a replay sends every kept frame from the named one again, and the fourth in a row
retrains to a narrower width; training gives the widest width the lanes allow, or takes the port down; a packet for this
module that writes is performed line by line, one for another goes out on its route's port, or, where that is down, ends
with LINK_DOWN; one that reads, or whose access fails, is answered; one that waits for a walk or a bank stays; LNKSTAT.CLR
clears both counts. No byte changes but those a served write names, and those read as the packet gives them where no fault
injection is armed, the data is not poisoned and no command has written there before. What a packet's TAG says is the
model's choice (log entry 16), which packet LINK_DOWN answers and how a NAK goes out its reading (log entry 98), the lanes kept of a
port and its number log entry 55's. -/
def Obligations.TorusPortsWork : Prop :=
  ∀ (s : State) (die port : Nat) (frame hd : List Byte) (rest : List (List Byte)) (lanes : BitVec 16),
    let k := linkKey die port
    let l := s.link k
    let crcOk : Prop := frame.length = 2048 ∧ (chkStep 2 0 [] (frame.take 2044)).1 = blk frame 2044 4
    let seq := blk frame 1984 2
    let n := min 64 (blk hd 7 1)
    let dst := (blk hd 1 1, blk hd 2 1, blk hd 3 1)
    let src := (blk hd 4 1, blk hd 5 1, blk hd 6 1)
    let tag := blk hd 12 4
    let va := blk hd 16 8
    let mem (t : State) : Prop := ∀ a, t.byte a = s.byte a
    let fits (w : Nat) : Prop := lanesFor w ≤ onesOf 16 lanes.toNat
    (l.state = 2 → crcOk → seq = l.recvSeq → blk frame 1988 1 % 2 = 0 → ∃ t, exec (.linkFrameReceive die port frame) s = .next t
        ∧ (t.link k).recvSeq = (seq + 1) % 0x10000 ∧ (t.link k).nakWait = false ∧ mem t
        ∧ (t.link k).inq = l.inq ++ packetFlits (owed 0 l.inq) (tabulate 31 fun i => (frame.drop (64 * i)).take 64))
    ∧ (l.state = 2 → ¬ crcOk → ∃ t, exec (.linkFrameReceive die port frame) s = .next t ∧ mem t ∧ (t.link k).inq = l.inq
        ∧ (t.link k).crcerr = min 0xFFFF (l.crcerr + 1) ∧ (t.link k).recvSeq = l.recvSeq ∧ (t.link k).nakWait = true
        ∧ (l.kept.length ≤ 8 → (t.link k).kept.length ≤ 8) ∧ t.outbox.length = s.outbox.length + 1)
    ∧ (∀ q, let go := l.kept.filter fun f => seqLe q f.1
        let had := BitVec.ofNat 16 l.laneok
        go ≠ [] → (l.resends < 3 → ∃ t, exec (.linkReplay die port q) s = .next t ∧ (t.link k).kept = l.kept ∧ mem t
          ∧ t.outbox = s.outbox ++ go.map (fun f => .frame die port f.2) ∧ (t.link k).resends = l.resends + 1)
        ∧ (3 ≤ l.resends → ∃ t, exec (.linkReplay die port q) s = .next t ∧ mem t
          ∧ (lanesFor 2 ≤ onesOf 16 had.toNat → (t.link k).state = 2 ∧ (t.link k).resends = 0
              ∧ min 2 (l.width + 1) ≤ (t.link k).width ∧ (t.link k).width ≤ 2 ∧ (t.link k).kept = l.kept)
          ∧ (¬ lanesFor 2 ≤ onesOf 16 had.toNat → (t.link k).state = 0)))
    ∧ (fits 2 → ∃ t, exec (.firmwareRetraining die port lanes) s = .next t ∧ mem t ∧ (t.link k).state = 2
        ∧ (t.link k).width = (if 16 ≤ onesOf 16 lanes.toNat then 0 else if 8 ≤ onesOf 16 lanes.toNat then 1 else 2)
        ∧ (t.link k).kept = l.kept)
    ∧ (l.state ≠ 0 → fits 2 → ∃ t, exec (.linkRetrain die port lanes) s = .next t ∧ mem t ∧ (t.link k).state = 2
        ∧ min 2 (l.width + 1) ≤ (t.link k).width ∧ (t.link k).width ≤ 2 ∧ (t.link k).kept = l.kept)
    ∧ (¬ fits 2 → (l.state ≠ 0 → ∃ t, exec (.linkRetrain die port lanes) s = .next t ∧ mem t ∧ (t.link k).state = 0)
        ∧ ∃ t, exec (.firmwareRetraining die port lanes) s = .next t ∧ mem t ∧ (t.link k).state = 0)
    ∧ (l.inq = hd :: rest → blk hd 0 1 ≠ 0 → n ≤ rest.length → dst ≠ s.mod.coord → ∀ out, routePort s dst = some out →
        (out ≠ k → (s.link out).state ≠ 0 → (s.link out).want = [] → (s.link out).kept.length + (n + 31) / 31 ≤ 8 →
        ∃ t, exec (.linkCopyServe die port) s = .next t ∧ (t.link k).inq = rest.drop n ∧ mem t
          ∧ (t.link out).kept.length = (s.link out).kept.length + (n + 31) / 31)
        ∧ ((s.link out).state = 0 → blk hd 0 1 = 1 ∨ blk hd 0 1 = 2 → src ≠ s.mod.coord → ∃ t m,
          exec (.linkCopyServe die port) s = .next t ∧ (t.link k).inq = m :: rest.drop n ∧ mem t
          ∧ blk m 0 1 = 5 ∧ (blk m 1 1, blk m 2 1, blk m 3 1) = src ∧ blk m 24 4 = 0x1C))
    ∧ (∀ s1 ps, l.inq = hd :: rest → n ≤ rest.length → dst = s.mod.coord →
        let pay := (rest.take n).flatten
        let pad := tagPad tag
        let s0 := match routePort s src with
          | some o => if (s.link o).state = 0 then s else (askPort s o (streamKey k) 2).2
          | none => s
        let asks (need len : Nat) (r : Option (Except Nat (List (Nat × Nat)))) : Prop :=
          peerAccess s0 die port (bits (blk hd 8 2) 11 0) va len need = (r, s1)
        let who := reqId 8 (2 * die + port)
        let gone (t : State) : Prop := exec (.linkCopyServe die port) s = .next t ∧ (t.link k).inq = rest.drop n
        let answered (t : State) : Prop := gone t ∧ ∀ o, o ≠ k → routePort s src = some o → (s.link o).state ≠ 0 →
          (t.link o).kept.length = (s.link o).kept.length + 1
        let push (r : Option (Except Nat (List (Nat × Nat)))) : Prop := blk hd 0 1 = 1 ∧ asks pWR (pay.length - pad) r
        let pull (r : Option (Except Nat (List (Nat × Nat)))) : Prop := blk hd 0 1 = 2 ∧ asks pRD (64 - pad) r
        (blk hd 0 1 ≠ 0 → blk hd 0 1 ≠ 1 → blk hd 0 1 ≠ 2 → ∃ t, gone t ∧ mem t)
        ∧ ((∀ o, routePort s src = some o → (s.link o).want = [] ∧ (s.link o).kept.length < 8) →
        (push none ∨ pull none → exec (.linkCopyServe die port) s = .next s1 ∧ mem s1)
        ∧ (∀ c, push (some (.error c)) ∨ pull (some (.error c)) → ∃ t, answered t ∧ mem t)
        ∧ (pull (some (.ok ps)) → let a := AgentId.peer (coordNum src) (2 ^ 32 + tagCmd tag)
          let s2 := if (s1.link k).pay.isSome then s1
            else (if bit tag 15 then s1.newAgent a none else s1).setLink k { s1.link k with pay := some [] }
          ∀ got s3, lineAccess s2 (linkWay die) who 256 none false ps (lineRead a (elemUnit (bits tag 22 20) va)) = (got, s3) →
          ∃ t, exec (.linkCopyServe die port) s = .next t ∧ Claim.memAs s s3 t ∧ (got = none → t = s3)
            ∧ (∀ d, got = some d → (t.link k).inq = rest.drop n))
        ∧ (push (some (.ok ps)) → s.mem.wf = true → (∀ q ∈ ps, ∀ w off, place q.1 ≠ .planes w off) →
          (∀ u, (s.collar u).fly = []) → ∀ r b s2,
          beginPush s1 (.link die port) k (coordNum src) tag (blk hd 24 4) (pay.take (pay.length - pad)) = (r, b, s2) →
          ∀ got s3, linesWrite s2 (linkWay die) who 256 none ps (writeLineOf (.peer (coordNum src) r.id) (fun _ => false)
            (elemUnit (bits tag 22 20) va) (b.map fun x => (x, bit tag 17))) = (got, s3) →
          ∃ t, exec (.linkCopyServe die port) s = .next t ∧ (got = none → t = s3) ∧ (∀ d, got = some d → answered t)
            ∧ (∀ a, a ∉ pieceBytes ps → t.byte a = s.byte a)
            ∧ ∀ pd, got ≠ none → ps = [(pd, b.length)] → (bankAt pd = none ∨ (pd % 64 + b.length ≤ 64
                ∧ ∃ q, reqAt s2 who (pd, b.length) = some q ∧ q.granted = true ∧ q.got = none)) →
              (l.pay = none → bit (lcinjOf s die).toNat 0 = false → b = pay.take (pay.length - pad))
              ∧ (bit tag 17 = false → ∀ i, i < b.length → foreignByte s2 (.peer (coordNum src) r.id) (pd + i) = false →
                t.byte (pd + i) = b.getD i 0))))
    ∧ ∃ t, exec (.lnkstatClr die port) s = .next t ∧ (t.link k).crcerr = 0 ∧ (t.link k).replay = 0
        ∧ (t.link k).state = l.state ∧ (t.link k).width = l.width ∧ (t.link k).inq = l.inq ∧ (t.link k).kept = l.kept ∧ mem t

/-! ### Fetching, servicing of faults, translation (R69-R78, R230, R382-R385) -/

/-- A line that issue needs enters the instruction cache as memory holds it; hret with FACT 0 goes back to the faulting
bundle and with FACT 1 past it, has an access performed again, lets a weight chain go on, FACT 2 escalates, and a task may
not issue it; FLTCTL.GO does the same for an escalated fault, or runs the stub again;
FLTRVAL writes the selected scalar register. A miss goes to the die's walker; a walk that finds a leaf fills the cache
of each unit that waits; an invalidation is queued, and when complete leaves no entry it names, nor a failure read before.
A patrol scrub changes nothing (R62, R74-R78, R230, R384, R385). That a failed fetch is kept for the bundle it was for, and
how a line is keyed, is the reading of log entry 28. -/
def Obligations.FetchServicingAndTranslation : Prop :=
  ∀ (s s1 s2 : State) (t : Nat),
    let x := s.tile t
    let mem (r : State) : Prop := ∀ a, r.byte a = s.byte a
    let kept (r : State) : Prop := (r.tile t).ctx.s = x.ctx.s ∧ (r.tile t).ctx.v = x.ctx.v ∧ (r.tile t).sys = x.sys
      ∧ ∀ u, u ≠ t → r.tile u = s.tile u
    let same (r : State) : Prop := mem r ∧ kept r
    let serviced (r : State) (f : CFault) (act : Nat) : Prop := same r
      ∧ (r.tile t).ctx.pc = (if act = 1 ∧ f.src = .issue then pcNext (BitVec.ofNat 64 f.fr.pos) else x.ctx.pc)
    (x.shadow.active = false → x.issues = true → cachedLine x (s.xu t).asid (pcLine x.ctx.pc) = none → x.fetchBad = none →
      let read := tilePieces s t 4 0 (pcLine x.ctx.pc) 128 pXB false
      let lost := takeFailure s t (tileReq 4 t 0)
      (∀ pa n ps, lost = none → read = (.ok ((pa, n) :: ps), s1) →
        askBanks s1 (portTo t 5) (tileReq 4 t 0) 256 ((pa, n) :: ps) = (true, s2) → x.icache.length < 1024 →
        ∃ r l, exec (.instructionFetch t) s = .next r ∧ (r.tile t).icache = x.icache ++ [l] ∧ l.va = pcLine x.ctx.pc
          ∧ l.asid = (s.xu t).asid ∧ l.bytes = s2.bytes pa 128 ∧ (r.tile t).ctx = x.ctx ∧ kept r ∧ Claim.memAs s s2 r)
      ∧ (∀ c a, lost = none → read = (.fail c a, s1) → ∃ r, exec (.instructionFetch t) s = .next r ∧ same r
        ∧ (r.tile t).fetchBad = some (x.ctx.pc, c, pcGroup x.ctx.pc) ∧ (r.tile t).icache = x.icache)
      ∧ (∀ c, lost = some (x.ctx.pc.toNat / 2 ^ 18, c, s1) → inLoopBuf x.ctx = false →
        ∃ r, exec (.instructionFetch t) s = .next r ∧ same r
          ∧ (r.tile t).fetchBad = some (x.ctx.pc, c, pcGroup x.ctx.pc) ∧ (r.tile t).icache = x.icache))
    ∧ (x.shadow.active = true → let va := pcLine x.shadow.ctx.pc
      cachedLine x physAsid va = none → (place va = .hbm ∨ ∃ u o, place va = .spm u o) →
      askBanks s (portTo t 5) (tileReq 4 t 1) 256 [(va, 128)] = (true, s2) → x.icache.length < 1024 →
      ∃ r l, exec (.instructionFetch t) s = .next r ∧ (r.tile t).icache = x.icache ++ [l] ∧ l.va = va ∧ l.asid = physAsid
        ∧ l.bytes = s2.bytes va 128 ∧ (r.tile t).ctx = x.ctx ∧ kept r ∧ Claim.memAs s s2 r)
    ∧ (Claim.canFault s → Claim.faults .hret s 0x07)
    ∧ (∀ f rest, x.shadow.queue = f :: rest → x.shadow.back = [] → s.cur.shadow = true → s.cur.unit = t →
        (f.src = .weight → x.shadow.fact.toNat % 4 < 2 → ∃ r, exec .hret s = .next r ∧ same r ∧ (r.tile t).wd.flt = rest.any (fun g => g.fr.unit == 258)
          ∧ (r.tile t).wd.ahead = [] ∧ (r.tile t).wd.wpc = x.wd.wpc ∧ (r.tile t).shadow.queue = rest)
        ∧ (∀ id, f.src = .access id → x.shadow.fact.toNat % 4 = 0 → ∃ r, exec .hret s = .next r ∧ same r
          ∧ (∀ o ∈ (r.tile t).ctx.ops, o.id = id → o.st = .waiting) ∧ (r.tile t).shadow.queue = rest))
    ∧ (∀ f rest, x.shadow.queue = f :: rest → (f.src = .issue ∨ f.src = .trap) → x.shadow.back = [] →
        (s.cur.shadow = true → s.cur.unit = t → x.shadow.fact.toNat % 4 < 2 → ∃ r, exec .hret s = .next r
          ∧ serviced r f (x.shadow.fact.toNat % 4) ∧ (r.tile t).shadow.queue = rest)
        ∧ (s.cur.shadow = true → s.cur.unit = t → x.shadow.fact.toNat % 4 = 2 → ∃ r, exec .hret s = .next r
          ∧ same r ∧ (r.tile t).ctx.pc = x.ctx.pc ∧ (r.tile t).shadow.esc = true ∧ (r.tile t).shadow.fltrec = some f.fr)
        ∧ (x.shadow.esc = true → (∃ r, exec (.fltctlGoResume t) s = .next r ∧ serviced r f 0 ∧ (r.tile t).shadow.queue = rest)
          ∧ (∃ r, exec (.fltctlGoSkip t) s = .next r ∧ serviced r f 1 ∧ (r.tile t).shadow.queue = rest)
          ∧ ∃ r, exec (.fltctlGoRerun t) s = .next r ∧ same r ∧ (r.tile t).shadow.esc = false
              ∧ (r.tile t).shadow.running = true ∧ (r.tile t).shadow.ctx.pc = x.shadow.stubpc
              ∧ (r.tile t).shadow.queue = f :: rest))
    ∧ (∀ v, x.shadow.esc = true → x.shadow.rsel < 32 → ∃ r, exec (.fltrvalWrite t v) s = .next r ∧ mem r
        ∧ (∀ k, (r.tile t).ctx.getS k = if k = x.shadow.rsel ∧ k ≠ 0 then v else x.ctx.getS k)
        ∧ (r.tile t).ctx.v = x.ctx.v ∧ (r.tile t).ctx.pc = x.ctx.pc)
    ∧ (let w := tget ({} : Walker) s.walkers (unitDie t)
        ∀ m, (s.xu t).miss.find? (fun e => !e.sent && e.failed.isNone) = some m → w.flight.length < 128 →
        (∀ k ∈ w.flight ++ w.queue, ¬ (k.asid = m.asid ∧ k.vpn = m.vpn)) → ∃ r k, exec (.walkRequest t) s = .next r
          ∧ (tget ({} : Walker) r.walkers (unitDie t)).flight = w.flight ++ [k] ∧ k.asid = m.asid ∧ k.vpn = m.vpn
          ∧ k.root = m.root ∧ k.units = [t] ∧ mem r)
    ∧ (∀ d asid vpn k e ps u, let w := tget ({} : Walker) s.walkers d
        w.flight.find? (fun k => k.asid == asid && k.vpn == vpn) = some k →
        (walk s w asid k.root vpn = (.leaf e, ps) → u ∈ dieUnits d → (s.xu u).tlb.length < tlbSize u →
          (∃ m ∈ (s.xu u).miss, m.failed = none ∧ m.asid = asid ∧ m.vpn = vpn) →
          ∃ r, exec (.pageWalkComplete d asid vpn) s = .next r ∧ mem r ∧ e ∈ (r.xu u).tlb
            ∧ ∀ m ∈ (r.xu u).miss, ¬ (m.failed = none ∧ m.asid = asid ∧ m.vpn = vpn))
        ∧ (∀ c, walk s w asid k.root vpn = (.fail c, ps) → u ∈ k.units → ∃ r, exec (.pageWalkComplete d asid vpn) s = .next r
          ∧ mem r ∧ (r.xu u).wfail = true ∧ (r.xu u).tlb = (s.xu u).tlb
          ∧ ∀ m ∈ (s.xu u).miss, m.failed = none → m.asid = asid → m.vpn = vpn → m.reqs ≠ [] →
              { m with failed := some c } ∈ (r.xu u).miss))
    ∧ (∀ asid vpn bc, let q (i : Instr) (v : Inv) : Prop := ∃ r, exec i s = .next r ∧ (r.xu t).inv = (s.xu t).inv ++ [v]
          ∧ (r.xu t).tlb = (s.xu t).tlb ∧ mem r ∧ r.tiles = s.tiles
        q (.xlinvPage t asid vpn bc) { kind := 0, asid := asid, vpn := vpn, bc := bc }
        ∧ q (.xlinvAsid t asid bc) { kind := 1, asid := asid, vpn := 0, bc := bc }
        ∧ q (.xlinvNonglobal t bc) { kind := 2, asid := 0, vpn := 0, bc := bc }
        ∧ q (.xlinvAll t bc) { kind := 3, asid := 0, vpn := 0, bc := bc })
    ∧ (∀ i rest, (s.xu t).inv = i :: rest → ∃ r, exec (.invalidationComplete t) s = .next r ∧ (r.xu t).inv = rest ∧ mem r
        ∧ ∀ u ∈ invUnits t i, (∀ e ∈ (r.xu u).tlb, invHits i e = false ∧ e ∈ (s.xu u).tlb)
          ∧ ∀ e ∈ (r.xu u).miss, invMiss i e = false ∧ e ∈ (s.xu u).miss)
    ∧ ∀ pa, exec (.patrolScrub pa) s = .next s

/-! ### The host port and user queues (R344-R353, R407-R414) -/

/-- Requests of the host (R344, R349, R407-R409): a write of a window's bytes is performed and no other byte changes, a read
answers the bytes, a flush read answers zeros, a doorbell moves WRIDX, a consumed count is taken; a request whose key names
no valid window, or whose check fails, is answered with a NAK and puts its queue pair in error; an unsupported one is
answered with a NAK; one that waits for a walk or a grant comes again. A request is served where the port has trained and
its queue pair is connected and not in error, else it has no effect (log entry 45); that a waiting one comes first again is the
reading of log entry 75, and what is reported of a refused one log entry 52's. -/
def Obligations.HostRequestsAreServed : Prop :=
  ∀ (s s1 : State) (qp q pa : Nat) (key val : W32) (w : Window) (addr : W64) (data : List Byte) (ps : List (Nat × Nat)),
    let mem (t : State) : Prop := ∀ a, t.byte a = s.byte a
    let x := s.queue q
    let nak (i : Instr) : Prop := ∃ t, exec i s = .next t ∧ t.outbox = s.outbox ++ [.nak qp true] ∧ (t.qp qp).err = true ∧ mem t
    let comesAgain (i : Instr) : Prop := ∃ t, exec i s = .next t ∧ t.inputs = i :: s.inputs ∧ t.outbox = s.outbox ∧ mem t
    let served : Prop := qpServed s qp = true
    let noFly : Prop := ∀ u, (s.collar u).fly = []
    (qpServed s qp = false → ∀ i ∈ [Instr.hostRdmaWrite qp key addr data, .hostRdmaRead qp key addr data.length, .flushRead qp key,
        .doorbellWrite qp key q val, .cqConsumedWrite qp key q val], exec i s = .next s)
    ∧ (served → keyWindow s key = none → nak (.hostRdmaWrite qp key addr data)
        ∧ nak (.hostRdmaRead qp key addr data.length) ∧ nak (.flushRead qp key) ∧ nak (.doorbellWrite qp key q val)
        ∧ nak (.cqConsumedWrite qp key q val))
    ∧ (served → keyWindow s key = some w →
        (w.reg = false → s.mem.wf = true → noFly → let ask := windowPieces s w addr.toNat data.length true
          (ask = some (.ok ps, s1) → let r := AgentId.qp qp
            ∀ got s2, linesWrite s1 meshPort (reqId 9 w.asid) 256 none ps (fun o pa n s => ([], physWrite s r pa ((data.drop o).take n) 8
              (if (s1.qp qp).flushed = true then [relOf s1 r .sys (coveredNow s1 r)] else []))) = (got, s2) → ∃ t,
            exec (.hostRdmaWrite qp key addr data) s = .next t ∧ t.outbox = s.outbox
            ∧ t.inputs = (if got = none then .hostRdmaWrite qp key addr data :: s.inputs else s.inputs)
            ∧ (∀ a, (∀ p ∈ ps, a < p.1 ∨ p.1 + p.2 ≤ a) → t.byte a = s.byte a)
            ∧ (got ≠ none → ps = [(pa, data.length)] → (∀ u o, place pa ≠ .planes u o) →
              (bankAt pa = none ∨ (pa % 64 + data.length ≤ 64
                ∧ ∃ q, reqAt s1 (reqId 9 w.asid) (pa, data.length) = some q ∧ q.granted = true ∧ q.got = none)) →
              ∀ a, pa ≤ a → a < pa + data.length → t.byte a = data.getD (a - pa) 0))
          ∧ (ask = some (.wait, s1) → comesAgain (.hostRdmaWrite qp key addr data))
          ∧ (∀ c k, ask = some (.fail c k, s1) → nak (.hostRdmaWrite qp key addr data))
          ∧ (ask = none → nak (.hostRdmaWrite qp key addr data)))
        ∧ (∀ n, w.reg = false → let ask := windowPieces s w addr.toNat n false
          (ask = some (.ok ps, s1) → ∀ got s2,
            lineAccess s1 meshPort (reqId 9 w.asid) 256 none false ps (lineRead (.qp qp) 8) = (got, s2) → ∃ t,
            exec (.hostRdmaRead qp key addr n) s = .next t ∧ Claim.memAs s s2 t
            ∧ (got = none → t.inputs = .hostRdmaRead qp key addr n :: s.inputs ∧ t.outbox = s.outbox)
            ∧ ∀ d, got = some d → t.inputs = s.inputs ∧ t.outbox = s.outbox ++
              [if (∀ x ∈ d, x.2 = false) then .readReply qp (d.map (·.1)) else .nak qp false])
          ∧ (ask = some (.wait, s1) → comesAgain (.hostRdmaRead qp key addr n))
          ∧ (∀ c k, ask = some (.fail c k, s1) → nak (.hostRdmaRead qp key addr n))
          ∧ (ask = none → nak (.hostRdmaRead qp key addr n)))
        ∧ (w.reg = true → w.w = true → data.length = 4 →
          (doorbellAt addr.toNat = some (q, true) → exec (.hostRdmaWrite qp key addr data) s
            = exec (.doorbellWrite qp key q (BitVec.ofNat 32 (natOfBytes data))) s)
          ∧ (doorbellAt addr.toNat = some (q, false) → exec (.hostRdmaWrite qp key addr data) s
            = exec (.cqConsumedWrite qp key q (BitVec.ofNat 32 (natOfBytes data))) s))
        ∧ (w.reg = true → (w.w = false ∨ data.length ≠ 4 ∨ doorbellAt addr.toNat = none) → nak (.hostRdmaWrite qp key addr data))
        ∧ (w.reg = true → w.r = true → place addr.toNat = .reg 74 0 → exec (.hostRdmaRead qp key addr 8) s = exec (.flushRead qp key) s)
        ∧ (∀ n, w.reg = true → (w.r = false ∨ n ≠ 8 ∨ place addr.toNat ≠ .reg 74 0) → nak (.hostRdmaRead qp key addr n))
        ∧ (w.reg = false ∨ w.w = false → nak (.doorbellWrite qp key q val) ∧ nak (.cqConsumedWrite qp key q val))
        ∧ (w.reg = false ∨ w.r = false → nak (.flushRead qp key))
        ∧ (w.reg = true → w.w = true → (x.open' = false ∨ x.asid ≠ w.asid) →
          (∃ t, exec (.doorbellWrite qp key q val) s = .next t ∧ t.fe.baddb = min 0xFFFF (s.fe.baddb + 1) ∧ t.queue q = x ∧ mem t)
          ∧ exec (.cqConsumedWrite qp key q val) s = .next s)
        ∧ (w.reg = true → w.r = true → ∃ t, exec (.flushRead qp key) s = .next t ∧ mem t
            ∧ t.outbox = s.outbox ++ [.readReply qp (List.replicate 8 0)] ∧ (t.qp qp).flushed = true)
        ∧ (w.reg = true → w.w = true → x.open' = true → x.asid = w.asid →
            (val.toNat ≠ x.wridx → (val.toNat + 2 ^ 32 - x.rdidx) % 2 ^ 32 ≤ x.entries →
              ∃ t, exec (.doorbellWrite qp key q val) s = .next t ∧ (t.queue q).wridx = val.toNat
                ∧ (t.queue q).rdidx = x.rdidx ∧ mem t ∧ ((mappedSlot s q).isNone → q ∈ t.fe.pend)
                ∧ (∀ v ∈ x.floor, v ∈ (t.queue q).floor) ∧ ∀ v ∈ (s.ag (.qp qp)).written, v ∈ (t.queue q).floor)
            ∧ (val.toNat = x.wridx → exec (.doorbellWrite qp key q val) s = .next s)
            ∧ (x.entries < (val.toNat + 2 ^ 32 - x.rdidx) % 2 ^ 32 → val.toNat ≠ x.wridx →
              ∃ t, exec (.doorbellWrite qp key q val) s = .next t ∧ (t.queue q).fstall = true ∧ (t.queue q).scause = 0x1B
                ∧ (t.queue q).wridx = x.wridx ∧ mem t)
            ∧ ∃ t, exec (.cqConsumedWrite qp key q val) s = .next t ∧ (t.queue q).cqdone = val.toNat ∧ mem t))
    ∧ (s.mod.ethUp = true → ∃ t, exec (.invalidRequest qp) s = .next t ∧ t.outbox = s.outbox ++ [.nak qp false]
        ∧ t.mem = s.mem ∧ t.tiles = s.tiles)
    ∧ (s.mod.ethUp = false → exec (.invalidRequest qp) s = .next s)

/-- User queues and the front end (R348-R353, R410-R414): a mapped queue's next packet is fetched; a slot is mapped and
unmapped, at once or once its fetch has ended; the first completed packet's record goes to the completion ring, and an
event frame to the host; a failed record write stalls the queue until FSTALL is cleared; descriptions of queues and
windows are written, open queues and valid windows keeping what they hold. What counts as unwritten after a failure is the
model's choice (log entry 91), a written offset that no table names its reading (log entry 25). -/
def Obligations.QueuesAndFrontEnd : Prop :=
  ∀ (s s1 s2 : State) (q n off : Nat) (v : W64) (ps : List (Nat × Nat)),
    let mem (t : State) : Prop := ∀ a, t.byte a = s.byte a
    let x := s.queue q
    let f := s.fslot n
    let y := s.queue f.q
    let a := tget ({} : Asid) s.asids y.asid
    let entry := vaPieces 64 y.asid a.root true (reqId 10 f.q) pRD false 2 (y.qbase + y.rdidx % y.entries * 64) 64 s
    let granted (b : Bool) : Prop := askBanks s1 meshPort (reqId 10 f.q) 256 ps = (b, s2)
    let stalled (c : Nat) (m : State) : Prop := ∃ t, exec (.packetFetch n) s = .next t ∧ Claim.memAs s m t
      ∧ t.queue f.q = { y with fstall := true, scause := c } ∧ (t.fslot n).v = true ∧ (t.fslot n).fetching = false
    let failed : Prop := x.fstall = true ∧ x.scause = 0x18
    let waits : Prop := ∃ t, exec (.packetFetch n) s = .next t ∧ mem t ∧ t.queue f.q = y ∧ (t.fslot n).fetching = true
    (f.v = true → (f.fetching = true ∨ (f.busy = false ∧ fetchable y = true)) →
        (entry = (.ok ps, s1) →
          (granted true → poisonedPiece s2 ps = false → ∃ t p, exec (.packetFetch n) s = .next t
            ∧ (t.queue f.q).packets = y.packets ++ [p] ∧ p.n = y.rdidx
            ∧ p.bytes = (readPieces .sched 8 ps (s2.addFloor .sched y.floor)).1 ∧ p.begun = false ∧ p.done = false
            ∧ (t.queue f.q).rdidx = (y.rdidx + 1) % 2 ^ 32 ∧ (t.queue f.q).floor = [] ∧ (t.fslot n).fetching = false
            ∧ Claim.memAs s s2 t)
          ∧ (granted true → poisonedPiece s2 ps = true → stalled 0x14 s2) ∧ (granted false → waits))
        ∧ (entry = (.wait, s1) → waits) ∧ ∀ c k, entry = (.fail c k, s1) → stalled c s1)
    ∧ (f.v = true → f.fetching = false → (f.busy = true ∨ fetchable y = false) → ∃ t, exec (.packetFetch n) s = .next t
        ∧ t.queues = s.queues ∧ mem t)
    ∧ (f.v = false → f.busy = false → x.open' = true → mappedSlot s q = none → ∃ t, exec (.feslotMap n q) s = .next t
        ∧ t.fslot n = { q := q, shown := q, v := true } ∧ q ∉ t.fe.pend ∧ mem t)
    ∧ ((f.v = true ∨ f.busy = true ∨ x.open' = false ∨ (mappedSlot s q).isSome = true) →
        exec (.feslotMap n q) s = .next { s with fe := { s.fe with cerr := true } })
    ∧ (f.v = true → f.fetching = false → ∃ t, exec (.feslotUnmap n) s = .next t ∧ t.fslot n = { f with v := false } ∧ mem t)
    ∧ (f.v = true → f.fetching = true → ∃ t, exec (.feslotUnmap n) s = .next t ∧ t.fslot n = { f with busy := true } ∧ mem t)
    ∧ (f.busy = true → f.fetching = false → ∃ t, exec (.feslotUnmapEnd n) s = .next t
        ∧ t.fslot n = { f with v := false, busy := false } ∧ mem t)
    ∧ (∃ t, exec .festatClr s = .next t ∧ t.fe.baddb = 0 ∧ t.fe.slots = s.fe.slots ∧ mem t)
    ∧ (∀ p, x.firstDone = some p → bit (blk p.bytes 1 1) 0 = false → ∃ t, exec (.completionRecordWrite q) s = .next t
        ∧ (t.queue q).packets = x.packets.filter (fun r => r.n != p.n) ∧ (t.queue q).cqidx = x.cqidx ∧ t.outbox = s.outbox ∧ mem t)
    ∧ (∀ p, x.firstDone = some p → bit (blk p.bytes 1 1) 0 = true → (x.cqFull = true ∨ failed) →
        exec (.completionRecordWrite q) s = .next s)
    ∧ (∀ p, x.firstDone = some p → (p ∈ x.packets ∧ p.done = true ∧ ∀ r ∈ x.packets, r.done = true → p.fin ≤ r.fin))
    ∧ (∀ p, x.firstDone = some p → bit (blk p.bytes 1 1) 0 = true → x.cqFull = false → ¬ failed →
        ∃ t, exec (.completionRecordWrite q) s = .next t ∧ (t.queue q).cqidx = (x.cqidx + 1) % 2 ^ 32 ∧ mem t
          ∧ (t.queue q).packets = x.packets.filter (fun r => r.n != p.n) ∧ (t.queue q).p = x.p + 1
          ∧ (t.queue q).t0 = (if x.p = 0 then s.cycle else x.t0) ∧ (t.queue q).sent = [p]
          ∧ (t.queue q).told = x.told ++ [((x.cqidx + 1) % 2 ^ 32, p.cov)]
          ∧ t.outbox = s.outbox ++ [.rdmaWrite x.cqh x.cqkey (x.cqaddr + BitVec.ofNat 64 (x.cqidx % x.cqEntries * 32))
              (recordBytes q x p)])
    ∧ (x.even = true → ¬ failed → 1 ≤ x.p →
        (x.thresh ≤ x.p ∨ x.t0 + x.hold * s.mod.mhz ≤ s.cycle ∨ (x.idle = true ∧ x.idleAt + 2 * s.mod.mhz ≤ s.cycle + 1)) → ∃ t, exec (.eventFrameSend q) s = .next t
        ∧ (t.queue q).p = 0 ∧ mem t
        ∧ t.outbox = s.outbox ++ [.writeImm x.cqh (BitVec.ofNat 32 (q % 1024 + x.cqidx % 2 ^ 16 * 2 ^ 16))])
    ∧ ((x.even = false ∨ failed ∨ x.p = 0 ∨ (x.ev = false ∧ x.p < x.thresh ∧ s.cycle < x.t0 + x.hold * s.mod.mhz
          ∧ x.idle = false)) → ∃ t, exec (.eventFrameSend q) s = .next t ∧ t.outbox = s.outbox ∧ (t.queue q).p = x.p ∧ mem t)
    ∧ (∃ t, exec (.completionWriteFailure q) s = .next t ∧ (t.queue q).fstall = true ∧ (t.queue q).scause = 0x18
        ∧ (t.queue q).packets = x.sent.map (fun p => { p with fin := 0 }) ++ x.packets
        ∧ (t.queue q).cqidx = (x.cqidx + 2 ^ 32 - x.sent.length) % 2 ^ 32 ∧ t.outbox = s.outbox ∧ mem t)
    ∧ (∃ t, exec (.queueFstallClear q) s = .next t ∧ t.queue q = { x with fstall := false } ∧ mem t)
    ∧ (∃ t, exec (.queueDescWrite q 8 v) s = .next t ∧ (t.queue q).open' = bit v.toNat 16 ∧ mem t
        ∧ (t.queue q).fstall = (x.fstall && !bit v.toNat 18)
        ∧ (x.open' = true → (t.queue q).qbase = x.qbase ∧ (t.queue q).asid = x.asid ∧ (t.queue q).logn = x.logn
            ∧ (t.queue q).even = x.even ∧ (t.queue q).rdidx = x.rdidx ∧ (t.queue q).wridx = x.wridx)
        ∧ (x.open' = false → (t.queue q).asid = bits v.toNat 15 4 ∧ (t.queue q).logn = bits v.toNat 3 0
            ∧ (t.queue q).even = bit v.toNat 25 ∧ (bit v.toNat 16 = true → (t.queue q).rdidx = 0
            ∧ (t.queue q).wridx = 0)))
    ∧ (∃ t, exec (.queueDescWrite q 0 v) s = .next t ∧ mem t
        ∧ (t.queue q).qbase = if x.open' then x.qbase else bits v.toNat 51 6 * 64)
    ∧ (∃ t, exec (.queueDescWrite q 0x18 v) s = .next t ∧ mem t ∧ t.queue q = { x with cqaddr := v })
    ∧ (∃ t, exec (.queueDescWrite q 0x20 v) s = .next t ∧ mem t
        ∧ t.queue q = { x with cqlog := bits v.toNat 43 40, cqh := bits v.toNat 39 32, cqkey := v.setWidth 32 })
    ∧ (∃ t, exec (.queueDescWrite q 0x28 v) s = .next t ∧ mem t
        ∧ t.queue q = { x with hold := bits v.toNat 25 16, thresh := bits v.toNat 15 0 })
    ∧ (let w : Window := tget {} s.windows n; (w.v = false → (∃ t, exec (.rdmaWindowWrite n 0 v) s = .next t ∧ mem t ∧ tget ({} : Window) t.windows n = { w with base := v })
          ∧ ∃ t, exec (.rdmaWindowWrite n 8 v) s = .next t ∧ mem t ∧ tget ({} : Window) t.windows n = { w with len := v })
        ∧ (w.v = true → ∀ o, o = 0 ∨ o = 8 → ∃ t, exec (.rdmaWindowWrite n o v) s = .next t ∧ mem t
          ∧ tget ({} : Window) t.windows n = w)
        ∧ ∃ t, exec (.rdmaWindowWrite n 0x10 v) s = .next t ∧ mem t ∧ (tget ({} : Window) t.windows n).v = bit v.toNat 15
          ∧ (w.v = true → tget ({} : Window) t.windows n = { w with v := bit v.toNat 15 })
          ∧ (w.v = false → (tget ({} : Window) t.windows n).key = bits v.toNat 53 32
              ∧ (tget ({} : Window) t.windows n).base = w.base ∧ (tget ({} : Window) t.windows n).asid = bits v.toNat 11 0))
    ∧ (off ≠ 0 → off ≠ 8 → off ≠ 0x10 → exec (.rdmaWindowWrite n off v) s = .next s)

/-! ### Command packets (R345, R353-R356, R367, R368, R396) -/

/-- The queue's packet of number n. -/
def Sys2Proof.Claim.packetAt (s : State) (q n : Nat) (p : Packet) : Prop := (s.queue q).packets.find? (fun r => r.n == n) = some p

/-- The header of a packet is one its queue's ASID may send (R353). -/
def Sys2Proof.Claim.headGood (s : State) (q : Nat) (p : Packet) : Prop := blk p.bytes 1 1 < 8 ∧ blk p.bytes 2 2 = (s.queue q).asid

/-- A packet not yet begun may begin: each earlier packet of its queue is done, or has begun and is no WAIT; with BAR each
earlier one is done (R353, R355). -/
def Sys2Proof.Claim.mayStart (s : State) (q n : Nat) (p : Packet) : Prop :=
  let earlier := (s.queue q).packets.takeWhile fun r => r.n != n
  p.begun = false ∧ p.done = false ∧ (∀ r ∈ earlier, r.done = true ∨ (r.begun = true ∧ blk r.bytes 0 1 ≠ 7))
    ∧ (bit (blk p.bytes 1 1) 2 = true → ∀ r ∈ earlier, r.done = true)

/-- Packet `p`, of type `ty`, acts in `s0`: it has begun and is not done, or it begins now, its fields being good. -/
def Sys2Proof.Claim.acts (s : State) (q n ty : Nat) (good : Prop) (p : Packet) (s0 : State) : Prop :=
  ∃ p1, Claim.packetAt s q n p1 ∧ blk p1.bytes 0 1 = ty ∧ p1.done = false ∧ p = { p1 with begun := true }
    ∧ ((p1.begun = true ∧ s0 = s)
      ∨ (Claim.mayStart s q n p1 ∧ Claim.headGood s q p1 ∧ good ∧ s0 = setPacket s q p))

/-- The packet completes, its record holding status, value and detail; tiles, tasks, collars, other queues and the
queue's other packets stand as they did. -/
def Sys2Proof.Claim.records (i : Instr) (s : State) (q n status : Nat) (value : W64) (detail : Nat) (more : State → Prop) : Prop :=
  ∃ t p, exec i s = .next t ∧ Claim.packetAt t q n p ∧ p.done = true ∧ p.status = status ∧ p.value = value
    ∧ p.detail = detail ∧ (∀ r ∈ (s.queue q).packets, r.n ≠ n → r ∈ (t.queue q).packets)
    ∧ (∀ r, r ≠ q → t.queue r = s.queue r) ∧ t.tasks = s.tasks ∧ t.collars = s.collars ∧ t.engines = s.engines ∧ more t

/-- The packet has begun and is not done, with `pushed` of its parts under way. -/
def Sys2Proof.Claim.goesOn (t : State) (q n pushed : Nat) : Prop :=
  ∃ p, Claim.packetAt t q n p ∧ p.begun = true ∧ p.done = false ∧ p.pushed = pushed

/-- SIGNAL writes or adds to a signal and records its new value; WAIT completes when its signal meets the condition and
else blocks; FENCE completes when every earlier packet has, its record releasing what they have written; CTX creates, destroys and re-roots an ASID; a header with a
reserved bit, another ASID, or a reserved TYPE or OP completes with status 08 (R353-R356). -/
def Sys2Proof.Claim.signalsAndContexts : Prop :=
  ∀ (s s0 : State) (q n : Nat) (p : Packet),
    let asid := (s.queue q).asid
    let f (o k : Nat) : Nat := blk p.bytes o k
    let sig := tget (0 : W64) (tget ({} : Asid) s.asids asid).signals (f 8 2)
    let arg := BitVec.ofNat 64 (f 16 8)
    let sigGood : Prop := f 8 2 ≤ 255 ∧ f 10 1 ≤ 1 ∧ f 11 5 = 0 ∧ f 24 40 = 0
    let ctxGood (root : Bool) : Prop := f 9 7 = 0 ∧ f 24 40 = 0 ∧
      if root then f 16 8 % 8192 = 0 ∧ f 16 8 + 8192 ≤ hbmEnd else f 16 8 = 0
    let new : W64 := if f 10 1 = 0 then arg else sig + arg
    let met : Prop := if f 10 1 = 0 then arg.toNat ≤ sig.toNat else sig = arg
    let ctx (t : State) : Asid := tget ({} : Asid) t.asids asid
    (Claim.acts s q n 6 sigGood p s0 → Claim.records (.pktSignal q n) s q n 0 new 0 fun t => t.mem = s.mem ∧ t.tiles = s.tiles
        ∧ ctx t = { ctx s with signals := tput (ctx s).signals (f 8 2) new }
        ∧ ∀ k, k ≠ asid → tget ({} : Asid) t.asids k = tget {} s.asids k)
    ∧ (Claim.acts s q n 7 sigGood p s0 → met → Claim.records (.pktWait q n) s q n 0 0 0 fun t => t.mem = s.mem
        ∧ t.tiles = s.tiles ∧ t.asids = s.asids)
    ∧ (Claim.acts s q n 7 sigGood p s0 → ¬ met → exec (.pktWait q n) s = .next s0)
    ∧ (Claim.acts s q n 9 (f 8 56 = 0) p s0 →
        ((∀ r ∈ (s.queue q).packets.takeWhile (fun r => r.n != n), r.done = true) →
          Claim.records (.pktFence q n) s q n 0 0 0 fun t => t.mem = s.mem ∧ t.tiles = s.tiles ∧ t.asids = s.asids
            ∧ ∀ p', Claim.packetAt t q n p' → (∀ w ∈ (s.queue q).past, w ∈ p'.cov)
              ∧ ∀ r ∈ (s.queue q).packets.takeWhile (fun r => r.n != n), ∀ w ∈ r.cov, w ∈ p'.cov)
        ∧ ((∃ r ∈ (s.queue q).packets.takeWhile (fun r => r.n != n), r.done = false) → exec (.pktFence q n) s = .next s0))
    ∧ (Claim.acts s q n 10 (ctxGood true) p s0 → f 8 1 = 0 → Claim.records (.pktCtxCreate q n) s q n 0 0 0 fun t =>
        t.mem = s.mem ∧ t.tiles = s.tiles ∧ (ctx t).live = true ∧ (ctx t).root = f 16 8 ∧ (ctx t).signals = []
        ∧ (ctx t).quota = (ctx s).quota
        ∧ ∀ k, k ≠ asid → tget ({} : Asid) t.asids k = tget {} s.asids k)
    ∧ (Claim.acts s q n 10 (ctxGood false) p s0 → f 8 1 = 1 → Claim.records (.pktCtxDestroy q n) s q n 0 0 0 fun t =>
        t.mem = s.mem ∧ (∀ u, { t.tile u with icache := [] } = { s.tile u with icache := [] }) ∧ (ctx t).live = false
        ∧ (ctx t).objects = [] ∧ (ctx t).templates = []
        ∧ ∀ k, k ≠ asid → tget ({} : Asid) t.asids k = tget {} s.asids k)
    ∧ (Claim.acts s q n 10 (ctxGood true) p s0 → f 8 1 = 2 → Claim.records (.pktCtxSetRoot q n) s q n 0 0 0 fun t =>
        t.mem = s.mem ∧ t.tiles = s.tiles ∧ ctx t = { ctx s with root := f 16 8 }
        ∧ ∀ k, k ≠ asid → tget ({} : Asid) t.asids k = tget {} s.asids k)
    ∧ (Claim.packetAt s q n p → Claim.mayStart s q n p →
        let bad (i : Instr) : Prop := Claim.records i s q n 0x08 0 0 fun t => t.mem = s.mem ∧ t.tiles = s.tiles ∧ t.asids = s.asids
        (f 0 1 = 0 ∨ 10 < f 0 1 → bad (.pktFence q n))
        ∧ (f 0 1 = 10 → 2 < f 8 1 → bad (.pktCtxCreate q n))
        ∧ (¬ Claim.headGood s q p →
          (f 0 1 = 2 → bad (.pktBind q n)) ∧ (f 0 1 = 5 → bad (.pktUnmap q n)) ∧ (f 0 1 = 6 → bad (.pktSignal q n))
          ∧ (f 0 1 = 7 → bad (.pktWait q n)) ∧ (f 0 1 = 9 → bad (.pktFence q n))
          ∧ (∀ tile place fw tables, (f 0 1 = 1 → bad (.pktLaunch q n place)) ∧ (f 0 1 = 3 → bad (.pktLoadobj q n fw))
            ∧ (f 0 1 = 4 → bad (.pktMap q n tables)) ∧ (f 0 1 = 8 → bad (.pktCopy q n tile)))
          ∧ (f 0 1 = 10 → (f 8 1 = 0 → bad (.pktCtxCreate q n)) ∧ (f 8 1 = 1 → bad (.pktCtxDestroy q n))
            ∧ (f 8 1 = 2 → bad (.pktCtxSetRoot q n))))
        ∧ (f 0 1 = 6 → ¬ sigGood → bad (.pktSignal q n)) ∧ (f 0 1 = 7 → ¬ sigGood → bad (.pktWait q n))
        ∧ (f 0 1 = 9 → f 8 56 ≠ 0 → bad (.pktFence q n)))
    ∧ (Claim.packetAt s q n p → p.done = true ∨ (p.begun = false ∧ ¬ Claim.mayStart s q n p) →
        exec (.pktSignal q n) s = .next s ∧ exec (.pktWait q n) s = .next s ∧ exec (.pktFence q n) s = .next s)

/-- LOADOBJ reads the object and records the handle or the load error, the loads of an ASID one after the other; MAP writes the leaves of its range, and completes
with 08 where a table is missing; UNMAP removes them with every cached translation; COPY hands its block, token bytes
cleared, to the copy engine, once (R356, R396, R402). What firmware decides of a load or a mapping is an operand of the
step (log entry 44). -/
def Sys2Proof.Claim.mappingsAndCopies : Prop :=
  ∀ (s s0 s1 : State) (q n tile : Nat) (p : Packet) (b : List Byte) (fw : LoadFw) (tables : List Nat),
    let asid := (s.queue q).asid
    let f (o k : Nat) : Nat := blk p.bytes o k
    let root := (tget ({} : Asid) s.asids asid).root
    let mapGood : Prop := f 34 30 = 0 ∧ f 33 1 < 4 ∧ f 33 1 ≠ 0 ∧ bit (f 32 1) 0 = false ∧ bit (f 32 1) 7 = false
      ∧ f 24 8 ≠ 0 ∧ f 24 8 % leafSize (f 33 1) = 0 ∧ f 8 8 % leafSize (f 33 1) = 0 ∧ f 16 8 % leafSize (f 33 1) = 0
      ∧ f 8 8 + f 24 8 ≤ 2 ^ 52 ∧ leafRangeOk (f 16 8) (leafSize (f 33 1)) (bits (f 32 1) 5 1) = true
    let leaves := (List.range (f 24 8 / leafSize (f 33 1))).foldl (fun (o : Option (State × List Nat)) i => o.bind fun r =>
      mapPage r.1 root (f 8 8 + i * leafSize (f 33 1)) (f 16 8 + i * leafSize (f 33 1)) (bits (f 32 1) 5 1) (f 33 1)
        (bit (f 32 1) 6) r.2) (some (s0, tables))
    (Claim.acts s q n 3 (f 28 36 = 0 ∧ f 24 4 < 4) p s0 →
        let a := tget ({} : Asid) s.asids asid
        let p2 := if p.no = 0 then { p with no := a.loads + 1 } else p
        let s2 := if p.no = 0 then { setPacket s0 q p2 with asids := tput s.asids asid { a with loads := a.loads + 1 } } else s0
        let read := packetRead s2 q (f 8 8) (f 16 8)
        let ends (r : State) (status detail : Nat) (value : W64) : Prop := exec (.pktLoadobj q n fw) s = .next r
          ∧ ∃ p', Claim.packetAt r q n p' ∧ p'.done = true ∧ p'.status = status ∧ p'.value = value ∧ p'.detail = detail
        (loadBehind s2 asid p2 = true → exec (.pktLoadobj q n fw) s = .next s2)
        ∧ (loadBehind s2 asid p2 = false →
          (read = (.ok b, s1) →
            (∀ t h, loadObject s1 asid b (f 24 4) fw = .ok (t, h) → ∃ r, ends r 0 0 (BitVec.ofNat 64 h)
              ∧ r.mem = t.mem ∧ r.asids = t.asids ∧ r.tiles = t.tiles)
            ∧ ∀ e, loadObject s1 asid b (f 24 4) fw = .error e → ∃ r, ends r 0x3F e 0
              ∧ r.mem = s1.mem ∧ r.tiles = s.tiles ∧ r.asids = s2.asids)
          ∧ (read = (.error none, s1) → exec (.pktLoadobj q n fw) s = .next s1)
          ∧ ∀ c, read = (.error (some c), s1) → ∃ r, ends r 0x3F 14 0 ∧ r.mem = s1.mem ∧ r.asids = s2.asids))
    ∧ (Claim.acts s q n 4 mapGood p s0 → f 33 1 < 4 →
        (∀ r fr, leaves = some (r, fr) → Claim.records (.pktMap q n tables) s q n 0 0 0 fun t => t.mem = r.mem ∧ t.asids = s.asids
          ∧ t.mod.tablePages = s.mod.tablePages ++ fr)
        ∧ (leaves = none → Claim.records (.pktMap q n tables) s q n 0x08 0 0 fun t => t.mem = s.mem ∧ t.asids = s.asids))
    ∧ (Claim.acts s q n 5 (f 24 40 = 0 ∧ f 8 8 % 2 ^ 18 = 0 ∧ f 16 8 % 2 ^ 18 = 0 ∧ f 8 8 + f 16 8 ≤ 2 ^ 52) p s0 →
        p.pushed = 0 → (∀ k e, (k, e) ∈ s.engines → ∀ c ∈ (e : Engine).q, c.asid ≠ asid) →
        Claim.records (.pktUnmap q n) s q n 0 0 0 fun t =>
          t.mem = (unmapRange root (f 16 8 / 2 ^ 18 + 1) (f 8 8) (f 8 8 + f 16 8) s0).mem ∧ t.asids = s.asids
          ∧ (∀ k x, (k, x) ∈ t.xus → (x : XUnit).tlb = []) ∧ ∀ d w, (d, w) ∈ t.walkers → (w : Walker).ptrs = [])
    ∧ (Claim.acts s q n 5 (f 24 40 = 0 ∧ f 8 8 % 2 ^ 18 = 0 ∧ f 16 8 % 2 ^ 18 = 0 ∧ f 8 8 + f 16 8 ≤ 2 ^ 52) p s0 →
        p.pushed ≠ 0 → ((∃ k e, (k, e) ∈ s.engines ∧ ∃ c ∈ (e : Engine).q, c.asid = asid) → exec (.pktUnmap q n) s = .next s0)
        ∧ ((∀ k e, (k, e) ∈ s.engines → ∀ c ∈ (e : Engine).q, c.asid ≠ asid) →
          Claim.records (.pktUnmap q n) s q n 0 0 0 fun t => t.mem = s.mem ∧ t.asids = s.asids ∧ t.xus = s.xus))
    ∧ (Claim.acts s q n 8 (f 16 48 = 0 ∧ f 8 8 % 64 = 0) p s0 → p.pushed = 0 →
        (s.eng (.tile tile)).q.length < engCap (.tile tile) → (∀ d ∈ (s.eng (.tile tile)).q, d.id < s.mod.nextCmd) →
        packetRead s0 q (f 8 8) 64 = (.ok b, s1) →
        ∃ (t : State) (c : Cmd), exec (.pktCopy q n tile) s = .next t ∧ (t.eng (.tile tile)).q = (s1.eng (.tile tile)).q ++ [c]
          ∧ c.block = b.take 2 ++ List.replicate 4 0 ++ b.drop 6 ∧ c.asid = asid ∧ c.root = root ∧ c.task = none
          ∧ c.packet = some (q, n) ∧ Claim.goesOn t q n 1 ∧ t.tiles = s.tiles ∧ t.tasks = s.tasks
          ∧ ((∀ v, (s.collar v).fly = []) → ∀ a, t.byte a = s.byte a))
    ∧ (Claim.acts s q n 8 (f 16 48 = 0 ∧ f 8 8 % 64 = 0) p s0 → p.pushed = 0 →
        (s.eng (.tile tile)).q.length < engCap (.tile tile) →
        (packetRead s0 q (f 8 8) 64 = (.error none, s1) → exec (.pktCopy q n tile) s = .next s1)
        ∧ ∀ c, packetRead s0 q (f 8 8) 64 = (.error (some c), s1) → ∃ r p', exec (.pktCopy q n tile) s = .next r
          ∧ Claim.packetAt r q n p' ∧ p'.done = true ∧ p'.status = c ∧ r.mem = s1.mem)
    ∧ (Claim.acts s q n 8 (f 16 48 = 0 ∧ f 8 8 % 64 = 0) p s0 →
        (p.pushed = 1 ∨ engCap (.tile tile) ≤ (s.eng (.tile tile)).q.length) → exec (.pktCopy q n tile) s = .next s0)

/-- LAUNCH pushes one record for each instance it places, or nothing where a tile has no room; a gang is pushed whole, at
the head, where each record may be dispatched; a template or node that is not there completes with IMAGE_BAD. BIND writes
the bases of its descriptors and sends their starts, and completes when every SINK element is done, its record releasing
what their streams have written (R345, R358, R367, R368, R372, R406). The tiles and images are firmware's, operands of the
step (log entry 44); the codes of a template, node or task that is not there are the reading of log entry 45. -/
def Sys2Proof.Claim.launchesAndBinds : Prop :=
  ∀ (s s0 : State) (q n : Nat) (p : Packet) (place : List (Nat × Nat)),
    let asid := (s.queue q).asid
    let f (o k : Nat) : Nat := blk p.bytes o k
    let count := f 16 4
    let left := place.take (count - p.pushed)
    let node := (tget [] (tget ({} : Asid) s.asids asid).templates (f 8 2))[f 10 2]?
    let rec1 (nd : Node) (i image : Nat) : TRec :=
      { template := f 8 2, node := f 10 2, inst := (f 12 4 + p.pushed + i) % 2 ^ 32, prio := f 20 1, flags := nd.flags
        left := nd.retries, asid := asid, image := image, win := nd.chosen, of := some (q, n) }
    let recsFor (nd : Node) (u : Nat) : List TRec := (List.range left.length).filterMap fun i => (left[i]?).bind fun x =>
      if x.1 = u then some (rec1 nd i x.2) else none
    let room : Prop := launchBehind s q p = false ∧ ∀ x ∈ left, (s.tile x.1).retired = false ∧ (s.tile x.1).busy = false
      ∧ (s.tile x.1).queue.length + (left.filter fun y => y.1 == x.1).length ≤ 32
    let good : Prop := f 21 43 = 0 ∧ f 20 1 < 8 ∧ 0 < count ∧ count ≤ 2 ^ 24
    let bs := bindsOf p
    (Claim.acts s q n 1 good p s0 →
        (node = none → Claim.records (.pktLaunch q n place) s q n 0x3F 0 5 fun t => t.mem = s.mem ∧ t.tiles = s.tiles)
        ∧ ∀ nd, node = some nd →
          (room → bit nd.flags 2 = false → ∃ t, exec (.pktLaunch q n place) s = .next t
            ∧ (∀ u, t.tile u = { s.tile u with queue := (s.tile u).queue ++ recsFor nd u })
            ∧ Claim.goesOn t q n (p.pushed + left.length) ∧ t.mem = s.mem ∧ t.tasks = s.tasks)
          ∧ (room → bit nd.flags 2 = true → left.length = count →
            (∀ u, (recsFor nd u).length ≤ 1 ∧ ∀ r ∈ recsFor nd u, dispatchable s u r = true) →
            ∃ t, exec (.pktLaunch q n place) s = .next t
              ∧ (∀ u, t.tile u = { s.tile u with queue := recsFor nd u ++ (s.tile u).queue })
              ∧ Claim.goesOn t q n (p.pushed + left.length) ∧ t.mem = s.mem ∧ t.tasks = s.tasks)
          ∧ (¬ room ∨ (bit nd.flags 2 = true ∧ left.length ≠ count) → ∃ t, exec (.pktLaunch q n place) s = .next t
            ∧ t.tiles = s.tiles ∧ Claim.goesOn t q n p.pushed ∧ t.mem = s.mem ∧ t.tasks = s.tasks))
    ∧ (Claim.acts s q n 2 ((∀ i, i < 3 → bit (f (16 + 16 * i + 9) 1) 7 = false ∧ f (16 + 16 * i + 10) 6 = 0)
          ∧ ∃ b ∈ bs, b.sink = true) p s0 → let here := !(tget ({} : Asid) s.asids asid).gone.contains (f 8 2)
        (p.sinks = [] → here = false → Claim.records (.pktBind q n) s q n 0x3F 0 5 fun t => t.mem = s.mem)
        ∧ (p.sinks = [] → here = true → bindTask s0 q p = none →
          Claim.records (.pktBind q n) s q n 0x08 0 0 fun t => t.mem = s.mem)
        ∧ (∀ k, p.sinks = [] → here = true → bindTask s0 q p = some k →
          let u := (s.task k).tile
          let plane (b : BindE) : Plane := (s.elemOf u b.elem).plane (((s.elemOf u b.elem).curOf b.slot).getD 0)
          ((∀ b ∈ bs, bindOk s u k b = true) →
            (∃ b ∈ bs, startFull { s with cur := { s.cur with unit := u } } b.slot [b.elem] = true) →
            ∃ t p', exec (.pktBind q n) s = .next t ∧ Claim.packetAt t q n p' ∧ p'.begun = false ∧ p'.done = false
              ∧ t.mem = s.mem ∧ t.collars = s.collars)
          ∧ ((∃ b ∈ bs, bindOk s u k b = false) → Claim.records (.pktBind q n) s q n 0x26 0 0 fun t => t.mem = s.mem)
          ∧ ((∀ b ∈ bs, bindOk s u k b = true ∧ startFull { s with cur := { s.cur with unit := u } } b.slot [b.elem] = false) →
            ∃ t, exec (.pktBind q n) s = .next t
              ∧ (t.collar u).starts = (s.collar u).starts ++ bs.map (fun b =>
                  { elem := b.elem, slot := b.slot, dom := boolNat b.dom, at' := s.cycle + 2 })
              ∧ t.mem = (bs.foldl (fun r b => memWrite r .sched (descPa u (plane b)) (bytesOfNat 8 b.base)) s).mem
              ∧ t.tiles = s.tiles ∧ t.tasks = s.tasks ∧ ∃ p', Claim.packetAt t q n p' ∧ p'.done = false
              ∧ p'.sinks = (bs.filter fun b => b.sink).map fun b => (u, b.elem, b.slot)))
        ∧ (p.sinks ≠ [] → (∀ x ∈ p.sinks, sinkDone s x.1 x.2.1 x.2.2 = true) →
          Claim.records (.pktBind q n) s q n p.status p.value p.detail fun t => t.mem = s.mem ∧ ∀ p', Claim.packetAt t q n p' →
            ∀ x ∈ p.sinks, ∀ k, taskOf s x.1 x.2.1 = some k → ∀ w ∈ streamsWritten s k, w ∈ p'.cov)
        ∧ (p.sinks ≠ [] → (∃ x ∈ p.sinks, sinkDone s x.1 x.2.1 x.2.2 = false) → exec (.pktBind q n) s = .next s0))

/-- Every command packet has the effect and the completion that R353 to R356 and R396 give it. -/
def Obligations.PacketsTakeEffect : Prop := Claim.signalsAndContexts ∧ Claim.mappingsAndCopies ∧ Claim.launchesAndBinds

/-! ### The tile's queue, dispatch, pre-emption and retirement (R358-R366, R370, R390-R392) -/

/-- The queue's commands: a push, a removal, a pre-emption request and an abort are taken when no command is in progress, an abort noting the soft error
its task is stopped at (R393); a push to a full queue, an index of nothing, a pre-emption of a task without PREEMPT or of none, and
any command while one is in progress set CERR alone (R362, R363). -/
def Sys2Proof.Claim.taskQueueCommands : Prop :=
  ∀ (s : State) (t idx : Nat) (retry : Bool),
    let x := s.tile t
    let busy : Prop := x.preempt = true ∨ x.abort.isSome = true
    let a := (tget (0 : W64) x.tqrec 0).toNat
    let b := (tget (0 : W64) x.tqrec 1).toNat
    let r : TRec := { template := a % 2 ^ 16, node := a / 2 ^ 16 % 2 ^ 16, inst := a / 2 ^ 32 % 2 ^ 32, prio := b % 8
                      flags := b / 2 ^ 8 % 2 ^ 8, left := b / 2 ^ 16 % 8, asid := b / 2 ^ 32 % 2 ^ 12
                      image := (tget (0 : W64) x.tqrec 2).toNat }
    let goes (i : Instr) (y : Tile) : Prop := exec i s = .next (s.setTile t y)
    let refused (i : Instr) : Prop := goes i { x with cerr := true }
    let stopped (n : Nat) : State := s.setTask n { s.task n with soft := softCause s t n }
    let idle : Shadow := { x.shadow with queue := [], back := [], running := false, esc := false, stopped := false }
    (¬ busy → x.queue.length < 32 → goes (.tqPushTail t) { x with queue := x.queue ++ [r] }
        ∧ goes (.tqPushHead t) { x with queue := r :: x.queue })
    ∧ (32 ≤ x.queue.length → refused (.tqPushTail t) ∧ refused (.tqPushHead t))
    ∧ (∀ e, x.queue[idx]? = some e → ¬ busy → ∃ w, goes (.tqRemove t idx) { x with queue := x.queue.eraseIdx idx, tqrec := w }
        ∧ (tget (0 : W64) w 0).toNat = (e.template + 2 ^ 16 * e.node + 2 ^ 32 * e.inst) % 2 ^ 64
        ∧ (tget (0 : W64) w 1).toNat = (e.prio + 2 ^ 8 * e.flags + 2 ^ 16 * e.left + 2 ^ 32 * e.asid) % 2 ^ 64
        ∧ (tget (0 : W64) w 2).toNat = e.image % 2 ^ 64 ∧ tget (0 : W64) w 3 = 0)
    ∧ (x.queue[idx]? = none → refused (.tqRemove t idx))
    ∧ (∀ n, x.task = some n →
        (¬ busy → bit (s.task n).trec.flags 1 = true → goes (.tqPreempt t) { x with preempt := true })
        ∧ (bit (s.task n).trec.flags 1 = false → refused (.tqPreempt t))
        ∧ (¬ busy → exec (.tqAbortRunning t retry) s = .next
            (State.setTile (stopped n) t { x with abort := some (none, retry), shadow := idle })))
    ∧ (x.task = none → refused (.tqPreempt t) ∧ refused (.tqAbortRunning t retry))
    ∧ (∀ p, ¬ busy → x.parked[idx]? = some p → exec (.tqAbortParked t idx retry) s = .next
        (State.setTile (stopped p.task) t { x with abort := some (some idx, retry) }))
    ∧ (x.parked.length ≤ idx → refused (.tqAbortParked t idx retry))
    ∧ (busy → refused (.tqPushTail t) ∧ refused (.tqPushHead t) ∧ refused (.tqRemove t idx) ∧ refused (.tqPreempt t)
        ∧ refused (.tqAbortRunning t retry) ∧ refused (.tqAbortParked t idx retry))

/-- A tile that runs nothing takes the candidate R361 chooses: a record's task starts at its kernel's first bundle with its
arguments in s1 on, every other register 0, and its regions its own; a parked and a pre-empted task go on with the registers
their images hold; one whose image is poisoned, of another level, of a wrong ICHK or whose planes' images are not resident
waits to fail (R1, R359, R361, R365, R392, R394). `s1` is the state in which the banks that the switch asks have granted it.
The model's choices and readings: what no image holds (log entry 46), what a parked task's holds (58), its move to another tile
(90), a word saved with a parity error (89). -/
def Sys2Proof.Claim.dispatches : Prop :=
  ∀ (s s1 : State) (t i n : Nat) (r : TRec) (nd : Node) (p : Parked) (c : Ctx) (y : Sys) (d : Decoder) (w : Wd) (b : List Byte),
    let x := s.tile t
    let resumed (q : State) (n : Nat) : Prop := (q.tile t).task = some n ∧ (q.task n).resident = true ∧ (q.task n).tile = t
      ∧ (q.xu t).asid = (s.task n).trec.asid ∧ (let z := ctxOfImage b c; (q.tile t).ctx.pc = z.pc ∧ (q.tile t).ctx.s = z.s
        ∧ (q.tile t).ctx.v = z.v ∧ (q.tile t).ctx.m = z.m ∧ (q.tile t).ctx.loops = z.loops)
      ∧ (q.tile t).dec = decOfImage b d ∧ (q.task n).tokens = tokensOfImage b (s.task n).tokens
      ∧ ((s.task n).lateFaults = [] → (q.tile t).sys = sysOfImage b y)
      ∧ ((s.task n).lateFaults ≠ [] → (q.tile t).shadow.queue ≠ [])
    let waitsToFail (q : State) (n cause : Nat) : Prop := (q.tile t).task = none ∧ (q.tile t).failing = x.failing ++ [(n, cause)]
      ∧ ∀ e ∈ (q.tile t).parked, e.task ≠ n
    x.task = none → x.retired = false → x.abort = none → x.shadow.queue = [] →
      (chooseNext s t = none → exec (.taskDispatch t) s = .next s)
      ∧ (∀ g, chooseNext s t = some g → switchAsk s t (dispatchPieces s t g) = (false, s1) → exec (.taskDispatch t) s = .next s1)
      ∧ (chooseNext s t = some (.inr i) → x.queue[i]? = some r →
        (savedTask s r = none → nodeOf s r = some nd → ∃ q, exec (.taskDispatch t) s = .next q
          ∧ (q.tile t).task = some s.mod.nextTask ∧ (q.tile t).queue = x.queue.eraseIdx i ∧ (q.tile t).ctx.pc = nd.entry
          ∧ (∀ k, k < nd.narg → (q.tile t).ctx.getS (k + 1) =
              nd.bases.getD k 0 + BitVec.ofInt 64 ((r.inst : Int) * (nd.strides.getD k 0).toInt))
          ∧ (∀ k, nd.narg < k → (q.tile t).ctx.getS k = 0) ∧ (∀ k, (q.tile t).ctx.getM k = ({} : Ctx).getM k)
          ∧ (∀ k, (q.tile t).ctx.getV k = ({} : Ctx).getV k) ∧ (q.tile t).ctx.loops = []
          ∧ (q.tile t).sys.tinst = BitVec.ofNat 64 r.inst ∧ (q.tile t).sys.tnode = BitVec.ofNat 64 (r.node + 2 ^ 16 * r.template)
          ∧ (q.tile t).sys.vmode = 0 ∧ (q.tile t).sys.scopeA = nd.scopeA ∧ (q.tile t).sys.scopeB = nd.scopeB
          ∧ (q.tile t).sys.scopeC = nd.scopeC ∧ (q.xu t).asid = r.asid
          ∧ (q.task s.mod.nextTask).trec = r ∧ (q.task s.mod.nextTask).resident = true
          ∧ (tsorted (s.collar t).regions = true → ∀ g ∈ nodeRegions nd, let h := (q.collar t).region g.1
              h.task = some s.mod.nextTask ∧ h.emask = g.2.1 ∧ h.bmask = g.2.2))
        ∧ (savedTask s r = some n → switchAsk s t (dispatchPieces s t (.inr i)) = (true, s1) →
          (∀ e, savedImage s1 t n = .error e → ∃ q, exec (.taskDispatch t) s = .next q ∧ waitsToFail q n e
            ∧ (q.tile t).queue = x.queue.eraseIdx i)
          ∧ (savedImage s1 t n = .ok b → (s.task n).savedCtx = some (c, y, d, w) → ∃ q, exec (.taskDispatch t) s = .next q
            ∧ resumed q n ∧ (q.tile t).queue = x.queue.eraseIdx i)))
      ∧ (chooseNext s t = some (.inl p) → switchAsk s t (dispatchPieces s t (.inl p)) = (true, s1) →
        let img := parkImage s1 (imgAtOf s1 t p.task p.place)
        ((img = none → ∃ q, exec (.taskDispatch t) s = .next q ∧ waitsToFail q p.task 0x1D)
        ∧ (img = some b → imageFails b = true → ∃ q, exec (.taskDispatch t) s = .next q ∧ waitsToFail q p.task 0x3F)
        ∧ (img = some b → imageFails b = false → (s.task p.task).savedCtx = some (c, y, d, w) →
          ∃ q, exec (.taskDispatch t) s = .next q ∧ resumed q p.task ∧ (q.tile t).queue = x.queue
            ∧ ∀ e ∈ (q.tile t).parked, e.task ≠ p.task)))

/-- An image gives back what it was written with: registers, masks, PC, loop stack and system registers, and it passes its
checks (R235, R391, R392). -/
def Sys2Proof.Claim.imageGivesBack : Prop :=
  ∀ (s : State) (t n kind : Nat) (keep : List Buf) (c : Ctx) (y : Sys),
    let x := s.tile t
    let b := imageOfTask s t n kind keep
    let z := ctxOfImage b c
    let w := sysOfImage b y
    kind < 256 → (s.task n).winCount ≤ 128 → b.length < 2 ^ 32 → x.ctx.loops.length ≤ 6 →
      imageFails b = false ∧ blk b 5 1 = kind ∧ z.pc = x.ctx.pc ∧ z.loops = x.ctx.loops
      ∧ (∀ r, r < 32 → z.getS r = x.ctx.getS r ∧ z.getV r = x.ctx.getV r) ∧ (∀ r, r < 8 → z.getM r = x.ctx.getM r)
      ∧ w.tinst = x.sys.tinst ∧ w.tnode = x.sys.tnode ∧ w.vmode = x.sys.vmode ∧ w.vseed = x.sys.vseed ∧ w.vflags = x.sys.vflags
      ∧ w.scopeA = x.sys.scopeA ∧ w.scopeB = x.sys.scopeB ∧ w.scopeC = x.sys.scopeC

/-- A pre-emption lands when all that R390 waits for is over: the task's registers are saved, its image written, its
record back at the head of the queue and the tile free. done retires a task when all that R226 and R303 wait for is over,
its log applied line by line; an abort, and a resume that was refused, fail the task once no token of it is PENDING, and
its log never reaches memory, with the cause of the soft error it was stopped at, the retirement of its tile or FW_ABORT
(R94, R363, R370, R393, R394). What goes with a task untagged is log entry 32, FW_ABORT of a task that is retried log entry 48, the order of the collar section's
bytes log entry 46. -/
def Sys2Proof.Claim.landsAndRetires : Prop :=
  ∀ (s s1 : State) (t n : Nat) (retry : Bool),
    let x := s.tile t
    let k := s.task n
    let keep := keptBufs k (pcNum x.ctx.pc - pcNum k.entry)
    let gone (q : State) (n : Nat) : Prop := (q.task n).retired = true ∧ (q.task n).log = [] ∧ (q.task n).barriers = []
      ∧ (q.task n).resident = false ∧ q.mem = s.mem
    let why (n : Nat) : Nat := if x.retired then 0x3D else ((s.task n).soft).getD 0x3C
    x.task = some n →
      (x.landing = true → x.shadow.queue = [] → drained x.ctx = true → arrayRuns s t = false → wdStill x = true →
        repliesPending s t n = false → (∀ l ∈ (s.collar t).loads, l.task ≠ n) → s.mem.wf = true →
        (switchAsk s t (imagePieces s t n keep) = (false, s1) → exec (.preemptionLand t) s = .next s1)
        ∧ (switchAsk s t (imagePieces s t n keep) = (true, s1) →
          let v := freezeRegions (landElems (arriveStarts (discardAhead s1 t) t n) t fun w => taskOf s1 t w.elem == some n) t n
          let img := imageOfTask v t n 1 keep
          ∃ q c y d w, exec (.preemptionLand t) s = .next q ∧ (q.tile t).task = none ∧ (q.tile t).queue = k.trec :: x.queue
            ∧ (q.task n).savedCtx = some (c, y, d, w) ∧ c.pc = x.ctx.pc ∧ c.s = x.ctx.s ∧ c.v = x.ctx.v ∧ c.m = x.ctx.m
            ∧ c.loops = x.ctx.loops ∧ y = x.sys ∧ d = x.dec ∧ (q.task n).resident = false
            ∧ (∀ a, a < k.trec.image ∨ k.trec.image + img.length ≤ a → q.byte a = v.byte a)
            ∧ ((∀ u, (s.collar u).fly = []) → ∀ a, v.byte a = s.byte a)
            ∧ ∀ i, i < img.length → q.byte (k.trec.image + i) = img.getD i 0))
      ∧ (x.landing = false → exec (.preemptionLand t) s = .next s)
      ∧ (∀ m c, x.failing.find? (fun f => !tokensPending s f.1) = some (m, c) → ∃ q, exec (.taskRetire t) s = .next q
        ∧ gone q m ∧ (q.task m).cause = c ∧ (q.tile t).failing = x.failing.filter fun f => f.1 != m)
      ∧ ((∀ f ∈ x.failing, tokensPending s f.1 = true) →
        (x.abort = none → x.doneWait = true → drained x.ctx = true → accessPending x.ctx = false → tasksQuiet s t n = true →
          tokensPending s n = false → x.shadow.queue = [] →
          ((∃ l ∈ k.log, logLineBad s l = true) → ∃ q, exec (.taskRetire t) s = .next q ∧ (q.tile t).task = none ∧ gone q n
            ∧ (q.task n).cause = 0x1E)
          ∧ (∀ l rest, k.log = l :: rest → (∀ l ∈ k.log, logLineBad s l = false) → s.mem.wf = true →
            let ask := askBanks s (portTo t 5) (tileReq 16 t 0) 256 [(l.1, 64)]
            ((ask = (false, s1) → exec (.taskRetire t) s = .next s1)
            ∧ (ask = (true, s1) → ∃ q, exec (.taskRetire t) s = .next q ∧ (q.tile t).task = some n ∧ (q.task n).log = rest
              ∧ (q.task n).retired = k.retired ∧ ∀ a, q.byte a = if l.1 ≤ a ∧ a < l.1 + 64 then
                  (l.2.getD (a - l.1) none).getD (s1.byte a) else s1.byte a)))
          ∧ (k.log = [] → ∃ q, exec (.taskRetire t) s = .next q ∧ (q.tile t).task = none ∧ gone q n
            ∧ (q.tile t).queue = x.queue))
        ∧ (x.abort = some (none, retry) →
          (tokensPending s n = true → exec (.taskRetire t) s = .next s)
          ∧ (tokensPending s n = false → ∃ q, exec (.taskRetire t) s = .next q ∧ (q.tile t).task = none
            ∧ (q.tile t).abort = none ∧ gone q n ∧ (q.task n).cause = why n))
        ∧ ∀ i p, x.abort = some (some i, retry) → x.parked[i]? = some p → p.task ≠ n →
          (tokensPending s p.task = true → exec (.taskRetire t) s = .next s)
          ∧ (tokensPending s p.task = false → ∃ q, exec (.taskRetire t) s = .next q ∧ (q.tile t).task = some n
            ∧ (q.tile t).abort = none ∧ gone q p.task ∧ (q.task p.task).cause = why p.task
            ∧ ∀ e ∈ (q.tile t).parked, e.task ≠ p.task))

/-- The tile's queue of tasks: its commands, the choice of the next task and its start, pre-emption, and retirement. -/
def Obligations.TaskQueueAndDispatch : Prop := 
  Claim.taskQueueCommands ∧ Claim.dispatches ∧ Claim.imageGivesBack ∧ Claim.landsAndRetires

/-! ### The module: mailbox, security, errors, resets (R62, R102, R373, R393, R394, R407, R424-R433) -/

/-- A report of KIND 3 with this cause stands last in the inbound mailbox, or waits at its source while 64 messages
stand (R426). -/
def Sys2Proof.Claim.reports (s t : State) (cause src : Nat) : Prop :=
  ∃ m : Msg, m.kind = 3 ∧ m.cause = cause ∧ m.src = src
    ∧ (s.mod.inbox.length < 64 → s.mod.waiting = [] → t.mod.inbox = s.mod.inbox ++ [m] ∧ t.mod.waiting = [])
    ∧ (64 ≤ s.mod.inbox.length ∨ s.mod.waiting ≠ [] → t.mod.inbox = s.mod.inbox ∧ t.mod.waiting = s.mod.waiting ++ [m])

/-- The mailbox pops, sends and delivers (R426); alarms latch, are reported, and erase the key store under POLICY, written once (R424,
R425); HEALTH never falls, and 3 is not written (R430); the clock steps down by 100 MHz to 1.0 GHz (R431); a priority's pause is
recorded where the port has trained; a loss of power keeps the key store and no memory (R427).
Choices: an alarm's report (log entry 52), HEALTH's other fields (26), keys (15), clock steps (56). -/
def Sys2Proof.Claim.moduleControls : Prop :=
  ∀ (s : State) (strip elem src : Nat) (policy pause : Bool) (v : W64) (mhz : Nat) (prio : BitVec 3),
    let m := s.mod
    let only (t : State) : Prop := t.mem = s.mem ∧ t.tiles = s.tiles ∧ t.tasks = s.tasks ∧ t.queues = s.queues
    let goes (i : Instr) (m' : Module) : Prop := exec i s = .next { s with mod := m' }
    let st := v.toNat % 4
    let words := (tabulate 8 fun n => bytesOfNat 8 (tget (0 : W64) m.mbxout n).toNat).flatten
    (∀ h rest, m.inbox = h :: rest → goes .mbxPop { m with inbox := rest ++ m.waiting.take 1, waiting := m.waiting.drop 1 })
    ∧ (m.inbox = [] → exec .mbxPop s = .next s)
    ∧ (m.outbox.length < 16 → goes (.mbxSend strip elem) { m with outbox := m.outbox ++ [(strip, elem, words)] })
    ∧ (16 ≤ m.outbox.length → goes (.mbxSend strip elem) { m with serr := true })
    ∧ (∀ b rest, m.outbox = (strip, elem, b) :: rest → let x := s.elemOf strip elem
        (64 ≤ strip → strip < 68 → ∀ slot p, recvPlane x = some (slot, p) →
          (x.inbox = [] → ∃ t k, exec .mailboxDeliver s = .next t ∧ t.mod = { m with outbox := rest }
            ∧ (t.elemOf strip elem).inbox = [k] ∧ k.val = lineOfBytes b ∧ k.slot = slot ∧ k.plane = p ∧ only t)
          ∧ (x.inbox ≠ [] → exec .mailboxDeliver s = .next s))
        ∧ (recvPlane x = none → goes .mailboxDeliver { m with outbox := rest, serr := true }))
    ∧ (∃ t, exec (.securityAlarm src) s = .next t ∧ t.mod.alarm = true ∧ t.mod.src = (if m.alarm then m.src else src)
        ∧ Claim.reports s t 0x3E 64 ∧ (m.policy = true → t.mod.keys = [] ∧ t.mod.idKey = none ∧ t.mod.erased = true)
        ∧ (m.policy = false → t.mod.keys = m.keys ∧ t.mod.idKey = m.idKey ∧ t.mod.erased = m.erased) ∧ only t)
    ∧ (m.lock = true → exec (.secalmPolicyWrite policy) s = .next s)
    ∧ (m.lock = false → ∃ t, exec (.secalmPolicyWrite policy) s = .next t ∧ t.mod.policy = policy ∧ t.mod.lock = true ∧ only t
        ∧ (policy = true → m.alarm = true → t.mod.keys = [] ∧ t.mod.erased = true)
        ∧ (policy = false ∨ m.alarm = false → t.mod.keys = m.keys ∧ t.mod.erased = m.erased))
    ∧ (st = 3 ∨ st < m.health → exec (.healthWrite v) s = .next s)
    ∧ (m.health ≤ st → st ≠ 3 → goes (.healthWrite v) { m with
        health := st, ready := v.toNat.testBit 24, dlane := v.toNat / 2 ^ 16 % 2 ^ 8, rtile := v.toNat / 2 ^ 8 % 2 ^ 8 })
    ∧ (1000 ≤ mhz → mhz + 100 = m.mhz → goes (.clockThrottling mhz) { m with mhz := mhz })
    ∧ (mhz < 1000 ∨ mhz + 100 ≠ m.mhz → exec (.clockThrottling mhz) s = .next s)
    ∧ (m.ethUp = false → exec (.pauseFrame prio pause) s = .next s)
    ∧ (m.ethUp = true → ∃ t, exec (.pauseFrame prio pause) s = .next t ∧ (prio.toNat ∈ t.mod.paused ↔ pause = true) ∧ only t
        ∧ ∀ k, k ≠ prio.toNat → (k ∈ t.mod.paused ↔ k ∈ m.paused))
    ∧ ∃ t, exec .powerLoss s = .next t ∧ t.mod.powered = false ∧ t.mem = State.reset.mem ∧ t.tiles = [] ∧ t.tasks = []
        ∧ t.mod.keys = m.keys ∧ t.mod.idKey = m.idKey ∧ t.mod.leaf = m.leaf

/-- What a soft error hits is marked, so that its next read finds it (log entry 50, as is the plane an element's error shows in);
nothing else of memory changes, and firmware's count of the unit's errors rises; an address of HBM has a place in one stack that
no other has (R61, R62, R102, R127, R373, R393, R428). -/
def Sys2Proof.Claim.softErrors : Prop :=
  ∀ (s : State) (u e pa r row col slot img p q i b port : Nat) (vec : Bool),
    let counted (t : State) (unit : Nat) (hard : Bool) : Prop :=
      tget 0 t.mod.counts (countKey unit hard) = tget 0 s.mod.counts (countKey unit hard) + 1 ∧ t.mem.cells = s.mem.cells
    let hits (h : SoftErr) (unit : Nat) (hard : Bool) (f : State → Prop) : Prop :=
      ∃ t, exec (.softError h) s = .next t ∧ counted t unit hard ∧ f t
    hits (.hbmCorrected r) (1024 + r) false (fun t => tget 0 t.mem.ceHbm r = tget 0 s.mem.ceHbm r + 1 ∧ t.mem.poison = s.mem.poison)
    ∧ (place pa = .hbm → hits (.hbmHalf pa) (1024 + stackAt pa) true fun t => (∀ a, a / 32 = pa / 32 → isPoisoned t a = true)
        ∧ ∀ a, a / 32 ≠ pa / 32 → isPoisoned t a = isPoisoned s a)
    ∧ hits (.spmCorrected u) u false (fun t => tget 0 t.mem.ceSpm u = tget 0 s.mem.ceSpm u + 1 ∧ t.mem.poison = s.mem.poison)
    ∧ (∀ o, place pa = .spm u o → hits (.spmWord pa) u true fun t => isPoisoned t pa = true)
    ∧ hits (.queueEntry u e p q i) u true (fun t => t.tiles = s.tiles
        ∧ (∀ k, q < 3 → ((s.planeOf u e p).queue q)[i]? = some k → ((t.planeOf u e p).queue q)[i]? = some { k with bad := true })
        ∧ ∀ k, q = 3 → (s.planeOf u e p).qp[i]? = some k → (t.planeOf u e p).qp[i]? = some { k with bad := true })
    ∧ hits (.boxEntry u b false port i) u true (fun t => t.tiles = s.tiles
        ∧ ∀ k, (tget [] ((s.collar u).box b).dbuf port)[i]? = some k →
            (tget [] ((t.collar u).box b).dbuf port)[i]? = some { k with bad := true })
    ∧ hits (.boxEntry u b true port i) u true (fun t => t.tiles = s.tiles
        ∧ ∀ k, (tget [] ((s.collar u).box b).pbuf port)[i]? = some k →
            (tget [] ((t.collar u).box b).pbuf port)[i]? = some { k with bad := true })
    ∧ (∀ k p, errorPlane s u e = some (k, p) →
        hits (.planeWords u e) u true (fun t => (t.planeOf u e p).bad = true ∧ t.tiles = s.tiles)
        ∧ ((s.elemOf u e).fault = none → hits (.meshToken u e) u true fun t => ∃ f : FRec, (t.elemOf u e).fault = some f ∧ f.cause = 0x2C))
    ∧ hits (.accWord u row col) u true (fun t => accIdx row col ∈ (t.arr u).accBad
        ∧ ∀ k, k ≠ accIdx row col → tget (0 : W32) (t.arr u).acc k = tget 0 (s.arr u).acc k)
    ∧ (r < 32 → hits (.regWord u vec r) u true fun t => (if vec then 64 + r else r) ∈ (t.tile u).regBad
        ∧ (∀ k, vec = true ∨ k ≠ r → (t.tile u).ctx.getS k = (s.tile u).ctx.getS k)
        ∧ (∀ k, vec = false ∨ k ≠ r → (t.tile u).ctx.getV k = (s.tile u).ctx.getV k) ∧ (t.tile u).ctx.pc = (s.tile u).ctx.pc)
    ∧ (slot < 4 → hits (.weightSlot u slot) u true fun t => slot ∈ (t.arr u).wbufBad ∧ (t.arr u).slots = (s.arr u).slots)
    ∧ (u < 68 → img < 32 → 8 ≤ (imageOf s u img).size → (imageOf s u img).size ≤ 0x4000 →
        hits (.contextStore u img) u true fun t => ctxParity t u img = true ∧ t.tiles = s.tiles)
    ∧ ∀ pb, pa < hbmEnd → pb < hbmEnd → stackAt pa < 12 ∧ stackLocal pa < 2 ^ 36
        ∧ (stackAt pa = stackAt pb → stackLocal pa = stackLocal pb → pa = pb)

/-- A retired tile takes no more records, its queue moves to other tiles, its task is aborted with RETRY, RTILE rises, and health is
DEGRADED, or from four tiles on 2 (R394, R429). Resets begin bring-up: memory is empty, every tile but the bad ones as after reset; a cold reset, as a thermal trip is, keeps the
key store and sets CPSEL; a warm reset keeps the alarm; firmware that verifies under no root key of the fuses stops the module
with an alarm; repair fuses are applied (R420, R424, R427, R432, R433). What bring-up finds, and the tiles firmware names, are operands (log entries 24, 51, 53, 75, 105); for what is kept see log entry 13,
for a moved parked task 90. -/
def Sys2Proof.Claim.retirementAndResets : Prop :=
  ∀ (s : State) (t u : Nat) (moves : List Nat) (b : Bringup),
    let x := s.tile t
    let fresh (q : State) (bad : List Nat) (fuses : List (Nat × W64 × W64)) : Prop := q.mem = State.reset.mem ∧ q.tasks = [] ∧ q.queues = [] 
      ∧ (∀ k, k < 64 → q.collar k = {}) ∧ (∀ k r, 64 ≤ k → k < 68 → r < 2 → (r = 0 ∨ k = 64) → ((q.collar k).region r).emask ≠ 0)
      ∧ (∀ k, { q.tile k with arr := {} } = if k ∈ bad ∧ k < 64 then { ({} : Tile) with retired := true } else {})
      ∧ (∀ k, (∀ f ∈ fuses, f.1 ≠ k) → q.arr k = {})
      ∧ ∀ k m a, fuses = [(k, m, a)] → q.arr k = { ({} : Array) with arrmap := m &&& BitVec.ofNat 64 arrmapMask, accspare := a &&& 0xFFFF }
    let takes : Prop := moves = [u] ∧ u ≠ t ∧ takesRecord s u = true ∧ s.mod.runList = []
    let fw := fwAccepted s.mod b
    (x.retired = true → exec (.tileRetirement t moves) s = .next s)
    ∧ (x.retired = false → ∃ q, exec (.tileRetirement t moves) s = .next q ∧ (q.tile t).retired = true ∧ (q.tile t).queue = []
        ∧ q.mod.rtile = min 64 (s.mod.rtile + 1) ∧ t ∈ q.mod.retired
        ∧ q.mod.health = max s.mod.health (if 4 ≤ s.mod.rtile + 1 then 2 else 1)
        ∧ (x.task.isSome = true → (q.tile t).abort = some (none, true))
        ∧ (∀ r, x.parked = [] → x.queue = [r] → takes → (q.tile u).queue = (s.tile u).queue ++ [r])
        ∧ ∀ p, x.parked = [p] → (parkImage s (imgAtOf s t p.task p.place) = none → (p.task, 0x3D) ∈ (q.tile t).failing)
          ∧ ∀ img, parkImage s (imgAtOf s t p.task p.place) = some img → (s.arr t).accBad = [] →
            (∀ b ∈ keptBufs (s.task p.task) (savedBundle (s.task p.task)), ∀ i, i < b.size →
              isPoisoned s (spmAddr t (b.off + i)) = false) → x.queue = [] → takes →
            (q.tile u).queue = (s.tile u).queue ++ [(s.task p.task).trec] ∧ (q.task p.task).resident = false
            ∧ ∀ e ∈ (q.tile t).parked, e.task ≠ p.task)
    ∧ (exec (.thermalTrip b) s = exec (.coldReset b) s)
    ∧ (fw = true → b.romOk = true → b.tamper = false → ∃ q, exec (.coldReset b) s = .next q ∧ fresh q b.badTiles b.fuses
        ∧ q.mod.ethUp = b.ethOk ∧ q.mod.fwHash = b.fwHash
        ∧ q.mod.keys = s.mod.keys ∧ q.mod.cpsel = !b.cpOk ∧ q.mod.alarm = false ∧ q.mod.policy = b.policy ∧ q.mod.lock = true
        ∧ q.mod.ready = true ∧ q.mod.powered = true ∧ q.mod.stopped = false
        ∧ q.mod.rtile = (b.badTiles.filter fun k => decide (k < 64)).length)
    ∧ (fw = false → ∃ q, exec (.coldReset b) s = .next q ∧ q.mod.stopped = true ∧ q.mod.alarm = true
        ∧ q.mod.src = (if b.tamper then 2 else 1) ∧ q.mem = State.reset.mem)
    ∧ (fw = true → b.romOk = false → ∃ q, exec (.coldReset b) s = .next q ∧ q.mod.stopped = true ∧ q.mem = State.reset.mem)
    ∧ ∃ q, exec (.warmReset b) s = .next q ∧ fresh q b.badTiles s.mod.fuses ∧ q.mod.cpsel = s.mod.cpsel ∧ q.mod.alarm = s.mod.alarm
        ∧ q.mod.src = s.mod.src ∧ q.mod.ready = true ∧ (s.mod.lock = true → q.mod.policy = s.mod.policy ∧ q.mod.erased = s.mod.erased)

/-- The CP's writes of registers: fields take what is written, and a register that stands for a command is that command. -/
def Sys2Proof.Claim.registerWrites : Prop :=
  ∀ (s : State) (t k : Nat) (v : W64),
    let n := v.toNat
    let x := s.tile t
    let w (page off : Nat) : Instr := .registerWrite page off v
    let sets (page off : Nat) (f : State → Prop) : Prop := ∃ q, exec (w page off) s = .next q ∧ q.mem = s.mem ∧ q.tasks = s.tasks ∧ f q
    (t < 64 → (sets t 0x100 fun q => (q.xu t).en = n.testBit 0 ∧ (q.xu t).asid = n / 2 ^ 4 % 2 ^ 12 ∧ (q.xu t).root = (s.xu t).root)
      ∧ (sets t 0x108 fun q => (q.xu t).root = n / 2 ^ 13 % 2 ^ 35 * 2 ^ 13 ∧ (q.xu t).asid = (s.xu t).asid)
      ∧ (sets t 0x118 fun q => (q.xu t).wfail = ((s.xu t).wfail && !n.testBit 1))
      ∧ (sets t 0x430 fun q => (q.arr t).winBase = n % 2 ^ 7 ∧ (q.arr t).winCount = n / 2 ^ 8 % 2 ^ 8)
      ∧ (k < 8 → sets t (0x500 + 8 * k) fun q => tget (0 : W32) (q.tile t).sys.th k = v.setWidth 32
          ∧ ∀ j, j ≠ k → tget (0 : W32) (q.tile t).sys.th j = tget 0 x.sys.th j)
      ∧ (sets t 0x540 fun q => (q.arr t).hdrop = v.setWidth 32)
      ∧ (sets t 0x700 fun q => (q.tile t).cerr = (x.cerr && !n.testBit 24) ∧ (q.tile t).queue = x.queue)
      ∧ (k < 4 → sets t (0x710 + 8 * k) fun q => tget (0 : W64) (q.tile t).tqrec k = v
          ∧ ∀ j, j ≠ k → tget (0 : W64) (q.tile t).tqrec j = tget 0 x.tqrec j)
      ∧ (sets t 0x850 fun q => (q.tile t).shadow.stubpc = BitVec.ofNat 64 (n / 32 % 2 ^ 43 * 32 + n % 4))
      ∧ (k < 4 → sets t (0x1000 + 0x40 * k + 0x10) fun q => ((q.collar t).region k).k = n % 2 ^ 16)
      ∧ (n = 1 → exec (w t 0x708) s = exec (.tqPushTail t) s) ∧ (n = 2 → exec (w t 0x708) s = exec (.tqPushHead t) s)
      ∧ (n = 3 + 2 ^ 8 * (k % 32) → exec (w t 0x708) s = exec (.tqRemove t (k % 32)) s)
      ∧ (n = 4 → exec (w t 0x708) s = exec (.tqPreempt t) s)
      ∧ (n = 5 + 2 ^ 16 → exec (w t 0x708) s = exec (.tqAbortRunning t true) s)
      ∧ (n % 8 = 0 ∨ n % 8 = 7 ∨ 2 ^ 17 ≤ n → exec (w t 0x708) s = .next (s.setTile t { x with cerr := true }))
      ∧ exec (w t 0x438) s = exec (.arrmapWrite t v) s ∧ exec (w t 0x440) s = exec (.accspareWrite t v) s
      ∧ (n % 4 = 3 → exec (w t 0x110) s = exec (.xlinvAll t (n.testBit 2)) s)
      ∧ exec (w t 0x848) s = exec (.fltrvalWrite t v) s)
    ∧ (64 ≤ t → t < 68 → (sets t 0x180 fun q => (q.collar t).asid = n % 2 ^ 12)
        ∧ exec (w t 0x138) s = exec (.rptokSend t v) s)
    ∧ (k < 64 → (n.testBit 16 = true → exec (w 64 (0x1000 + 8 * k)) s = exec (.feslotMap k (n % 2 ^ 10)) s)
        ∧ (n.testBit 16 = false → sets 64 (0x1000 + 8 * k) fun q => (q.fslot k).shown = n % 2 ^ 10
          ∧ ((s.fslot k).fetching = false → (q.fslot k).v = false) ∧ (q.fslot k).q = (s.fslot k).q))
    ∧ (k < 8 → sets 72 (0x158 + 8 * k) fun q => tget (0 : W64) q.mod.mbxout k = v)
    ∧ (sets 72 0x100 fun q => q.mod.serr = (s.mod.serr && !n.testBit 24))
    ∧ exec (w 72 8) s = exec (.healthWrite v) s ∧ exec (w 72 0x10) s = exec (.secalmPolicyWrite (n.testBit 2)) s
    ∧ (n.testBit 0 = true → exec (w 72 0x150) s = exec .mbxPop s)
    ∧ (n.testBit 16 = true → exec (w 72 0x198) s = exec (.mbxSend (n % 2 ^ 8) (n / 2 ^ 8 % 2 ^ 8)) s)

/-- The CP's loads and stores of one word of package memory, performed once the bank grants them: a store writes its bytes alone, a load answers what memory holds and writes nothing; a word of a register page is the register; a
fence writes nothing; an address with nothing behind it stops the run (R64, R66, R100). -/
def Sys2Proof.Claim.controlProcessorAccesses : Prop :=
  ∀ (s : State) (pa n v page off : Nat) (pred succ : Bool), 1 ≤ n → pa % 8 + n ≤ 8 →
    let load := Instr.cpLoadStore (.load pa n)
    let store := Instr.cpLoadStore (.store pa n v)
    let answers (b : List Byte) : Prop := ∃ t, exec load s = .next t ∧ t.tiles = s.tiles ∧ t.outbox = s.outbox ++ [.cpData b]
      ∧ ∀ a, t.byte a = s.byte a
    let comesAgain (i : Instr) : Prop := ∃ t, exec i s = .next t ∧ t.inputs = i :: s.inputs ∧ t.outbox = s.outbox
      ∧ t.tiles = s.tiles ∧ ∀ a, t.byte a = s.byte a
    let stores : Prop := ∃ t, exec store s = .next t ∧ t.tiles = s.tiles ∧ t.outbox = s.outbox
      ∧ ∀ a, t.byte a = if pa ≤ a ∧ a < pa + n then BitVec.ofNat 8 (v / 2 ^ (8 * (a - pa))) else s.byte a
    let banked : Prop := ∃ o t, place pa = .spm t o ∨ place pa = .sram t o
    let reads : Prop := (anyPoison s pa n = false → answers (memRead s .cp pa n n).1)
      ∧ (anyPoison s pa n = true → ∃ b : List Byte, b.length = n ∧ answers b)
    (((∃ o t, place pa = .hbm ∨ place pa = .context t o) → s.mem.wf = true → stores)
    ∧ (place pa = .hbm → reads) ∧ ((∃ o t, place pa = .context t o) → answers (s.bytes pa n))
    ∧ (∀ t o, place pa = .planes t o → answers (windowRead s t o n))
    ∧ (banked → (∀ u, (s.collar u).fly = []) →
      ((∃ r, reqAt s (reqId 18 0) (pa, n) = some r ∧ r.granted = true ∧ r.got = none) → (s.mem.wf = true → stores) ∧ reads)
      ∧ ((∀ r, reqAt s (reqId 18 0) (pa, n) = some r → r.granted = false ∧ r.got = none) → comesAgain load ∧ comesAgain store)))
    ∧ (place pa = .reg page off → answers (bytesOfNat n (regRead s page off n))
        ∧ (n = 8 → ∀ t, exec (.registerWrite page off (BitVec.ofNat 64 v)) s = .next t → exec store s = .next t))
    ∧ (place pa = .hole → exec (.cpLoadStore (.store pa n v)) s = .fault (.hole pa)
        ∧ exec (.cpLoadStore (.load pa n)) s = .fault (.hole pa))
    ∧ ∃ t, exec (.cpLoadStore (.fence pred succ)) s = .next t ∧ t.tiles = s.tiles ∧ ∀ a, t.byte a = s.byte a

/-- The module's own steps: mailbox, alarms, health, soft errors, retirement, resets, registers, the CP's accesses. -/
def Obligations.ModuleEventsTakeEffect : Prop :=
  Claim.moduleControls ∧ Claim.softErrors ∧ Claim.retirementAndResets ∧ Claim.registerWrites ∧ Claim.controlProcessorAccesses

/-! ### Steps, decoding, reset, and what every step keeps -/

/-- A turn of the agenda is one instruction of the table: an event is exec of it; an element's turn decodes the word of its
current plane and is exec of that; a sequencer's turn fetches and decodes the bundle at the PC and is exec of slot A, the
back edge, then exec of slot B; a weight block's turn is exec of the block at the head; with no turn left, a cycle begins.
What the host places with withFetchWord is decoded and executed next. That one agent acts in each step, and the order of the
turns, is the model's choice (log entry 1), as is where withFetchWord places a word (log entry 9); that slot B sees what slot
A left is the reading of log entry 30. -/
def Obligations.StepRunsTheDecodedInstruction : Prop :=
  ∀ (s : State) (rest : List Turn), s.mod.stopped = false → s.mod.powered = true →
    let s0 : State := { s with free := s.free + 1, agenda := rest }
    (s.agenda = [] → step s = .next (newRound { s with free := s.free + 1 }))
    ∧ (∀ i, s.agenda = .ev i :: rest → step s = exec i s0)
    ∧ (∀ u e k p i, s.agenda = .elem u e :: rest → let c := s.collar u
        let x := c.elem e
        let y := x.plane p
        ((regionOf c e).bind fun r => (c.region r).sel) = some k → x.curOf k = some p → decodeElem y.op = .ok i →
        ((s.tile u).landing = false ∨ (y.opcode ≠ 0x40 ∧ y.opcode ≠ 0x45)) → y.bad = false →
        (∀ q ∈ srcQ y.eop, ∀ k ∈ (y.queue q).head?, k.bnr = false ∧ k.bad = false) →
        (y.eop.pg = true → ∀ k ∈ y.qp.head?, k.bad = false) →
        step s = exec i { s0 with cur := { unit := u, elem := e, slot := k, plane := p } })
    ∧ (∀ t g w b r1 r3, s.agenda = .seq t :: rest → let x := s.tile t
        let s1 : State := { s0 with cur := { unit := t, bpc := x.ctx.pc } }
        let s2 : State := { noteFetch s1 with cur := { unit := t, bpc := x.ctx.pc, ta := b.ta, tc := b.tc } }
        x.held = false → x.shadow.queue = [] → x.issues = true → x.parkWait = none → (x.preempt = false ∨ x.atPs = false) →
        x.ctx.nextIssue ≤ x.tc → fetched s1 = .got g w → g / 2 ^ 240 % 2 ^ 16 = 0 → decodeBundle w = .ok b →
        waitsOver s2 b = true → readsBad x b = false → (b.le = true → x.ctx.loops ≠ []) →
        exec b.a s2 = .next r1 → r1.cur.iss = .ok → (backEdge r1 b).cur.iss = .ok → exec b.b (backEdge r1 b) = .next r3 →
        r3.cur.iss = .ok → step s = .next (bundleIssued r3 b (inLoopBuf x.ctx)))
    ∧ (∀ t i r, s.agenda = .wd t :: rest → let x := s.tile t
        let s1 : State := State.setTile { s0 with cur := { unit := t } } t (settleReload x)
        x.wd.on = true → x.held = false → x.shadow.queue = [] → x.landing = false → x.abort = none →
        (x.preempt = false ∨ x.wd.mid = true) → wdHead s1 t = some (.inr i) → exec i s1 = .next r → step s = .next r)
    ∧ ∀ w i, decodeTableWord 32 w = some i → ∃ t : State, step (s.withFetchWord 32 w) = exec i t ∧ t.mem = s.mem
        ∧ t.cur.unit = 0 ∧ ((t.elemOf 0 t.cur.elem).plane t.cur.plane).op = w % 2 ^ 32 ∧ t.queues = s.queues ∧ t.tasks = s.tasks

/-- Words written out from the manual's encodings decode to the instructions they stand for: its own examples of slot A,
slot B, element and weight-block words, and words that R220, R242 and R313 refuse. -/
def Obligations.DecodedWords : Prop :=
  let e (fmt ovc sb sc : Nat) : EOp := { fmt := BitVec.ofNat 4 fmt, ovc := BitVec.ofNat 5 ovc, sa := 0, sb := BitVec.ofNat 3 sb
                                         sc := BitVec.ofNat 3 sc, reg := 0, pg := false, pp := false, sv := 0 }
  decodeA 0x58500048 = .ok (.li20 5 0x48) ∧ decodeA 0x3073A080 = .ok (.sadd 7 7 8 1) ∧ decodeA 0x10308800 = .ok (.add 3 1 2)
  ∧ decodeA 0x0243FFFD = .ok (.br 4 .ne 0x1FFFD) ∧ decodeA 0x0A628002 = .ok (.loop 6 5 2)
  ∧ decodeA 0x86308801 = .ok (.vfma 3 1 2 0)
  ∧ decodeB 0x06428000 = .ok (.ldv 4 5 0 0) ∧ decodeB 0x049217FE = .ok (.st 2 9 4 0x7FE)
  ∧ decodeB 0x0E921750 = .ok (.amo .add false true 2 6 9 4 5) ∧ decodeB 0x12000089 = .ok (.fence 9 1)
  ∧ decodeB 0x202180C0 = .ok (.mma 2 3 0 0 1 true false) ∧ decodeB 0x30048040 = .ok (.fire 0 0 false false true false 9)
  ∧ decodeB 0x0C120000 = .ok (.stacc 1 4 0 0) ∧ decodeB 0x4C700800 = .ok (.tkw 7 4 false)
  ∧ decodeB 0x64000007 = .ok (.barv 0 7) ∧ decodeB 0x72000000 = .ok .done
  ∧ decodeElem 0x36241480 = .ok (.ffma (e 1 4 5 1)) ∧ decodeElem 0x50621B00 = .ok (.cvt (e 3 2 6 6))
  ∧ decodeElem 0x76421B00 = .ok (.hfwd (e 2 2 6 6)) ∧ decodeElem 0x3A271300 = .ok (.fmax (e 1 7 4 6))
  ∧ decodeElem 0x66421B00 = .ok (.bcst (e 2 2 6 6)) ∧ decodeTableWord 32 0x3A271300 = some (.fmax (e 1 7 4 6))
  ∧ decodeA 0x10308801 = .rsvdField ∧ decodeA 0xFE000000 = .illegalOp ∧ decodeB 0xFE000000 = .illegalOp
  ∧ decodeElem 0x0E000000 = .illegalOp
  ∧ decodeW (encW 1 0x24 2 0x10000 0 0 0) = .bad 1

/-- Decoding gives back what was encoded, for every well-formed instruction of the tables with an encoding: slot A words,
slot B words, element operation words, bundles of two words with their header, and weight-block headers whose image fields
and payload length R313 admits. -/
def Obligations.DecodeEncodeRoundTrip : Prop :=
  (∀ i w, i.wf = true →
      (encodeA i = some w → w < 2 ^ 32 ∧ decodeA w = .ok i) ∧ (encodeB i = some w → w < 2 ^ 32 ∧ decodeB w = .ok i)
      ∧ (encodeElem i = some w → w < 2 ^ 32 ∧ decodeElem w = .ok i))
  ∧ (∀ (b : Bundle) (wa wb : Nat), b.ta < 8 → b.tc < 128 → b.pd < 8 → b.a.wf = true → b.b.wf = true → b.headerOk = true →
      encodeA b.a = some wa → encodeB b.b = some wb → decodeBundle (b.ta * 2 ^ 77 + b.tc * 2 ^ 70 + b.pd * 2 ^ 67
        + b.le.toNat * 2 ^ 66 + b.ps.toNat * 2 ^ 65 + wa * 2 ^ 32 + wb) = .ok b)
  ∧ ∀ i w, i.wf = true → encodeW i = some w →
      (∀ ctx acc src fmt sparse mx kc pair plen l0 otoff nout,
        i = .wMma ctx acc src fmt sparse mx kc pair plen l0 otoff nout →
          let k := kcK kc.toNat
          plen.toNat = imageDlen fmt.toNat sparse.toNat k ∧ plen.toNat ≤ 65536
          ∧ imageFieldsOk fmt.toNat sparse.toNat mx k nout.toNat = true ∧ (otoff ≠ 0 ∨ (nout = 0 ∧ mx = false))
          ∧ pair.toNat < 12 ∧ pairWeight pair.toNat = (fmt.toNat, mx, k)) →
      w < 2 ^ 256 ∧ ∃ plen, decodeW w = .ok i plen

/-- Every step keeps the one canonical form of memory: whatever it does, the addresses listed after it rise strictly and
no listed byte is what an unlisted address reads as. (The form is the model's own: notes/assumptions/4.md.) -/
def Obligations.MemoryStaysCanonical : Prop := ∀ s t : State, Inv s → step s = .next t → Inv t

/-- After reset memory is in its canonical form and lists nothing, no tile runs a task, and every register of R65's pages
reads the Reset value of its table: 0, but for IDENT's LEVEL, STEP and MODID, OUTFREE 16, THRESH 1 and HOLD 64; the fuse
registers ARRMAP and ACCSPARE are left out. What unlisted memory reads as is the model's choice (log entry 4); that an offset
which no table names reads 0 is the reading of log entry 25. -/
def Obligations.ResetState : Prop :=
  Inv State.reset ∧ State.reset.mem.cells = [] ∧ (∀ t, (State.reset.tile t).task = none ∧ (State.reset.tile t).queue = [])
  ∧ (∀ page off, page < 64 → off ≠ 0x438 → off ≠ 0x440 → reg64 State.reset page off = 0)
  ∧ (∀ page off, 64 ≤ page → page < 72 → reg64 State.reset page off = 0)
  ∧ reg64 State.reset 72 0 % 2 ^ 8 = 3 ∧ reg64 State.reset 72 0x100 = 16 * 2 ^ 16
  ∧ (∀ off, off ≠ 0 → off ≠ 0x100 → reg64 State.reset 72 off = 0)
  ∧ (∀ q, q < 1024 → reg64 State.reset 73 (0x10000 + 0x40 * q + 0x28) = 1 + 64 * 2 ^ 16)
  ∧ (∀ q o, q < 1024 → o < 0x40 → o ≠ 0x28 → reg64 State.reset 73 (0x10000 + 0x40 * q + o) = 0)
  ∧ ∀ w o, w < 1024 → o < 0x20 → reg64 State.reset 73 (0x20000 + 0x20 * w + o) = 0
end

