-- ==== Sys2Proof/Laws/Tbl.lean ====
section
/-!
SUPPORT. Laws of the sparse tables: what a lookup gives after an update, and that updates keep keys rising.
-/
namespace Sys2Proof

variable {α : Type}

@[simp] theorem tget_tput (d : α) (t : Tbl α) (k : Nat) (v : α) : tget d (tput t k v) k = v := by
  induction t with
  | nil => simp [tput, tget]
  | cons p t ih =>
    obtain ⟨k', v'⟩ := p
    simp only [tput]
    split
    · simp [tget]
    · split
      · simp [tget]
      · simp_all [tget] <;> omega

theorem tget_tput_ne (d : α) (t : Tbl α) (k j : Nat) (v : α) (h : j ≠ k) :
    tget d (tput t k v) j = tget d t j := by
  induction t with
  | nil => simp [tput, tget, h]
  | cons p t ih =>
    obtain ⟨k', v'⟩ := p
    simp only [tput]
    split
    · next e => subst e; simp [tget, h]
    · split
      · simp only [tget, h, if_false]
        repeat' split
        all_goals first | rfl | omega
      · simp only [tget, ih]

@[simp] theorem thas_tput (t : Tbl α) (k : Nat) (v : α) : thas (tput t k v) k = true := by
  induction t with
  | nil => simp [tput, thas]
  | cons p t ih =>
    obtain ⟨k', v'⟩ := p
    simp only [tput]
    split
    · simp [thas]
    · split
      · simp [thas]
      · simp_all [thas]

end Sys2Proof
end

