-- ==== Sys2Proof/Laws/State.lean ====
section
/-!
SUPPORT. What each update of the state leaves alone, one lemma per field, and what it writes: so that no proof
unfolds a record update.
-/
namespace Sys2Proof.Machine

/-! ### setTile -/

@[simp] theorem State.setTile_cycle (s : State) (t : Nat) (x : Tile) : (s.setTile t x).cycle = s.cycle := rfl
@[simp] theorem State.setTile_agenda (s : State) (t : Nat) (x : Tile) : (s.setTile t x).agenda = s.agenda := rfl
@[simp] theorem State.setTile_inputs (s : State) (t : Nat) (x : Tile) : (s.setTile t x).inputs = s.inputs := rfl
@[simp] theorem State.setTile_side (s : State) (t : Nat) (x : Tile) : (s.setTile t x).side = s.side := rfl
@[simp] theorem State.setTile_cur (s : State) (t : Nat) (x : Tile) : (s.setTile t x).cur = s.cur := rfl
@[simp] theorem State.setTile_free (s : State) (t : Nat) (x : Tile) : (s.setTile t x).free = s.free := rfl
@[simp] theorem State.setTile_outbox (s : State) (t : Nat) (x : Tile) : (s.setTile t x).outbox = s.outbox := rfl
@[simp] theorem State.setTile_mem (s : State) (t : Nat) (x : Tile) : (s.setTile t x).mem = s.mem := rfl
@[simp] theorem State.setTile_tiles (s : State) (t : Nat) (x : Tile) : (s.setTile t x).tiles = tput s.tiles t x := rfl
@[simp] theorem State.setTile_collars (s : State) (t : Nat) (x : Tile) : (s.setTile t x).collars = s.collars := rfl
@[simp] theorem State.setTile_xus (s : State) (t : Nat) (x : Tile) : (s.setTile t x).xus = s.xus := rfl
@[simp] theorem State.setTile_walkers (s : State) (t : Nat) (x : Tile) : (s.setTile t x).walkers = s.walkers := rfl
@[simp] theorem State.setTile_engines (s : State) (t : Nat) (x : Tile) : (s.setTile t x).engines = s.engines := rfl
@[simp] theorem State.setTile_tasks (s : State) (t : Nat) (x : Tile) : (s.setTile t x).tasks = s.tasks := rfl
@[simp] theorem State.setTile_barriers (s : State) (t : Nat) (x : Tile) : (s.setTile t x).barriers = s.barriers := rfl
@[simp] theorem State.setTile_links (s : State) (t : Nat) (x : Tile) : (s.setTile t x).links = s.links := rfl
@[simp] theorem State.setTile_handles (s : State) (t : Nat) (x : Tile) : (s.setTile t x).handles = s.handles := rfl
@[simp] theorem State.setTile_queues (s : State) (t : Nat) (x : Tile) : (s.setTile t x).queues = s.queues := rfl
@[simp] theorem State.setTile_fe (s : State) (t : Nat) (x : Tile) : (s.setTile t x).fe = s.fe := rfl
@[simp] theorem State.setTile_windows (s : State) (t : Nat) (x : Tile) : (s.setTile t x).windows = s.windows := rfl
@[simp] theorem State.setTile_asids (s : State) (t : Nat) (x : Tile) : (s.setTile t x).asids = s.asids := rfl
@[simp] theorem State.setTile_qps (s : State) (t : Nat) (x : Tile) : (s.setTile t x).qps = s.qps := rfl
@[simp] theorem State.setTile_mod (s : State) (t : Nat) (x : Tile) : (s.setTile t x).mod = s.mod := rfl

/-! ### setCollar -/

@[simp] theorem State.setCollar_cycle (s : State) (u : Nat) (c : Collar) : (s.setCollar u c).cycle = s.cycle := rfl
@[simp] theorem State.setCollar_agenda (s : State) (u : Nat) (c : Collar) : (s.setCollar u c).agenda = s.agenda := rfl
@[simp] theorem State.setCollar_inputs (s : State) (u : Nat) (c : Collar) : (s.setCollar u c).inputs = s.inputs := rfl
@[simp] theorem State.setCollar_side (s : State) (u : Nat) (c : Collar) : (s.setCollar u c).side = s.side := rfl
@[simp] theorem State.setCollar_cur (s : State) (u : Nat) (c : Collar) : (s.setCollar u c).cur = s.cur := rfl
@[simp] theorem State.setCollar_free (s : State) (u : Nat) (c : Collar) : (s.setCollar u c).free = s.free := rfl
@[simp] theorem State.setCollar_outbox (s : State) (u : Nat) (c : Collar) : (s.setCollar u c).outbox = s.outbox := rfl
@[simp] theorem State.setCollar_mem (s : State) (u : Nat) (c : Collar) : (s.setCollar u c).mem = s.mem := rfl
@[simp] theorem State.setCollar_tiles (s : State) (u : Nat) (c : Collar) : (s.setCollar u c).tiles = s.tiles := rfl
@[simp] theorem State.setCollar_collars (s : State) (u : Nat) (c : Collar) : (s.setCollar u c).collars = tput s.collars u c := rfl
@[simp] theorem State.setCollar_xus (s : State) (u : Nat) (c : Collar) : (s.setCollar u c).xus = s.xus := rfl
@[simp] theorem State.setCollar_walkers (s : State) (u : Nat) (c : Collar) : (s.setCollar u c).walkers = s.walkers := rfl
@[simp] theorem State.setCollar_engines (s : State) (u : Nat) (c : Collar) : (s.setCollar u c).engines = s.engines := rfl
@[simp] theorem State.setCollar_tasks (s : State) (u : Nat) (c : Collar) : (s.setCollar u c).tasks = s.tasks := rfl
@[simp] theorem State.setCollar_barriers (s : State) (u : Nat) (c : Collar) : (s.setCollar u c).barriers = s.barriers := rfl
@[simp] theorem State.setCollar_links (s : State) (u : Nat) (c : Collar) : (s.setCollar u c).links = s.links := rfl
@[simp] theorem State.setCollar_handles (s : State) (u : Nat) (c : Collar) : (s.setCollar u c).handles = s.handles := rfl
@[simp] theorem State.setCollar_queues (s : State) (u : Nat) (c : Collar) : (s.setCollar u c).queues = s.queues := rfl
@[simp] theorem State.setCollar_fe (s : State) (u : Nat) (c : Collar) : (s.setCollar u c).fe = s.fe := rfl
@[simp] theorem State.setCollar_windows (s : State) (u : Nat) (c : Collar) : (s.setCollar u c).windows = s.windows := rfl
@[simp] theorem State.setCollar_asids (s : State) (u : Nat) (c : Collar) : (s.setCollar u c).asids = s.asids := rfl
@[simp] theorem State.setCollar_qps (s : State) (u : Nat) (c : Collar) : (s.setCollar u c).qps = s.qps := rfl
@[simp] theorem State.setCollar_mod (s : State) (u : Nat) (c : Collar) : (s.setCollar u c).mod = s.mod := rfl

/-! ### setTask -/

@[simp] theorem State.setTask_cycle (s : State) (n : Nat) (k : Task) : (s.setTask n k).cycle = s.cycle := rfl
@[simp] theorem State.setTask_agenda (s : State) (n : Nat) (k : Task) : (s.setTask n k).agenda = s.agenda := rfl
@[simp] theorem State.setTask_inputs (s : State) (n : Nat) (k : Task) : (s.setTask n k).inputs = s.inputs := rfl
@[simp] theorem State.setTask_side (s : State) (n : Nat) (k : Task) : (s.setTask n k).side = s.side := rfl
@[simp] theorem State.setTask_cur (s : State) (n : Nat) (k : Task) : (s.setTask n k).cur = s.cur := rfl
@[simp] theorem State.setTask_free (s : State) (n : Nat) (k : Task) : (s.setTask n k).free = s.free := rfl
@[simp] theorem State.setTask_outbox (s : State) (n : Nat) (k : Task) : (s.setTask n k).outbox = s.outbox := rfl
@[simp] theorem State.setTask_mem (s : State) (n : Nat) (k : Task) : (s.setTask n k).mem = s.mem := rfl
@[simp] theorem State.setTask_tiles (s : State) (n : Nat) (k : Task) : (s.setTask n k).tiles = s.tiles := rfl
@[simp] theorem State.setTask_collars (s : State) (n : Nat) (k : Task) : (s.setTask n k).collars = s.collars := rfl
@[simp] theorem State.setTask_xus (s : State) (n : Nat) (k : Task) : (s.setTask n k).xus = s.xus := rfl
@[simp] theorem State.setTask_walkers (s : State) (n : Nat) (k : Task) : (s.setTask n k).walkers = s.walkers := rfl
@[simp] theorem State.setTask_engines (s : State) (n : Nat) (k : Task) : (s.setTask n k).engines = s.engines := rfl
@[simp] theorem State.setTask_tasks (s : State) (n : Nat) (k : Task) : (s.setTask n k).tasks = tput s.tasks n k := rfl
@[simp] theorem State.setTask_barriers (s : State) (n : Nat) (k : Task) : (s.setTask n k).barriers = s.barriers := rfl
@[simp] theorem State.setTask_links (s : State) (n : Nat) (k : Task) : (s.setTask n k).links = s.links := rfl
@[simp] theorem State.setTask_handles (s : State) (n : Nat) (k : Task) : (s.setTask n k).handles = s.handles := rfl
@[simp] theorem State.setTask_queues (s : State) (n : Nat) (k : Task) : (s.setTask n k).queues = s.queues := rfl
@[simp] theorem State.setTask_fe (s : State) (n : Nat) (k : Task) : (s.setTask n k).fe = s.fe := rfl
@[simp] theorem State.setTask_windows (s : State) (n : Nat) (k : Task) : (s.setTask n k).windows = s.windows := rfl
@[simp] theorem State.setTask_asids (s : State) (n : Nat) (k : Task) : (s.setTask n k).asids = s.asids := rfl
@[simp] theorem State.setTask_qps (s : State) (n : Nat) (k : Task) : (s.setTask n k).qps = s.qps := rfl
@[simp] theorem State.setTask_mod (s : State) (n : Nat) (k : Task) : (s.setTask n k).mod = s.mod := rfl

/-! ### setXu -/

@[simp] theorem State.setXu_cycle (s : State) (u : Nat) (x : XUnit) : (s.setXu u x).cycle = s.cycle := rfl
@[simp] theorem State.setXu_agenda (s : State) (u : Nat) (x : XUnit) : (s.setXu u x).agenda = s.agenda := rfl
@[simp] theorem State.setXu_inputs (s : State) (u : Nat) (x : XUnit) : (s.setXu u x).inputs = s.inputs := rfl
@[simp] theorem State.setXu_side (s : State) (u : Nat) (x : XUnit) : (s.setXu u x).side = s.side := rfl
@[simp] theorem State.setXu_cur (s : State) (u : Nat) (x : XUnit) : (s.setXu u x).cur = s.cur := rfl
@[simp] theorem State.setXu_free (s : State) (u : Nat) (x : XUnit) : (s.setXu u x).free = s.free := rfl
@[simp] theorem State.setXu_outbox (s : State) (u : Nat) (x : XUnit) : (s.setXu u x).outbox = s.outbox := rfl
@[simp] theorem State.setXu_mem (s : State) (u : Nat) (x : XUnit) : (s.setXu u x).mem = s.mem := rfl
@[simp] theorem State.setXu_tiles (s : State) (u : Nat) (x : XUnit) : (s.setXu u x).tiles = s.tiles := rfl
@[simp] theorem State.setXu_collars (s : State) (u : Nat) (x : XUnit) : (s.setXu u x).collars = s.collars := rfl
@[simp] theorem State.setXu_xus (s : State) (u : Nat) (x : XUnit) : (s.setXu u x).xus = tput s.xus u x := rfl
@[simp] theorem State.setXu_walkers (s : State) (u : Nat) (x : XUnit) : (s.setXu u x).walkers = s.walkers := rfl
@[simp] theorem State.setXu_engines (s : State) (u : Nat) (x : XUnit) : (s.setXu u x).engines = s.engines := rfl
@[simp] theorem State.setXu_tasks (s : State) (u : Nat) (x : XUnit) : (s.setXu u x).tasks = s.tasks := rfl
@[simp] theorem State.setXu_barriers (s : State) (u : Nat) (x : XUnit) : (s.setXu u x).barriers = s.barriers := rfl
@[simp] theorem State.setXu_links (s : State) (u : Nat) (x : XUnit) : (s.setXu u x).links = s.links := rfl
@[simp] theorem State.setXu_handles (s : State) (u : Nat) (x : XUnit) : (s.setXu u x).handles = s.handles := rfl
@[simp] theorem State.setXu_queues (s : State) (u : Nat) (x : XUnit) : (s.setXu u x).queues = s.queues := rfl
@[simp] theorem State.setXu_fe (s : State) (u : Nat) (x : XUnit) : (s.setXu u x).fe = s.fe := rfl
@[simp] theorem State.setXu_windows (s : State) (u : Nat) (x : XUnit) : (s.setXu u x).windows = s.windows := rfl
@[simp] theorem State.setXu_asids (s : State) (u : Nat) (x : XUnit) : (s.setXu u x).asids = s.asids := rfl
@[simp] theorem State.setXu_qps (s : State) (u : Nat) (x : XUnit) : (s.setXu u x).qps = s.qps := rfl
@[simp] theorem State.setXu_mod (s : State) (u : Nat) (x : XUnit) : (s.setXu u x).mod = s.mod := rfl

/-! ### setEng -/

@[simp] theorem State.setEng_cycle (s : State) (e : Eng) (x : Engine) : (s.setEng e x).cycle = s.cycle := rfl
@[simp] theorem State.setEng_agenda (s : State) (e : Eng) (x : Engine) : (s.setEng e x).agenda = s.agenda := rfl
@[simp] theorem State.setEng_inputs (s : State) (e : Eng) (x : Engine) : (s.setEng e x).inputs = s.inputs := rfl
@[simp] theorem State.setEng_side (s : State) (e : Eng) (x : Engine) : (s.setEng e x).side = s.side := rfl
@[simp] theorem State.setEng_cur (s : State) (e : Eng) (x : Engine) : (s.setEng e x).cur = s.cur := rfl
@[simp] theorem State.setEng_free (s : State) (e : Eng) (x : Engine) : (s.setEng e x).free = s.free := rfl
@[simp] theorem State.setEng_outbox (s : State) (e : Eng) (x : Engine) : (s.setEng e x).outbox = s.outbox := rfl
@[simp] theorem State.setEng_mem (s : State) (e : Eng) (x : Engine) : (s.setEng e x).mem = s.mem := rfl
@[simp] theorem State.setEng_tiles (s : State) (e : Eng) (x : Engine) : (s.setEng e x).tiles = s.tiles := rfl
@[simp] theorem State.setEng_collars (s : State) (e : Eng) (x : Engine) : (s.setEng e x).collars = s.collars := rfl
@[simp] theorem State.setEng_xus (s : State) (e : Eng) (x : Engine) : (s.setEng e x).xus = s.xus := rfl
@[simp] theorem State.setEng_walkers (s : State) (e : Eng) (x : Engine) : (s.setEng e x).walkers = s.walkers := rfl
@[simp] theorem State.setEng_tasks (s : State) (e : Eng) (x : Engine) : (s.setEng e x).tasks = s.tasks := rfl
@[simp] theorem State.setEng_barriers (s : State) (e : Eng) (x : Engine) : (s.setEng e x).barriers = s.barriers := rfl
@[simp] theorem State.setEng_links (s : State) (e : Eng) (x : Engine) : (s.setEng e x).links = s.links := rfl
@[simp] theorem State.setEng_handles (s : State) (e : Eng) (x : Engine) : (s.setEng e x).handles = s.handles := rfl
@[simp] theorem State.setEng_queues (s : State) (e : Eng) (x : Engine) : (s.setEng e x).queues = s.queues := rfl
@[simp] theorem State.setEng_fe (s : State) (e : Eng) (x : Engine) : (s.setEng e x).fe = s.fe := rfl
@[simp] theorem State.setEng_windows (s : State) (e : Eng) (x : Engine) : (s.setEng e x).windows = s.windows := rfl
@[simp] theorem State.setEng_asids (s : State) (e : Eng) (x : Engine) : (s.setEng e x).asids = s.asids := rfl
@[simp] theorem State.setEng_qps (s : State) (e : Eng) (x : Engine) : (s.setEng e x).qps = s.qps := rfl
@[simp] theorem State.setEng_mod (s : State) (e : Eng) (x : Engine) : (s.setEng e x).mod = s.mod := rfl

/-! ### setBar -/

@[simp] theorem State.setBar_cycle (s : State) (b : Nat) (x : Barrier) : (s.setBar b x).cycle = s.cycle := rfl
@[simp] theorem State.setBar_agenda (s : State) (b : Nat) (x : Barrier) : (s.setBar b x).agenda = s.agenda := rfl
@[simp] theorem State.setBar_inputs (s : State) (b : Nat) (x : Barrier) : (s.setBar b x).inputs = s.inputs := rfl
@[simp] theorem State.setBar_side (s : State) (b : Nat) (x : Barrier) : (s.setBar b x).side = s.side := rfl
@[simp] theorem State.setBar_cur (s : State) (b : Nat) (x : Barrier) : (s.setBar b x).cur = s.cur := rfl
@[simp] theorem State.setBar_free (s : State) (b : Nat) (x : Barrier) : (s.setBar b x).free = s.free := rfl
@[simp] theorem State.setBar_outbox (s : State) (b : Nat) (x : Barrier) : (s.setBar b x).outbox = s.outbox := rfl
@[simp] theorem State.setBar_mem (s : State) (b : Nat) (x : Barrier) : (s.setBar b x).mem = s.mem := rfl
@[simp] theorem State.setBar_tiles (s : State) (b : Nat) (x : Barrier) : (s.setBar b x).tiles = s.tiles := rfl
@[simp] theorem State.setBar_collars (s : State) (b : Nat) (x : Barrier) : (s.setBar b x).collars = s.collars := rfl
@[simp] theorem State.setBar_xus (s : State) (b : Nat) (x : Barrier) : (s.setBar b x).xus = s.xus := rfl
@[simp] theorem State.setBar_walkers (s : State) (b : Nat) (x : Barrier) : (s.setBar b x).walkers = s.walkers := rfl
@[simp] theorem State.setBar_engines (s : State) (b : Nat) (x : Barrier) : (s.setBar b x).engines = s.engines := rfl
@[simp] theorem State.setBar_tasks (s : State) (b : Nat) (x : Barrier) : (s.setBar b x).tasks = s.tasks := rfl
@[simp] theorem State.setBar_links (s : State) (b : Nat) (x : Barrier) : (s.setBar b x).links = s.links := rfl
@[simp] theorem State.setBar_handles (s : State) (b : Nat) (x : Barrier) : (s.setBar b x).handles = s.handles := rfl
@[simp] theorem State.setBar_queues (s : State) (b : Nat) (x : Barrier) : (s.setBar b x).queues = s.queues := rfl
@[simp] theorem State.setBar_fe (s : State) (b : Nat) (x : Barrier) : (s.setBar b x).fe = s.fe := rfl
@[simp] theorem State.setBar_windows (s : State) (b : Nat) (x : Barrier) : (s.setBar b x).windows = s.windows := rfl
@[simp] theorem State.setBar_asids (s : State) (b : Nat) (x : Barrier) : (s.setBar b x).asids = s.asids := rfl
@[simp] theorem State.setBar_qps (s : State) (b : Nat) (x : Barrier) : (s.setBar b x).qps = s.qps := rfl
@[simp] theorem State.setBar_mod (s : State) (b : Nat) (x : Barrier) : (s.setBar b x).mod = s.mod := rfl

/-! ### setAg -/

@[simp] theorem State.setAg_cycle (s : State) (a : AgentId) (v : AgMem) : (s.setAg a v).cycle = s.cycle := rfl
@[simp] theorem State.setAg_agenda (s : State) (a : AgentId) (v : AgMem) : (s.setAg a v).agenda = s.agenda := rfl
@[simp] theorem State.setAg_inputs (s : State) (a : AgentId) (v : AgMem) : (s.setAg a v).inputs = s.inputs := rfl
@[simp] theorem State.setAg_side (s : State) (a : AgentId) (v : AgMem) : (s.setAg a v).side = s.side := rfl
@[simp] theorem State.setAg_cur (s : State) (a : AgentId) (v : AgMem) : (s.setAg a v).cur = s.cur := rfl
@[simp] theorem State.setAg_free (s : State) (a : AgentId) (v : AgMem) : (s.setAg a v).free = s.free := rfl
@[simp] theorem State.setAg_outbox (s : State) (a : AgentId) (v : AgMem) : (s.setAg a v).outbox = s.outbox := rfl
@[simp] theorem State.setAg_tiles (s : State) (a : AgentId) (v : AgMem) : (s.setAg a v).tiles = s.tiles := rfl
@[simp] theorem State.setAg_collars (s : State) (a : AgentId) (v : AgMem) : (s.setAg a v).collars = s.collars := rfl
@[simp] theorem State.setAg_xus (s : State) (a : AgentId) (v : AgMem) : (s.setAg a v).xus = s.xus := rfl
@[simp] theorem State.setAg_walkers (s : State) (a : AgentId) (v : AgMem) : (s.setAg a v).walkers = s.walkers := rfl
@[simp] theorem State.setAg_engines (s : State) (a : AgentId) (v : AgMem) : (s.setAg a v).engines = s.engines := rfl
@[simp] theorem State.setAg_tasks (s : State) (a : AgentId) (v : AgMem) : (s.setAg a v).tasks = s.tasks := rfl
@[simp] theorem State.setAg_barriers (s : State) (a : AgentId) (v : AgMem) : (s.setAg a v).barriers = s.barriers := rfl
@[simp] theorem State.setAg_links (s : State) (a : AgentId) (v : AgMem) : (s.setAg a v).links = s.links := rfl
@[simp] theorem State.setAg_handles (s : State) (a : AgentId) (v : AgMem) : (s.setAg a v).handles = s.handles := rfl
@[simp] theorem State.setAg_queues (s : State) (a : AgentId) (v : AgMem) : (s.setAg a v).queues = s.queues := rfl
@[simp] theorem State.setAg_fe (s : State) (a : AgentId) (v : AgMem) : (s.setAg a v).fe = s.fe := rfl
@[simp] theorem State.setAg_windows (s : State) (a : AgentId) (v : AgMem) : (s.setAg a v).windows = s.windows := rfl
@[simp] theorem State.setAg_asids (s : State) (a : AgentId) (v : AgMem) : (s.setAg a v).asids = s.asids := rfl
@[simp] theorem State.setAg_qps (s : State) (a : AgentId) (v : AgMem) : (s.setAg a v).qps = s.qps := rfl
@[simp] theorem State.setAg_mod (s : State) (a : AgentId) (v : AgMem) : (s.setAg a v).mod = s.mod := rfl

/-! ### setLink -/

@[simp] theorem State.setLink_cycle (s : State) (k : Nat) (l : Link) : (s.setLink k l).cycle = s.cycle := rfl
@[simp] theorem State.setLink_agenda (s : State) (k : Nat) (l : Link) : (s.setLink k l).agenda = s.agenda := rfl
@[simp] theorem State.setLink_inputs (s : State) (k : Nat) (l : Link) : (s.setLink k l).inputs = s.inputs := rfl
@[simp] theorem State.setLink_side (s : State) (k : Nat) (l : Link) : (s.setLink k l).side = s.side := rfl
@[simp] theorem State.setLink_cur (s : State) (k : Nat) (l : Link) : (s.setLink k l).cur = s.cur := rfl
@[simp] theorem State.setLink_free (s : State) (k : Nat) (l : Link) : (s.setLink k l).free = s.free := rfl
@[simp] theorem State.setLink_outbox (s : State) (k : Nat) (l : Link) : (s.setLink k l).outbox = s.outbox := rfl
@[simp] theorem State.setLink_mem (s : State) (k : Nat) (l : Link) : (s.setLink k l).mem = s.mem := rfl
@[simp] theorem State.setLink_tiles (s : State) (k : Nat) (l : Link) : (s.setLink k l).tiles = s.tiles := rfl
@[simp] theorem State.setLink_collars (s : State) (k : Nat) (l : Link) : (s.setLink k l).collars = s.collars := rfl
@[simp] theorem State.setLink_xus (s : State) (k : Nat) (l : Link) : (s.setLink k l).xus = s.xus := rfl
@[simp] theorem State.setLink_walkers (s : State) (k : Nat) (l : Link) : (s.setLink k l).walkers = s.walkers := rfl
@[simp] theorem State.setLink_engines (s : State) (k : Nat) (l : Link) : (s.setLink k l).engines = s.engines := rfl
@[simp] theorem State.setLink_tasks (s : State) (k : Nat) (l : Link) : (s.setLink k l).tasks = s.tasks := rfl
@[simp] theorem State.setLink_barriers (s : State) (k : Nat) (l : Link) : (s.setLink k l).barriers = s.barriers := rfl
@[simp] theorem State.setLink_links (s : State) (k : Nat) (l : Link) : (s.setLink k l).links = tput s.links k l := rfl
@[simp] theorem State.setLink_handles (s : State) (k : Nat) (l : Link) : (s.setLink k l).handles = s.handles := rfl
@[simp] theorem State.setLink_queues (s : State) (k : Nat) (l : Link) : (s.setLink k l).queues = s.queues := rfl
@[simp] theorem State.setLink_fe (s : State) (k : Nat) (l : Link) : (s.setLink k l).fe = s.fe := rfl
@[simp] theorem State.setLink_windows (s : State) (k : Nat) (l : Link) : (s.setLink k l).windows = s.windows := rfl
@[simp] theorem State.setLink_asids (s : State) (k : Nat) (l : Link) : (s.setLink k l).asids = s.asids := rfl
@[simp] theorem State.setLink_qps (s : State) (k : Nat) (l : Link) : (s.setLink k l).qps = s.qps := rfl
@[simp] theorem State.setLink_mod (s : State) (k : Nat) (l : Link) : (s.setLink k l).mod = s.mod := rfl

/-! ### setQueue -/

@[simp] theorem State.setQueue_cycle (s : State) (q : Nat) (x : Queue) : (s.setQueue q x).cycle = s.cycle := rfl
@[simp] theorem State.setQueue_agenda (s : State) (q : Nat) (x : Queue) : (s.setQueue q x).agenda = s.agenda := rfl
@[simp] theorem State.setQueue_inputs (s : State) (q : Nat) (x : Queue) : (s.setQueue q x).inputs = s.inputs := rfl
@[simp] theorem State.setQueue_side (s : State) (q : Nat) (x : Queue) : (s.setQueue q x).side = s.side := rfl
@[simp] theorem State.setQueue_cur (s : State) (q : Nat) (x : Queue) : (s.setQueue q x).cur = s.cur := rfl
@[simp] theorem State.setQueue_free (s : State) (q : Nat) (x : Queue) : (s.setQueue q x).free = s.free := rfl
@[simp] theorem State.setQueue_outbox (s : State) (q : Nat) (x : Queue) : (s.setQueue q x).outbox = s.outbox := rfl
@[simp] theorem State.setQueue_mem (s : State) (q : Nat) (x : Queue) : (s.setQueue q x).mem = s.mem := rfl
@[simp] theorem State.setQueue_tiles (s : State) (q : Nat) (x : Queue) : (s.setQueue q x).tiles = s.tiles := rfl
@[simp] theorem State.setQueue_collars (s : State) (q : Nat) (x : Queue) : (s.setQueue q x).collars = s.collars := rfl
@[simp] theorem State.setQueue_xus (s : State) (q : Nat) (x : Queue) : (s.setQueue q x).xus = s.xus := rfl
@[simp] theorem State.setQueue_walkers (s : State) (q : Nat) (x : Queue) : (s.setQueue q x).walkers = s.walkers := rfl
@[simp] theorem State.setQueue_engines (s : State) (q : Nat) (x : Queue) : (s.setQueue q x).engines = s.engines := rfl
@[simp] theorem State.setQueue_tasks (s : State) (q : Nat) (x : Queue) : (s.setQueue q x).tasks = s.tasks := rfl
@[simp] theorem State.setQueue_barriers (s : State) (q : Nat) (x : Queue) : (s.setQueue q x).barriers = s.barriers := rfl
@[simp] theorem State.setQueue_links (s : State) (q : Nat) (x : Queue) : (s.setQueue q x).links = s.links := rfl
@[simp] theorem State.setQueue_handles (s : State) (q : Nat) (x : Queue) : (s.setQueue q x).handles = s.handles := rfl
@[simp] theorem State.setQueue_queues (s : State) (q : Nat) (x : Queue) : (s.setQueue q x).queues = tput s.queues q x := rfl
@[simp] theorem State.setQueue_fe (s : State) (q : Nat) (x : Queue) : (s.setQueue q x).fe = s.fe := rfl
@[simp] theorem State.setQueue_windows (s : State) (q : Nat) (x : Queue) : (s.setQueue q x).windows = s.windows := rfl
@[simp] theorem State.setQueue_asids (s : State) (q : Nat) (x : Queue) : (s.setQueue q x).asids = s.asids := rfl
@[simp] theorem State.setQueue_qps (s : State) (q : Nat) (x : Queue) : (s.setQueue q x).qps = s.qps := rfl
@[simp] theorem State.setQueue_mod (s : State) (q : Nat) (x : Queue) : (s.setQueue q x).mod = s.mod := rfl

/-! ### setQp -/

@[simp] theorem State.setQp_cycle (s : State) (n : Nat) (x : Qp) : (s.setQp n x).cycle = s.cycle := rfl
@[simp] theorem State.setQp_agenda (s : State) (n : Nat) (x : Qp) : (s.setQp n x).agenda = s.agenda := rfl
@[simp] theorem State.setQp_inputs (s : State) (n : Nat) (x : Qp) : (s.setQp n x).inputs = s.inputs := rfl
@[simp] theorem State.setQp_side (s : State) (n : Nat) (x : Qp) : (s.setQp n x).side = s.side := rfl
@[simp] theorem State.setQp_cur (s : State) (n : Nat) (x : Qp) : (s.setQp n x).cur = s.cur := rfl
@[simp] theorem State.setQp_free (s : State) (n : Nat) (x : Qp) : (s.setQp n x).free = s.free := rfl
@[simp] theorem State.setQp_outbox (s : State) (n : Nat) (x : Qp) : (s.setQp n x).outbox = s.outbox := rfl
@[simp] theorem State.setQp_mem (s : State) (n : Nat) (x : Qp) : (s.setQp n x).mem = s.mem := rfl
@[simp] theorem State.setQp_tiles (s : State) (n : Nat) (x : Qp) : (s.setQp n x).tiles = s.tiles := rfl
@[simp] theorem State.setQp_collars (s : State) (n : Nat) (x : Qp) : (s.setQp n x).collars = s.collars := rfl
@[simp] theorem State.setQp_xus (s : State) (n : Nat) (x : Qp) : (s.setQp n x).xus = s.xus := rfl
@[simp] theorem State.setQp_walkers (s : State) (n : Nat) (x : Qp) : (s.setQp n x).walkers = s.walkers := rfl
@[simp] theorem State.setQp_engines (s : State) (n : Nat) (x : Qp) : (s.setQp n x).engines = s.engines := rfl
@[simp] theorem State.setQp_tasks (s : State) (n : Nat) (x : Qp) : (s.setQp n x).tasks = s.tasks := rfl
@[simp] theorem State.setQp_barriers (s : State) (n : Nat) (x : Qp) : (s.setQp n x).barriers = s.barriers := rfl
@[simp] theorem State.setQp_links (s : State) (n : Nat) (x : Qp) : (s.setQp n x).links = s.links := rfl
@[simp] theorem State.setQp_handles (s : State) (n : Nat) (x : Qp) : (s.setQp n x).handles = s.handles := rfl
@[simp] theorem State.setQp_queues (s : State) (n : Nat) (x : Qp) : (s.setQp n x).queues = s.queues := rfl
@[simp] theorem State.setQp_fe (s : State) (n : Nat) (x : Qp) : (s.setQp n x).fe = s.fe := rfl
@[simp] theorem State.setQp_windows (s : State) (n : Nat) (x : Qp) : (s.setQp n x).windows = s.windows := rfl
@[simp] theorem State.setQp_asids (s : State) (n : Nat) (x : Qp) : (s.setQp n x).asids = s.asids := rfl
@[simp] theorem State.setQp_qps (s : State) (n : Nat) (x : Qp) : (s.setQp n x).qps = tput s.qps n x := rfl
@[simp] theorem State.setQp_mod (s : State) (n : Nat) (x : Qp) : (s.setQp n x).mod = s.mod := rfl

/-! ### setFslot -/

@[simp] theorem State.setFslot_cycle (s : State) (n : Nat) (x : FeSlot) : (s.setFslot n x).cycle = s.cycle := rfl
@[simp] theorem State.setFslot_agenda (s : State) (n : Nat) (x : FeSlot) : (s.setFslot n x).agenda = s.agenda := rfl
@[simp] theorem State.setFslot_inputs (s : State) (n : Nat) (x : FeSlot) : (s.setFslot n x).inputs = s.inputs := rfl
@[simp] theorem State.setFslot_side (s : State) (n : Nat) (x : FeSlot) : (s.setFslot n x).side = s.side := rfl
@[simp] theorem State.setFslot_cur (s : State) (n : Nat) (x : FeSlot) : (s.setFslot n x).cur = s.cur := rfl
@[simp] theorem State.setFslot_free (s : State) (n : Nat) (x : FeSlot) : (s.setFslot n x).free = s.free := rfl
@[simp] theorem State.setFslot_outbox (s : State) (n : Nat) (x : FeSlot) : (s.setFslot n x).outbox = s.outbox := rfl
@[simp] theorem State.setFslot_mem (s : State) (n : Nat) (x : FeSlot) : (s.setFslot n x).mem = s.mem := rfl
@[simp] theorem State.setFslot_tiles (s : State) (n : Nat) (x : FeSlot) : (s.setFslot n x).tiles = s.tiles := rfl
@[simp] theorem State.setFslot_collars (s : State) (n : Nat) (x : FeSlot) : (s.setFslot n x).collars = s.collars := rfl
@[simp] theorem State.setFslot_xus (s : State) (n : Nat) (x : FeSlot) : (s.setFslot n x).xus = s.xus := rfl
@[simp] theorem State.setFslot_walkers (s : State) (n : Nat) (x : FeSlot) : (s.setFslot n x).walkers = s.walkers := rfl
@[simp] theorem State.setFslot_engines (s : State) (n : Nat) (x : FeSlot) : (s.setFslot n x).engines = s.engines := rfl
@[simp] theorem State.setFslot_tasks (s : State) (n : Nat) (x : FeSlot) : (s.setFslot n x).tasks = s.tasks := rfl
@[simp] theorem State.setFslot_barriers (s : State) (n : Nat) (x : FeSlot) : (s.setFslot n x).barriers = s.barriers := rfl
@[simp] theorem State.setFslot_links (s : State) (n : Nat) (x : FeSlot) : (s.setFslot n x).links = s.links := rfl
@[simp] theorem State.setFslot_handles (s : State) (n : Nat) (x : FeSlot) : (s.setFslot n x).handles = s.handles := rfl
@[simp] theorem State.setFslot_queues (s : State) (n : Nat) (x : FeSlot) : (s.setFslot n x).queues = s.queues := rfl
@[simp] theorem State.setFslot_windows (s : State) (n : Nat) (x : FeSlot) : (s.setFslot n x).windows = s.windows := rfl
@[simp] theorem State.setFslot_asids (s : State) (n : Nat) (x : FeSlot) : (s.setFslot n x).asids = s.asids := rfl
@[simp] theorem State.setFslot_qps (s : State) (n : Nat) (x : FeSlot) : (s.setFslot n x).qps = s.qps := rfl
@[simp] theorem State.setFslot_mod (s : State) (n : Nat) (x : FeSlot) : (s.setFslot n x).mod = s.mod := rfl

/-! ### setIss -/

@[simp] theorem State.setIss_cycle (s : State) (i : Iss) : (s.setIss i).cycle = s.cycle := rfl
@[simp] theorem State.setIss_agenda (s : State) (i : Iss) : (s.setIss i).agenda = s.agenda := rfl
@[simp] theorem State.setIss_inputs (s : State) (i : Iss) : (s.setIss i).inputs = s.inputs := rfl
@[simp] theorem State.setIss_side (s : State) (i : Iss) : (s.setIss i).side = s.side := rfl
@[simp] theorem State.setIss_cur (s : State) (i : Iss) : (s.setIss i).cur = { s.cur with iss := i } := rfl
@[simp] theorem State.setIss_free (s : State) (i : Iss) : (s.setIss i).free = s.free := rfl
@[simp] theorem State.setIss_outbox (s : State) (i : Iss) : (s.setIss i).outbox = s.outbox := rfl
@[simp] theorem State.setIss_mem (s : State) (i : Iss) : (s.setIss i).mem = s.mem := rfl
@[simp] theorem State.setIss_tiles (s : State) (i : Iss) : (s.setIss i).tiles = s.tiles := rfl
@[simp] theorem State.setIss_collars (s : State) (i : Iss) : (s.setIss i).collars = s.collars := rfl
@[simp] theorem State.setIss_xus (s : State) (i : Iss) : (s.setIss i).xus = s.xus := rfl
@[simp] theorem State.setIss_walkers (s : State) (i : Iss) : (s.setIss i).walkers = s.walkers := rfl
@[simp] theorem State.setIss_engines (s : State) (i : Iss) : (s.setIss i).engines = s.engines := rfl
@[simp] theorem State.setIss_tasks (s : State) (i : Iss) : (s.setIss i).tasks = s.tasks := rfl
@[simp] theorem State.setIss_barriers (s : State) (i : Iss) : (s.setIss i).barriers = s.barriers := rfl
@[simp] theorem State.setIss_links (s : State) (i : Iss) : (s.setIss i).links = s.links := rfl
@[simp] theorem State.setIss_handles (s : State) (i : Iss) : (s.setIss i).handles = s.handles := rfl
@[simp] theorem State.setIss_queues (s : State) (i : Iss) : (s.setIss i).queues = s.queues := rfl
@[simp] theorem State.setIss_fe (s : State) (i : Iss) : (s.setIss i).fe = s.fe := rfl
@[simp] theorem State.setIss_windows (s : State) (i : Iss) : (s.setIss i).windows = s.windows := rfl
@[simp] theorem State.setIss_asids (s : State) (i : Iss) : (s.setIss i).asids = s.asids := rfl
@[simp] theorem State.setIss_qps (s : State) (i : Iss) : (s.setIss i).qps = s.qps := rfl
@[simp] theorem State.setIss_mod (s : State) (i : Iss) : (s.setIss i).mod = s.mod := rfl

/-! ### setCtx -/

@[simp] theorem State.setCtx_cycle (s : State) (c : Ctx) : (s.setCtx c).cycle = s.cycle := rfl
@[simp] theorem State.setCtx_agenda (s : State) (c : Ctx) : (s.setCtx c).agenda = s.agenda := rfl
@[simp] theorem State.setCtx_inputs (s : State) (c : Ctx) : (s.setCtx c).inputs = s.inputs := rfl
@[simp] theorem State.setCtx_side (s : State) (c : Ctx) : (s.setCtx c).side = s.side := rfl
@[simp] theorem State.setCtx_cur (s : State) (c : Ctx) : (s.setCtx c).cur = s.cur := rfl
@[simp] theorem State.setCtx_free (s : State) (c : Ctx) : (s.setCtx c).free = s.free := rfl
@[simp] theorem State.setCtx_outbox (s : State) (c : Ctx) : (s.setCtx c).outbox = s.outbox := rfl
@[simp] theorem State.setCtx_mem (s : State) (c : Ctx) : (s.setCtx c).mem = s.mem := rfl
@[simp] theorem State.setCtx_collars (s : State) (c : Ctx) : (s.setCtx c).collars = s.collars := rfl
@[simp] theorem State.setCtx_xus (s : State) (c : Ctx) : (s.setCtx c).xus = s.xus := rfl
@[simp] theorem State.setCtx_walkers (s : State) (c : Ctx) : (s.setCtx c).walkers = s.walkers := rfl
@[simp] theorem State.setCtx_engines (s : State) (c : Ctx) : (s.setCtx c).engines = s.engines := rfl
@[simp] theorem State.setCtx_tasks (s : State) (c : Ctx) : (s.setCtx c).tasks = s.tasks := rfl
@[simp] theorem State.setCtx_barriers (s : State) (c : Ctx) : (s.setCtx c).barriers = s.barriers := rfl
@[simp] theorem State.setCtx_links (s : State) (c : Ctx) : (s.setCtx c).links = s.links := rfl
@[simp] theorem State.setCtx_handles (s : State) (c : Ctx) : (s.setCtx c).handles = s.handles := rfl
@[simp] theorem State.setCtx_queues (s : State) (c : Ctx) : (s.setCtx c).queues = s.queues := rfl
@[simp] theorem State.setCtx_fe (s : State) (c : Ctx) : (s.setCtx c).fe = s.fe := rfl
@[simp] theorem State.setCtx_windows (s : State) (c : Ctx) : (s.setCtx c).windows = s.windows := rfl
@[simp] theorem State.setCtx_asids (s : State) (c : Ctx) : (s.setCtx c).asids = s.asids := rfl
@[simp] theorem State.setCtx_qps (s : State) (c : Ctx) : (s.setCtx c).qps = s.qps := rfl
@[simp] theorem State.setCtx_mod (s : State) (c : Ctx) : (s.setCtx c).mod = s.mod := rfl

/-! ### setArr -/

@[simp] theorem State.setArr_cycle (s : State) (t : Nat) (a : Array) : (s.setArr t a).cycle = s.cycle := rfl
@[simp] theorem State.setArr_agenda (s : State) (t : Nat) (a : Array) : (s.setArr t a).agenda = s.agenda := rfl
@[simp] theorem State.setArr_inputs (s : State) (t : Nat) (a : Array) : (s.setArr t a).inputs = s.inputs := rfl
@[simp] theorem State.setArr_side (s : State) (t : Nat) (a : Array) : (s.setArr t a).side = s.side := rfl
@[simp] theorem State.setArr_cur (s : State) (t : Nat) (a : Array) : (s.setArr t a).cur = s.cur := rfl
@[simp] theorem State.setArr_free (s : State) (t : Nat) (a : Array) : (s.setArr t a).free = s.free := rfl
@[simp] theorem State.setArr_outbox (s : State) (t : Nat) (a : Array) : (s.setArr t a).outbox = s.outbox := rfl
@[simp] theorem State.setArr_mem (s : State) (t : Nat) (a : Array) : (s.setArr t a).mem = s.mem := rfl
@[simp] theorem State.setArr_collars (s : State) (t : Nat) (a : Array) : (s.setArr t a).collars = s.collars := rfl
@[simp] theorem State.setArr_xus (s : State) (t : Nat) (a : Array) : (s.setArr t a).xus = s.xus := rfl
@[simp] theorem State.setArr_walkers (s : State) (t : Nat) (a : Array) : (s.setArr t a).walkers = s.walkers := rfl
@[simp] theorem State.setArr_engines (s : State) (t : Nat) (a : Array) : (s.setArr t a).engines = s.engines := rfl
@[simp] theorem State.setArr_tasks (s : State) (t : Nat) (a : Array) : (s.setArr t a).tasks = s.tasks := rfl
@[simp] theorem State.setArr_barriers (s : State) (t : Nat) (a : Array) : (s.setArr t a).barriers = s.barriers := rfl
@[simp] theorem State.setArr_links (s : State) (t : Nat) (a : Array) : (s.setArr t a).links = s.links := rfl
@[simp] theorem State.setArr_handles (s : State) (t : Nat) (a : Array) : (s.setArr t a).handles = s.handles := rfl
@[simp] theorem State.setArr_queues (s : State) (t : Nat) (a : Array) : (s.setArr t a).queues = s.queues := rfl
@[simp] theorem State.setArr_fe (s : State) (t : Nat) (a : Array) : (s.setArr t a).fe = s.fe := rfl
@[simp] theorem State.setArr_windows (s : State) (t : Nat) (a : Array) : (s.setArr t a).windows = s.windows := rfl
@[simp] theorem State.setArr_asids (s : State) (t : Nat) (a : Array) : (s.setArr t a).asids = s.asids := rfl
@[simp] theorem State.setArr_qps (s : State) (t : Nat) (a : Array) : (s.setArr t a).qps = s.qps := rfl
@[simp] theorem State.setArr_mod (s : State) (t : Nat) (a : Array) : (s.setArr t a).mod = s.mod := rfl

/-! ### setElem -/

@[simp] theorem State.setElem_cycle (s : State) (u e : Nat) (x : Elem) : (s.setElem u e x).cycle = s.cycle := rfl
@[simp] theorem State.setElem_agenda (s : State) (u e : Nat) (x : Elem) : (s.setElem u e x).agenda = s.agenda := rfl
@[simp] theorem State.setElem_inputs (s : State) (u e : Nat) (x : Elem) : (s.setElem u e x).inputs = s.inputs := rfl
@[simp] theorem State.setElem_side (s : State) (u e : Nat) (x : Elem) : (s.setElem u e x).side = s.side := rfl
@[simp] theorem State.setElem_cur (s : State) (u e : Nat) (x : Elem) : (s.setElem u e x).cur = s.cur := rfl
@[simp] theorem State.setElem_free (s : State) (u e : Nat) (x : Elem) : (s.setElem u e x).free = s.free := rfl
@[simp] theorem State.setElem_outbox (s : State) (u e : Nat) (x : Elem) : (s.setElem u e x).outbox = s.outbox := rfl
@[simp] theorem State.setElem_mem (s : State) (u e : Nat) (x : Elem) : (s.setElem u e x).mem = s.mem := rfl
@[simp] theorem State.setElem_tiles (s : State) (u e : Nat) (x : Elem) : (s.setElem u e x).tiles = s.tiles := rfl
@[simp] theorem State.setElem_xus (s : State) (u e : Nat) (x : Elem) : (s.setElem u e x).xus = s.xus := rfl
@[simp] theorem State.setElem_walkers (s : State) (u e : Nat) (x : Elem) : (s.setElem u e x).walkers = s.walkers := rfl
@[simp] theorem State.setElem_engines (s : State) (u e : Nat) (x : Elem) : (s.setElem u e x).engines = s.engines := rfl
@[simp] theorem State.setElem_tasks (s : State) (u e : Nat) (x : Elem) : (s.setElem u e x).tasks = s.tasks := rfl
@[simp] theorem State.setElem_barriers (s : State) (u e : Nat) (x : Elem) : (s.setElem u e x).barriers = s.barriers := rfl
@[simp] theorem State.setElem_links (s : State) (u e : Nat) (x : Elem) : (s.setElem u e x).links = s.links := rfl
@[simp] theorem State.setElem_handles (s : State) (u e : Nat) (x : Elem) : (s.setElem u e x).handles = s.handles := rfl
@[simp] theorem State.setElem_queues (s : State) (u e : Nat) (x : Elem) : (s.setElem u e x).queues = s.queues := rfl
@[simp] theorem State.setElem_fe (s : State) (u e : Nat) (x : Elem) : (s.setElem u e x).fe = s.fe := rfl
@[simp] theorem State.setElem_windows (s : State) (u e : Nat) (x : Elem) : (s.setElem u e x).windows = s.windows := rfl
@[simp] theorem State.setElem_asids (s : State) (u e : Nat) (x : Elem) : (s.setElem u e x).asids = s.asids := rfl
@[simp] theorem State.setElem_qps (s : State) (u e : Nat) (x : Elem) : (s.setElem u e x).qps = s.qps := rfl
@[simp] theorem State.setElem_mod (s : State) (u e : Nat) (x : Elem) : (s.setElem u e x).mod = s.mod := rfl

/-! ### setPlane -/

@[simp] theorem State.setPlane_cycle (s : State) (u e p : Nat) (y : Plane) : (s.setPlane u e p y).cycle = s.cycle := rfl
@[simp] theorem State.setPlane_agenda (s : State) (u e p : Nat) (y : Plane) : (s.setPlane u e p y).agenda = s.agenda := rfl
@[simp] theorem State.setPlane_inputs (s : State) (u e p : Nat) (y : Plane) : (s.setPlane u e p y).inputs = s.inputs := rfl
@[simp] theorem State.setPlane_side (s : State) (u e p : Nat) (y : Plane) : (s.setPlane u e p y).side = s.side := rfl
@[simp] theorem State.setPlane_cur (s : State) (u e p : Nat) (y : Plane) : (s.setPlane u e p y).cur = s.cur := rfl
@[simp] theorem State.setPlane_free (s : State) (u e p : Nat) (y : Plane) : (s.setPlane u e p y).free = s.free := rfl
@[simp] theorem State.setPlane_outbox (s : State) (u e p : Nat) (y : Plane) : (s.setPlane u e p y).outbox = s.outbox := rfl
@[simp] theorem State.setPlane_mem (s : State) (u e p : Nat) (y : Plane) : (s.setPlane u e p y).mem = s.mem := rfl
@[simp] theorem State.setPlane_tiles (s : State) (u e p : Nat) (y : Plane) : (s.setPlane u e p y).tiles = s.tiles := rfl
@[simp] theorem State.setPlane_xus (s : State) (u e p : Nat) (y : Plane) : (s.setPlane u e p y).xus = s.xus := rfl
@[simp] theorem State.setPlane_walkers (s : State) (u e p : Nat) (y : Plane) : (s.setPlane u e p y).walkers = s.walkers := rfl
@[simp] theorem State.setPlane_engines (s : State) (u e p : Nat) (y : Plane) : (s.setPlane u e p y).engines = s.engines := rfl
@[simp] theorem State.setPlane_tasks (s : State) (u e p : Nat) (y : Plane) : (s.setPlane u e p y).tasks = s.tasks := rfl
@[simp] theorem State.setPlane_barriers (s : State) (u e p : Nat) (y : Plane) : (s.setPlane u e p y).barriers = s.barriers := rfl
@[simp] theorem State.setPlane_links (s : State) (u e p : Nat) (y : Plane) : (s.setPlane u e p y).links = s.links := rfl
@[simp] theorem State.setPlane_handles (s : State) (u e p : Nat) (y : Plane) : (s.setPlane u e p y).handles = s.handles := rfl
@[simp] theorem State.setPlane_queues (s : State) (u e p : Nat) (y : Plane) : (s.setPlane u e p y).queues = s.queues := rfl
@[simp] theorem State.setPlane_fe (s : State) (u e p : Nat) (y : Plane) : (s.setPlane u e p y).fe = s.fe := rfl
@[simp] theorem State.setPlane_windows (s : State) (u e p : Nat) (y : Plane) : (s.setPlane u e p y).windows = s.windows := rfl
@[simp] theorem State.setPlane_asids (s : State) (u e p : Nat) (y : Plane) : (s.setPlane u e p y).asids = s.asids := rfl
@[simp] theorem State.setPlane_qps (s : State) (u e p : Nat) (y : Plane) : (s.setPlane u e p y).qps = s.qps := rfl
@[simp] theorem State.setPlane_mod (s : State) (u e p : Nat) (y : Plane) : (s.setPlane u e p y).mod = s.mod := rfl

/-! ### addFloor -/

@[simp] theorem State.addFloor_cycle (s : State) (a : AgentId) (ws : List WId) : (s.addFloor a ws).cycle = s.cycle := by
  unfold State.addFloor; split <;> rfl
@[simp] theorem State.addFloor_agenda (s : State) (a : AgentId) (ws : List WId) : (s.addFloor a ws).agenda = s.agenda := by
  unfold State.addFloor; split <;> rfl
@[simp] theorem State.addFloor_inputs (s : State) (a : AgentId) (ws : List WId) : (s.addFloor a ws).inputs = s.inputs := by
  unfold State.addFloor; split <;> rfl
@[simp] theorem State.addFloor_side (s : State) (a : AgentId) (ws : List WId) : (s.addFloor a ws).side = s.side := by
  unfold State.addFloor; split <;> rfl
@[simp] theorem State.addFloor_cur (s : State) (a : AgentId) (ws : List WId) : (s.addFloor a ws).cur = s.cur := by
  unfold State.addFloor; split <;> rfl
@[simp] theorem State.addFloor_free (s : State) (a : AgentId) (ws : List WId) : (s.addFloor a ws).free = s.free := by
  unfold State.addFloor; split <;> rfl
@[simp] theorem State.addFloor_outbox (s : State) (a : AgentId) (ws : List WId) : (s.addFloor a ws).outbox = s.outbox := by
  unfold State.addFloor; split <;> rfl
@[simp] theorem State.addFloor_tiles (s : State) (a : AgentId) (ws : List WId) : (s.addFloor a ws).tiles = s.tiles := by
  unfold State.addFloor; split <;> rfl
@[simp] theorem State.addFloor_collars (s : State) (a : AgentId) (ws : List WId) : (s.addFloor a ws).collars = s.collars := by
  unfold State.addFloor; split <;> rfl
@[simp] theorem State.addFloor_xus (s : State) (a : AgentId) (ws : List WId) : (s.addFloor a ws).xus = s.xus := by
  unfold State.addFloor; split <;> rfl
@[simp] theorem State.addFloor_walkers (s : State) (a : AgentId) (ws : List WId) : (s.addFloor a ws).walkers = s.walkers := by
  unfold State.addFloor; split <;> rfl
@[simp] theorem State.addFloor_engines (s : State) (a : AgentId) (ws : List WId) : (s.addFloor a ws).engines = s.engines := by
  unfold State.addFloor; split <;> rfl
@[simp] theorem State.addFloor_tasks (s : State) (a : AgentId) (ws : List WId) : (s.addFloor a ws).tasks = s.tasks := by
  unfold State.addFloor; split <;> rfl
@[simp] theorem State.addFloor_barriers (s : State) (a : AgentId) (ws : List WId) : (s.addFloor a ws).barriers = s.barriers := by
  unfold State.addFloor; split <;> rfl
@[simp] theorem State.addFloor_links (s : State) (a : AgentId) (ws : List WId) : (s.addFloor a ws).links = s.links := by
  unfold State.addFloor; split <;> rfl
@[simp] theorem State.addFloor_handles (s : State) (a : AgentId) (ws : List WId) : (s.addFloor a ws).handles = s.handles := by
  unfold State.addFloor; split <;> rfl
@[simp] theorem State.addFloor_queues (s : State) (a : AgentId) (ws : List WId) : (s.addFloor a ws).queues = s.queues := by
  unfold State.addFloor; split <;> rfl
@[simp] theorem State.addFloor_fe (s : State) (a : AgentId) (ws : List WId) : (s.addFloor a ws).fe = s.fe := by
  unfold State.addFloor; split <;> rfl
@[simp] theorem State.addFloor_windows (s : State) (a : AgentId) (ws : List WId) : (s.addFloor a ws).windows = s.windows := by
  unfold State.addFloor; split <;> rfl
@[simp] theorem State.addFloor_asids (s : State) (a : AgentId) (ws : List WId) : (s.addFloor a ws).asids = s.asids := by
  unfold State.addFloor; split <;> rfl
@[simp] theorem State.addFloor_qps (s : State) (a : AgentId) (ws : List WId) : (s.addFloor a ws).qps = s.qps := by
  unfold State.addFloor; split <;> rfl
@[simp] theorem State.addFloor_mod (s : State) (a : AgentId) (ws : List WId) : (s.addFloor a ws).mod = s.mod := by
  unfold State.addFloor; split <;> rfl

/-! ### setToken -/

@[simp] theorem State.setToken_cycle (s : State) (n k : Nat) (t : Token) : (s.setToken n k t).cycle = s.cycle := rfl
@[simp] theorem State.setToken_agenda (s : State) (n k : Nat) (t : Token) : (s.setToken n k t).agenda = s.agenda := rfl
@[simp] theorem State.setToken_inputs (s : State) (n k : Nat) (t : Token) : (s.setToken n k t).inputs = s.inputs := rfl
@[simp] theorem State.setToken_side (s : State) (n k : Nat) (t : Token) : (s.setToken n k t).side = s.side := rfl
@[simp] theorem State.setToken_cur (s : State) (n k : Nat) (t : Token) : (s.setToken n k t).cur = s.cur := rfl
@[simp] theorem State.setToken_free (s : State) (n k : Nat) (t : Token) : (s.setToken n k t).free = s.free := rfl
@[simp] theorem State.setToken_outbox (s : State) (n k : Nat) (t : Token) : (s.setToken n k t).outbox = s.outbox := rfl
@[simp] theorem State.setToken_mem (s : State) (n k : Nat) (t : Token) : (s.setToken n k t).mem = s.mem := rfl
@[simp] theorem State.setToken_tiles (s : State) (n k : Nat) (t : Token) : (s.setToken n k t).tiles = s.tiles := rfl
@[simp] theorem State.setToken_collars (s : State) (n k : Nat) (t : Token) : (s.setToken n k t).collars = s.collars := rfl
@[simp] theorem State.setToken_xus (s : State) (n k : Nat) (t : Token) : (s.setToken n k t).xus = s.xus := rfl
@[simp] theorem State.setToken_walkers (s : State) (n k : Nat) (t : Token) : (s.setToken n k t).walkers = s.walkers := rfl
@[simp] theorem State.setToken_engines (s : State) (n k : Nat) (t : Token) : (s.setToken n k t).engines = s.engines := rfl
@[simp] theorem State.setToken_barriers (s : State) (n k : Nat) (t : Token) : (s.setToken n k t).barriers = s.barriers := rfl
@[simp] theorem State.setToken_links (s : State) (n k : Nat) (t : Token) : (s.setToken n k t).links = s.links := rfl
@[simp] theorem State.setToken_handles (s : State) (n k : Nat) (t : Token) : (s.setToken n k t).handles = s.handles := rfl
@[simp] theorem State.setToken_queues (s : State) (n k : Nat) (t : Token) : (s.setToken n k t).queues = s.queues := rfl
@[simp] theorem State.setToken_fe (s : State) (n k : Nat) (t : Token) : (s.setToken n k t).fe = s.fe := rfl
@[simp] theorem State.setToken_windows (s : State) (n k : Nat) (t : Token) : (s.setToken n k t).windows = s.windows := rfl
@[simp] theorem State.setToken_asids (s : State) (n k : Nat) (t : Token) : (s.setToken n k t).asids = s.asids := rfl
@[simp] theorem State.setToken_qps (s : State) (n k : Nat) (t : Token) : (s.setToken n k t).qps = s.qps := rfl
@[simp] theorem State.setToken_mod (s : State) (n k : Nat) (t : Token) : (s.setToken n k t).mod = s.mod := rfl

/-! ### Reading back what an update wrote -/

@[simp] theorem State.tile_setTile (s : State) (t : Nat) (x : Tile) : (s.setTile t x).tile t = x := by
  simp [State.tile]
theorem State.tile_setTile_ne (s : State) (t u : Nat) (x : Tile) (h : u ≠ t) :
    (s.setTile t x).tile u = s.tile u := by
  simp [State.tile, tget_tput_ne _ _ _ _ _ h]
@[simp] theorem State.collar_setCollar (s : State) (u : Nat) (c : Collar) : (s.setCollar u c).collar u = c := by
  simp [State.collar]
theorem State.collar_setCollar_ne (s : State) (u v : Nat) (c : Collar) (h : v ≠ u) :
    (s.setCollar u c).collar v = s.collar v := by
  simp [State.collar, tget_tput_ne _ _ _ _ _ h]
@[simp] theorem State.task_setTask (s : State) (n : Nat) (k : Task) : (s.setTask n k).task n = k := by
  simp [State.task]
theorem State.task_setTask_ne (s : State) (n m : Nat) (k : Task) (h : m ≠ n) :
    (s.setTask n k).task m = s.task m := by
  simp [State.task, tget_tput_ne _ _ _ _ _ h]
@[simp] theorem State.xu_setXu (s : State) (u : Nat) (x : XUnit) : (s.setXu u x).xu u = x := by
  simp [State.xu]
@[simp] theorem State.queue_setQueue (s : State) (q : Nat) (x : Queue) : (s.setQueue q x).queue q = x := by
  simp [State.queue]
@[simp] theorem State.qp_setQp (s : State) (n : Nat) (x : Qp) : (s.setQp n x).qp n = x := by
  simp [State.qp]
@[simp] theorem State.link_setLink (s : State) (k : Nat) (l : Link) : (s.setLink k l).link k = l := by
  simp [State.link]
@[simp] theorem State.eng_setEng (s : State) (e : Eng) (x : Engine) : (s.setEng e x).eng e = x := by
  simp [State.eng, State.setEng]
@[simp] theorem State.me_setTile (s : State) (x : Tile) : (s.setTile s.cur.unit x).me = x := by
  simp [State.me]
@[simp] theorem State.ctx_setCtx (s : State) (c : Ctx) : (s.setCtx c).ctx = c := by
  unfold State.setCtx State.ctx
  by_cases h : s.cur.shadow = true <;> simp [h]
@[simp] theorem State.now_setCtx (s : State) (c : Ctx) : (s.setCtx c).now = s.now := by
  unfold State.setCtx State.now
  by_cases h : s.cur.shadow = true <;> simp [h]
/-- A tile's memory is no part of its sequencer: a context is written in its own tile alone. -/
theorem State.tile_setCtx_ne (s : State) (c : Ctx) (t : Nat) (h : t ≠ s.cur.unit) :
    (s.setCtx c).tile t = s.tile t := by
  unfold State.setCtx
  exact State.tile_setTile_ne _ _ _ _ h

end Sys2Proof.Machine
end

