-- ==== Sys2Proof/Laws/Mem.lean ====
section
/-!
SUPPORT. Laws of memory: its canonical form is kept by every operation that writes it, and a byte read after a
write is the byte written there, or the byte that was there before.
-/
namespace Sys2Proof.Machine

/-- The canonical form from an address on: addresses rise from there, and no byte is zero. -/
def okFrom : Nat → List Host.Cell → Prop
  | _, [] => True
  | lo, (a, b) :: t => lo ≤ a ∧ b ≠ 0 ∧ okFrom (a + 1) t

theorem okFrom_mono {lo hi : Nat} {c : List Host.Cell} (h : okFrom hi c) (hl : lo ≤ hi) : okFrom lo c := by
  cases c with
  | nil => trivial
  | cons p t => exact ⟨Nat.le_trans hl h.1, h.2⟩

theorem cellsOk_iff (c : List Host.Cell) : cellsOk c = true ↔ okFrom 0 c := by
  suffices h : ∀ c : List Host.Cell, cellsOk c = true ↔ ∀ p ∈ c.head?, okFrom p.1 c by
    rw [h]
    cases c with
    | nil => simp [okFrom]
    | cons p t => simp [okFrom]
  intro c
  induction c with
  | nil => simp [cellsOk]
  | cons p t ih =>
    cases t with
    | nil => simp [cellsOk, okFrom]
    | cons q u =>
      simp only [cellsOk, Bool.and_eq_true, ih]
      simp [okFrom, and_assoc] <;> omega

theorem okFrom_run {t : List Host.Cell} : ∀ (bs : List Byte) (a : Nat), okFrom (a + bs.length) t →
    okFrom a (runCells a bs ++ t)
  | [], a, h => by simpa [runCells] using h
  | b :: bs, a, h => by
    have h' : okFrom (a + 1 + bs.length) t := by
      simpa [Nat.add_assoc, Nat.add_comm, Nat.add_left_comm] using h
    have ih := okFrom_run bs (a + 1) h'
    simp only [runCells]
    split
    · exact okFrom_mono ih (by omega)
    · next hb => exact ⟨Nat.le_refl a, hb, ih⟩

theorem okFrom_cellsFrom {c : List Host.Cell} : ∀ {lo : Nat} (k : Nat), okFrom lo c → okFrom k (cellsFrom c k) := by
  induction c with
  | nil => intro lo k _; trivial
  | cons p t ih =>
    obtain ⟨x, b⟩ := p
    intro lo k h
    simp only [cellsFrom]
    split
    · exact ih k h.2.2
    · next hk => exact ⟨by omega, h.2⟩

theorem okFrom_put {c : List Host.Cell} (bs : List Byte) : ∀ {lo a : Nat}, lo ≤ a → okFrom lo c →
    okFrom lo (putBytes c a bs) := by
  induction c with
  | nil =>
    intro lo a hl _
    have := okFrom_run (t := []) bs a trivial
    simp only [List.append_nil] at this
    exact okFrom_mono this hl
  | cons p t ih =>
    obtain ⟨x, b⟩ := p
    intro lo a hl h
    simp only [putBytes]
    split
    · next hx => exact ⟨h.1, h.2.1, ih (by omega) h.2.2⟩
    · exact okFrom_mono (okFrom_run bs a (okFrom_cellsFrom _ h)) hl

/-- Writing bytes keeps the canonical form. -/
theorem cellsOk_putBytes {c : List Host.Cell} (a : Nat) (bs : List Byte) (h : cellsOk c = true) :
    cellsOk (putBytes c a bs) = true :=
  (cellsOk_iff _).2 (okFrom_put bs (Nat.zero_le a) ((cellsOk_iff _).1 h))

theorem okFrom_filter {c : List Host.Cell} (p : Host.Cell → Bool) : ∀ {lo : Nat}, okFrom lo c →
    okFrom lo (c.filter p) := by
  induction c with
  | nil => intro lo _; trivial
  | cons q t ih =>
    intro lo h
    simp only [List.filter_cons]
    split
    · exact ⟨h.1, h.2.1, ih h.2.2⟩
    · exact ih (okFrom_mono h.2.2 (Nat.le_succ_of_le h.1))

/-- Reading every listed byte out of some addresses as zero keeps the canonical form. -/
theorem cellsOk_filter {c : List Host.Cell} (p : Host.Cell → Bool) (h : cellsOk c = true) :
    cellsOk (c.filter p) = true :=
  (cellsOk_iff _).2 (okFrom_filter p ((cellsOk_iff _).1 h))

/-! ### Reading after writing -/

theorem cellGet_below {c : List Host.Cell} {lo k : Nat} (h : okFrom lo c) (hk : k < lo) : cellGet c k = 0 := by
  cases c with
  | nil => rfl
  | cons p t =>
    obtain ⟨x, b⟩ := p
    have := h.1
    have hx : x ≠ k := by omega
    have hlt : k < x := by omega
    simp [cellGet, hx, hlt]

theorem cellGet_cellsFrom {c : List Host.Cell} {k j : Nat} (h : k ≤ j) : cellGet (cellsFrom c k) j = cellGet c j := by
  induction c with
  | nil => rfl
  | cons p t ih =>
    obtain ⟨x, b⟩ := p
    simp only [cellsFrom]
    split
    · next hx =>
      have h1 : x ≠ j := by omega
      have h2 : ¬ j < x := by omega
      simp [cellGet, h1, h2, ih]
    · rfl

theorem cellGet_run {t : List Host.Cell} : ∀ (bs : List Byte) (a k : Nat), okFrom (a + bs.length) t →
    cellGet (runCells a bs ++ t) k = if k < a then 0 else if k < a + bs.length then bs.getD (k - a) 0 else cellGet t k
  | [], a, k, h => by
    simp only [runCells, List.nil_append, List.length_nil, Nat.add_zero]
    split
    · next hk => exact cellGet_below h (by simpa using hk)
    · rfl
  | b :: bs, a, k, h => by
    have h' : okFrom (a + 1 + bs.length) t := by
      simpa [Nat.add_assoc, Nat.add_comm, Nat.add_left_comm] using h
    have ih := cellGet_run bs (a + 1) k h'
    simp only [List.length_cons]
    by_cases hk : k < a
    · simp only [runCells, hk, if_true]
      split
      · rw [ih]; simp [show k < a + 1 by omega]
      · simp [cellGet, show a ≠ k by omega, hk]
    · by_cases he : k = a
      · subst he
        simp only [runCells]
        split
        · next hb => rw [ih]; simp [hb]
        · simp [cellGet]
      · have e : k - a = (k - (a + 1)) + 1 := by omega
        simp only [runCells]
        split
        · rw [ih, e]
          have hc : (k < a + 1 + bs.length) = (k < a + (bs.length + 1)) := by
            rw [Nat.add_assoc, Nat.add_comm 1]
          simp [show ¬ k < a + 1 by omega, hc]
        · rw [List.cons_append]
          simp only [cellGet, show a ≠ k by omega, hk, if_false]
          rw [ih, e]
          have hc : (k < a + 1 + bs.length) = (k < a + (bs.length + 1)) := by
            rw [Nat.add_assoc, Nat.add_comm 1]
          simp [show ¬ k < a + 1 by omega, hc]

/-- A byte read after a write: the byte written there, or the byte that was there before. -/
theorem cellGet_putBytes {c : List Host.Cell} (bs : List Byte) : ∀ {lo : Nat} (a k : Nat), okFrom lo c →
    cellGet (putBytes c a bs) k = if a ≤ k ∧ k < a + bs.length then bs.getD (k - a) 0 else cellGet c k := by
  induction c with
  | nil =>
    intro lo a k _
    have := cellGet_run (t := []) bs a k trivial
    simp only [List.append_nil] at this
    simp only [putBytes, this, cellGet]
    by_cases h1 : k < a
    · simp [h1, show ¬ a ≤ k by omega]
    · by_cases h2 : k < a + bs.length
      · simp [h1, h2, show a ≤ k by omega]
      · simp [h1, h2]
  | cons p t ih =>
    obtain ⟨x, b⟩ := p
    intro lo a k h
    simp only [putBytes]
    split
    · next hx =>
      simp only [cellGet]
      by_cases h1 : x = k
      · simp [h1, show ¬ a ≤ k by omega]
      · by_cases h2 : k < x
        · simp [h1, h2, show ¬ a ≤ k by omega]
        · simp only [h1, h2, if_false]
          exact ih a k h.2.2
    · next hx =>
      rw [cellGet_run bs a k (okFrom_cellsFrom _ h)]
      by_cases h1 : k < a
      · have : cellGet ((x, b) :: t) k = 0 := by
          simp [cellGet, show x ≠ k by omega, show k < x by omega]
        rw [this]
        simp [h1, show ¬ a ≤ k by omega]
      · by_cases h2 : k < a + bs.length
        · simp [h1, h2, show a ≤ k by omega]
        · simp only [h1, h2, if_false, and_false]
          exact cellGet_cellsFrom (by omega)

/-! ### Operations on the machine's memory -/

@[simp] theorem rawWrite_cells (s : State) (pa : Nat) (bs : List Byte) :
    (rawWrite s pa bs).mem.cells = putBytes s.mem.cells pa bs := rfl

theorem memWrite_cells (s : State) (a : AgentId) (pa : Nat) (bs : List Byte) (rels : List Rel) (atomic : Bool)
    (unit : Nat) : (memWrite s a pa bs rels atomic unit).mem.cells = putBytes s.mem.cells pa bs := by
  unfold memWrite
  split <;> rfl

/-- Bytes placed with no agent's order keep the canonical form. -/
theorem rawWrite_wf {s : State} (pa : Nat) (bs : List Byte) (h : s.mem.wf = true) :
    (rawWrite s pa bs).mem.wf = true := cellsOk_putBytes pa bs h

/-- An agent's write keeps the canonical form. -/
theorem memWrite_wf {s : State} (a : AgentId) (pa : Nat) (bs : List Byte) (rels : List Rel) (atomic : Bool)
    (unit : Nat) (h : s.mem.wf = true) : (memWrite s a pa bs rels atomic unit).mem.wf = true := by
  unfold Mem.wf
  rw [memWrite_cells]
  exact cellsOk_putBytes pa bs h

/-- What an agent's bookkeeping changes is no byte of memory. -/
@[simp] theorem setAg_cells (s : State) (a : AgentId) (v : AgMem) : (s.setAg a v).mem.cells = s.mem.cells := rfl
@[simp] theorem addFloor_cells (s : State) (a : AgentId) (ws : List WId) :
    (s.addFloor a ws).mem.cells = s.mem.cells := by
  unfold State.addFloor
  split <;> rfl

/-- A byte of memory after an agent's write: the byte written there, or the byte that was there. -/
theorem byte_memWrite {s : State} (a : AgentId) (pa : Nat) (bs : List Byte) (rels : List Rel) (atomic : Bool)
    (unit k : Nat) (h : s.mem.wf = true) :
    (memWrite s a pa bs rels atomic unit).byte k
      = if pa ≤ k ∧ k < pa + bs.length then bs.getD (k - pa) 0 else s.byte k := by
  unfold State.byte
  rw [memWrite_cells]
  exact cellGet_putBytes bs pa k ((cellsOk_iff _).1 h)

theorem reset_wf : State.reset.mem.wf = true := rfl

end Sys2Proof.Machine
end

