-- ==== Sys2Proof/Laws/Ops.lean ====
section
/-!
SUPPORT. What the shared operations of a tile's sequencer can do, said once for each: reading registers at issue,
issuing a result or an operation, ending one, reports, and taking a control-class fault.
-/
namespace Sys2Proof.Machine

/-! ### One tile -/

/-- The second of two updates under one key stands. -/
@[simp] theorem tput_tput {α : Type} (t : Tbl α) (k : Nat) (v w : α) : tput (tput t k v) k w = tput t k w := by
  induction t with
  | nil => simp [tput]
  | cons p t ih =>
    obtain ⟨k', v'⟩ := p
    simp only [tput]
    split
    · simp [tput]
    · split
      · simp [tput]
      · rename_i h1 h2
        simp [tput, h1, h2, ih]

@[simp] theorem State.setTile_setTile (s : State) (t : Nat) (x y : Tile) : (s.setTile t x).setTile t y = s.setTile t y := by
  simp [State.setTile]
@[simp] theorem State.setCollar_setCollar (s : State) (u : Nat) (c d : Collar) :
    (s.setCollar u c).setCollar u d = s.setCollar u d := by
  simp [State.setCollar]
/-- A context is written in the acting tile, and nothing else of the machine changes. -/
theorem State.setCtx_tile (s : State) (c : Ctx) : ∃ x, s.setCtx c = s.setTile s.cur.unit x ∧ x.arr = s.me.arr
    ∧ x.ord = s.me.ord ∧ x.nextOp = s.me.nextOp ∧ x.tc = s.me.tc := by
  unfold State.setCtx
  split <;> exact ⟨_, rfl, rfl, rfl, rfl, rfl⟩

/-! ### Registers (R216, R221) -/

@[simp] theorem Ctx.getS_zero (c : Ctx) : c.getS 0 = 0 := rfl
@[simp] theorem Ctx.getM_zero (c : Ctx) : c.getM 0 = BitVec.allOnes 32 := rfl
theorem Ctx.getS_put (c : Ctx) (r k v : Nat) :
    (c.put (.s r) v).getS k = if k = r ∧ r ≠ 0 then BitVec.ofNat 64 v else c.getS k := by
  unfold Ctx.put Ctx.getS
  by_cases h : r = 0
  · simp [h]
  · by_cases hk : k = r
    · subst hk; simp [h]
    · simp only [h, hk, if_false, false_and]
      rw [tget_tput_ne _ _ _ _ _ hk]
theorem Ctx.getV_put (c : Ctx) (r k v : Nat) :
    (c.put (.v r) v).getV k = if k = r then BitVec.ofNat 1024 v else c.getV k := by
  unfold Ctx.put Ctx.getV
  by_cases hk : k = r
  · subst hk; simp
  · simp only [hk, if_false]
    rw [tget_tput_ne _ _ _ _ _ hk]
theorem Ctx.getM_put (c : Ctx) (r k v : Nat) :
    (c.put (.m r) v).getM k = if k = r ∧ r ≠ 0 then BitVec.ofNat 32 v else c.getM k := by
  unfold Ctx.put Ctx.getM
  by_cases h : r = 0
  · simp [h]
  · by_cases hk : k = r
    · subst hk; simp [h]
    · simp only [h, hk, if_false, false_and]
      rw [tget_tput_ne _ _ _ _ _ hk]
/-- A register with no write on its way reads as it stands. -/
theorem State.rdS_ready (s : State) (pos : Nat) (r : Reg) (h : pendingTo s.ctx (.s r.toNat) = false) :
    s.rdS pos r = s.ctx.getS r.toNat := by
  unfold State.rdS
  split
  · rename_i h0; subst h0; rfl
  · simp [h]
theorem State.rdV_ready (s : State) (pos : Nat) (r : Reg) (h : pendingTo s.ctx (.v r.toNat) = false) :
    s.rdV pos r = s.ctx.getV r.toNat := by
  simp [State.rdV, h]
theorem State.rdM_ready (s : State) (pos : Nat) (r : MReg) (h : pendingTo s.ctx (.m r.toNat) = false) :
    s.rdM pos r = s.ctx.getM r.toNat := by
  unfold State.rdM
  split
  · rename_i h0; subst h0; rfl
  · simp [h]
@[simp] theorem State.rdS_zero (s : State) (pos : Nat) : s.rdS pos 0 = 0 := rfl
@[simp] theorem State.rdM_zero (s : State) (pos : Nat) : s.rdM pos 0 = BitVec.allOnes 32 := rfl

/-! ### Issuing (R217, R222, R224) -/

/-- A fixed-latency result joins those on their way; only the acting tile changes. -/
theorem State.issueFixed_spec (s : State) (d : Dest) (v L : Nat) (fl : Fl) (tr : Option (Nat × Nat)) (fr : Fl) (lw lo : Nat) :
    ∃ (p : Pend) (x : Tile), s.issueFixed d v L fl tr fr lw lo = s.setTile s.cur.unit x
      ∧ (s.issueFixed d v L fl tr fr lw lo).ctx = { s.ctx with pend := s.ctx.pend ++ [p] }
      ∧ p.dest = d ∧ p.val = v ∧ p.bound = s.now + L ∧ p.bno = s.ctx.bno ∧ p.ord = s.me.ord ∧ p.pc = s.cur.bpc
      ∧ p.fl = fl ∧ p.trap = tr ∧ p.flRest = fr ∧ x.arr = s.me.arr ∧ x.ord = s.me.ord + 1 := by
  unfold State.issueFixed
  obtain ⟨x, hx, ha, ho, -, -⟩ := State.setCtx_tile (s.setTile s.cur.unit { s.me with ord := s.me.ord + 1 })
    { s.ctx with pend := s.ctx.pend ++ [
      { dest := d, val := v, bound := s.now + L, bno := s.ctx.bno, ord := s.me.ord, pc := s.cur.bpc, fl := fl, trap := tr
        flRest := fr, lw := if lw = 0 then 32 else lw, lo := lo }] }
  simp only [State.setTile_cur, State.setTile_setTile] at hx
  simp only [State.me_setTile] at ha ho
  exact ⟨_, x, hx, State.ctx_setCtx _ _, rfl, rfl, rfl, rfl, rfl, rfl, rfl, rfl, rfl, ha, ho⟩
@[simp] theorem State.issueFixed_cur (s : State) (d : Dest) (v L : Nat) (fl : Fl) (tr : Option (Nat × Nat)) (fr : Fl) (lw lo : Nat) :
    (s.issueFixed d v L fl tr fr lw lo).cur = s.cur := by
  unfold State.issueFixed; simp
@[simp] theorem State.advance_ctx (s : State) : s.advance.ctx = { s.ctx with pc := pcNext s.cur.bpc } := by
  unfold State.advance; simp
theorem State.advance_tile (s : State) : ∃ x, s.advance = s.setTile s.cur.unit x ∧ x.arr = s.me.arr ∧ x.ord = s.me.ord := by
  obtain ⟨x, hx, ha, ho, -⟩ := State.setCtx_tile s { s.ctx with pc := pcNext s.cur.bpc }
  exact ⟨x, hx, ha, ho⟩
/-- A slot A instruction that writes one register: the write is on its way, the PC is the successor's, and nothing but
the acting tile changes. -/
theorem writeFixed_spec (s : State) (d : Dest) (v L : Nat) : ∃ (t : State) (p : Pend) (x : Tile), writeFixed s d v L = .next t
    ∧ t = s.setTile s.cur.unit x ∧ x.arr = s.me.arr
    ∧ t.ctx = { s.ctx with pend := s.ctx.pend ++ [p], pc := pcNext s.cur.bpc }
    ∧ p.dest = d ∧ p.val = v ∧ p.bound = s.now + L ∧ p.trap = none ∧ p.fl = {} := by
  obtain ⟨p, x, hx, hc, h1, h2, h3, -, -, -, h4, h5, -, ha, -⟩ := State.issueFixed_spec s d v L {} none {} 0 0
  obtain ⟨y, hy, hya, -⟩ := State.advance_tile (s.issueFixed d v L)
  refine ⟨_, p, y, rfl, ?_, ?_, ?_, h1, h2, h3, h5, h4⟩
  · rw [hy, hx]; simp
  · rw [hya]
    have : (s.issueFixed d v L).me = x := by rw [hx]; simp [State.me]
    rw [this, ha]
  · rw [State.advance_ctx, hc]; simp
/-- A slot B operation joins those that are not complete, and its tag is busy; only the acting tile changes. -/
theorem issueOp_spec (s : State) (k : OpKind) : ∃ (o : Op) (x : Tile), issueOp s k = s.setTile s.cur.unit x
    ∧ (issueOp s k).ctx = { s.ctx with ops := s.ctx.ops ++ [o], busy := if s.cur.ta = 0 then s.ctx.busy else s.ctx.busy ++ [s.cur.ta] }
    ∧ o.id = s.me.nextOp ∧ o.tag = s.cur.ta ∧ o.kind = k ∧ o.st = .waiting ∧ o.pc = s.cur.bpc ∧ o.bno = s.ctx.bno
    ∧ x.arr = s.me.arr ∧ x.nextOp = s.me.nextOp + 1 := by
  unfold issueOp
  obtain ⟨x, hx, ha, -, hn, -⟩ := State.setCtx_tile (s.setTile s.cur.unit { s.me with ord := s.me.ord + 1, nextOp := s.me.nextOp + 1 })
    { s.ctx with
      ops := s.ctx.ops ++ [{ id := s.me.nextOp, tag := s.cur.ta, ord := s.me.ord, bno := s.ctx.bno, pc := s.cur.bpc, kind := k, at' := s.cycle }]
      busy := if s.cur.ta = 0 then s.ctx.busy else s.ctx.busy ++ [s.cur.ta] }
  simp only [State.setTile_cur, State.setTile_setTile] at hx
  simp only [State.me_setTile] at ha hn
  exact ⟨_, x, hx, State.ctx_setCtx _ _, rfl, rfl, rfl, rfl, rfl, rfl, ha, hn⟩

/-! ### Ending an operation (R224) -/

theorem finishOp_none (s : State) (t id : Nat) (v : Option Nat) (h : opOf (s.tile t).ctx id = none) : finishOp s t id v = s := by
  simp [finishOp, h]
/-- An operation that ends is no longer pending and its tag is not busy; only its tile changes, and of the tile's registers
only the operation's destination. -/
theorem finishOp_spec (s : State) (t id : Nat) (v : Option Nat) (o : Op) (h : opOf (s.tile t).ctx id = some o) :
    ∃ x, finishOp s t id v = s.setTile t x ∧ x.arr = (s.tile t).arr ∧ x.wd = (s.tile t).wd ∧ x.sys = (s.tile t).sys
      ∧ x.ctx = (match o.kind.dest, v with
          | some d, some n => (s.tile t).ctx.landAt d n o.ord
          | _, _ => (s.tile t).ctx).endOp id := by
  unfold finishOp
  simp only [h]
  refine ⟨_, rfl, ?_, ?_, ?_, rfl⟩ <;> (cases o.kind.dest <;> cases v <;> rfl)

/-! ### Reports and health (R426, R429) -/

/-- A report changes the mailbox alone: it stands last, or waits while 64 messages stand. -/
theorem State.report_spec (s : State) (m : Msg) : ∃ i w, s.report m = { s with mod := { s.mod with inbox := i, waiting := w } }
    ∧ (s.mod.inbox.length < 64 → s.mod.waiting = [] → i = s.mod.inbox ++ [m] ∧ w = [])
    ∧ (64 ≤ s.mod.inbox.length ∨ s.mod.waiting ≠ [] → i = s.mod.inbox ∧ w = s.mod.waiting ++ [m]) := by
  unfold State.report
  split
  · rename_i h
    refine ⟨_, _, rfl, fun _ _ => ⟨rfl, h.2⟩, fun h' => ?_⟩
    rcases h' with h' | h'
    · exact absurd h.1 (by omega)
    · exact absurd h.2 h'
  · rename_i h
    exact ⟨_, _, rfl, fun h1 h2 => absurd ⟨h1, h2⟩ h, fun _ => ⟨rfl, rfl⟩⟩
theorem raiseHealth_spec (s : State) (n : Nat) : raiseHealth s n = { s with mod := { s.mod with health := max s.mod.health n } } := by
  unfold raiseHealth
  split
  · rw [Nat.max_eq_right (by omega)]
  · rw [Nat.max_eq_left (by omega)]

/-! ### Taking a control-class fault (R382) -/

/-- The cycle in which a fault is found may turn out a held one: only the counts of cycles change (R31). -/
theorem Tile.holdNow_spec (x : Tile) (f : CFault) : (x.holdNow f).ctx = x.ctx ∧ (x.holdNow f).shadow = x.shadow
    ∧ (x.holdNow f).wd = x.wd ∧ (x.holdNow f).dec = x.dec ∧ (x.holdNow f).task = x.task
    ∧ (x.holdNow f).arr = { x.arr with clk := (x.holdNow f).arr.clk }
    ∧ (x.holdNow f).sys = { x.sys with tcyc := (x.holdNow f).sys.tcyc, hcyc := (x.holdNow f).sys.hcyc }
    ∧ (x.holdNow f).fseqS = x.fseqS ∧ (x.holdNow f).fseqW = x.fseqW := by
  unfold Tile.holdNow
  split
  · exact ⟨rfl, rfl, rfl, rfl, rfl, rfl, rfl, rfl, rfl⟩
  · refine ⟨rfl, rfl, rfl, rfl, rfl, ?_, ?_, rfl, rfl⟩
    · cases f.ofMode <;> rfl
    · cases x.task <;> rfl
/-- One in which something has been issued stays a tile cycle. -/
theorem Tile.holdNow_issued (x : Tile) (f : CFault) (h : x.ticked = false) : x.holdNow f = x := by
  simp [Tile.holdNow, h]
/-- A control-class fault joins the queue, or is held back behind eight; beside the hold only the tile's shadow context
changes. -/
theorem takeControl_spec (s : State) (t : Nat) (f : CFault) :
    ∃ sh, takeControl s t f = s.setTile t { (s.tile t).holdNow f with shadow := sh }
    ∧ ((s.tile t).shadow.queue.length < 8 → sh.queue = (s.tile t).shadow.queue ++ [f] ∧ sh.back = (s.tile t).shadow.back)
    ∧ (8 ≤ (s.tile t).shadow.queue.length → sh.queue = (s.tile t).shadow.queue ∧ sh.back = (s.tile t).shadow.back ++ [f])
    ∧ ((s.tile t).shadow.queue = [] → sh.running = true ∧ sh.ctx.pc = (s.tile t).shadow.stubpc ∧ sh.fact = 0 ∧ sh.fval = 0) := by
  have hs := ((s.tile t).holdNow_spec f).2.1
  refine ⟨_, rfl, ?_, ?_, ?_⟩
  · intro h
    rw [hs, if_neg (by omega)]
    split <;> exact ⟨rfl, rfl⟩
  · intro h
    rw [hs, if_pos h]
    exact ⟨rfl, rfl⟩
  · intro h
    simp [hs, h, Shadow.start]
/-- A fault of a tile's sequencer is recorded with its cause, PC and address; its registers are as before, and of its
system registers and its array only the counts of cycles may change. -/
theorem seqFault_spec (s : State) (t cause : Nat) (pc : W64) (addr detail : Nat) (src : CSrc) (idx : List Nat) :
    ∃ x f, seqFault s t cause pc addr detail src idx = s.setTile t x ∧ x.ctx = (s.tile t).ctx
      ∧ x.arr = { (s.tile t).arr with clk := x.arr.clk }
      ∧ x.sys = { (s.tile t).sys with tcyc := x.sys.tcyc, hcyc := x.sys.hcyc }
      ∧ ((s.tile t).ticked = false → x.arr = (s.tile t).arr ∧ x.sys = (s.tile t).sys)
      ∧ x.wd = (s.tile t).wd ∧ x.fseqS = ((s.tile t).fseqS + 1) % 256
      ∧ f.src = src ∧ f.fr.cause = cause ∧ f.fr.pos = pc.toNat ∧ f.fr.addr = addr ∧ f.fr.detail = detail ∧ f.fr.unit = 257 ∧ f.fr.tile = t
      ∧ f.fr.fseq = x.fseqS
      ∧ ((s.tile t).shadow.queue.length < 8 → x.shadow.queue = (s.tile t).shadow.queue ++ [f]) := by
  unfold seqFault
  obtain ⟨sh, h, h1, -, -⟩ := takeControl_spec (s.setTile t { s.tile t with fseqS := ((s.tile t).fseqS + 1) % 256 }) t
    { fr := { seqRec s t cause pc addr detail with idx := idx }, src := src }
  simp only [State.tile_setTile, State.setTile_setTile] at h h1
  obtain ⟨g1, -, g3, -, -, g6, g7, g8, -⟩ := Tile.holdNow_spec { s.tile t with fseqS := ((s.tile t).fseqS + 1) % 256 }
    { fr := { seqRec s t cause pc addr detail with idx := idx }, src := src }
  refine ⟨_, _, h, g1, g6, g7, fun ht => ?_, g3, g8, rfl, rfl, rfl, rfl, rfl, rfl, rfl, ?_, fun hl => (h1 hl).1⟩
  · rw [Tile.holdNow_issued _ _ (by exact ht)]; exact ⟨rfl, rfl⟩
  · exact g8.symm
/-- A task's slot instruction that faults at issue changes nothing but its tile's fault queue and number, and the
counts of cycles. -/
theorem issueFault_spec (s : State) (cause addr detail : Nat) (h : s.cur.shadow = false) :
    ∃ x f, issueFault s cause addr detail = .next ((s.setTile s.cur.unit x).setIss .fault) ∧ x.ctx = s.me.ctx
      ∧ x.arr = { s.me.arr with clk := x.arr.clk }
      ∧ x.sys = { s.me.sys with tcyc := x.sys.tcyc, hcyc := x.sys.hcyc }
      ∧ (s.me.ticked = false → x.arr = s.me.arr ∧ x.sys = s.me.sys)
      ∧ x.wd = s.me.wd ∧ f.src = .issue ∧ f.fr.cause = cause ∧ f.fr.pos = s.cur.bpc.toNat ∧ f.fr.addr = addr ∧ f.fr.detail = detail
      ∧ (s.me.shadow.queue.length < 8 → x.shadow.queue = s.me.shadow.queue ++ [f]) := by
  obtain ⟨x, f, hx, h1, h2, h2', h2'', h3, -, h4, h5, h6, h7, h8, -, -, -, h9⟩ := seqFault_spec s s.cur.unit cause s.cur.bpc addr detail .issue []
  refine ⟨x, f, ?_, h1, h2, h2', h2'', h3, h4, h5, h6, h7, h8, h9⟩
  simp [issueFault, h, hx]
/-- Firmware's count of errors changes the module's records alone (R428). -/
theorem countError_spec (s : State) (unit : Nat) (hard : Bool) :
    ∃ m, countError s unit hard = { s with mod := m } ∧ s.mod.health ≤ m.health ∧ m.inbox = s.mod.inbox := by
  unfold countError
  simp only [raiseHealth_spec]
  generalize (if hard = true then s.mod.ueMax else s.mod.ceMax) = n
  split <;> split
  all_goals first
    | exact ⟨_, rfl, Nat.le_refl _, rfl⟩
    | exact ⟨_, rfl, Nat.le_max_left _ _, rfl⟩

end Sys2Proof.Machine
end

