-- ==== Sys2Proof/Laws/Units.lean ====
section
/-!
SUPPORT. What the shared operations of memory, of an element, of a bank, of an engine's command and of a packet can do,
said once for each.
-/
namespace Sys2Proof.Machine

/-! ### Memory (R331-R340) -/

/-- A read changes what its agent has read, and nothing else. -/
theorem memRead_spec (s : State) (a : AgentId) (pa n unit : Nat) (atomic : Bool) :
    ∃ v, (memRead s a pa n unit atomic).2 = s.setAg a v := ⟨_, rfl⟩
/-- A write changes memory alone. -/
theorem memWrite_spec (s : State) (a : AgentId) (pa : Nat) (bs : List Byte) (rels : List Rel) (atomic : Bool) (unit : Nat) :
    ∃ m, memWrite s a pa bs rels atomic unit = { s with mem := m } ∧ m.cells = putBytes s.mem.cells pa bs := by
  unfold memWrite
  split <;> exact ⟨_, rfl, rfl⟩
theorem rawWrite_spec (s : State) (pa : Nat) (bs : List Byte) :
    ∃ m, rawWrite s pa bs = { s with mem := m } ∧ m.cells = putBytes s.mem.cells pa bs
    ∧ m.hist = s.mem.hist.filter fun c => !inRange pa bs.length c.1 := ⟨_, rfl, rfl, rfl⟩

/-! ### Collars (R375) -/

/-- Reading an element or a plane back. -/
@[simp] theorem Collar.elem_setElem (c : Collar) (e : Nat) (x : Elem) : (c.setElem e x).elem e = x := by
  simp [Collar.elem, Collar.setElem]
theorem Collar.elem_setElem_ne (c : Collar) (e f : Nat) (x : Elem) (h : f ≠ e) : (c.setElem e x).elem f = c.elem f := by
  simp [Collar.elem, Collar.setElem, tget_tput_ne _ _ _ _ _ h]
@[simp] theorem Collar.region_setElem (c : Collar) (e : Nat) (x : Elem) (r : Nat) : (c.setElem e x).region r = c.region r := rfl
@[simp] theorem Elem.plane_setPlane (x : Elem) (p : Nat) (y : Plane) : (x.setPlane p y).plane p = y := by
  simp [Elem.plane, Elem.setPlane]
theorem Elem.plane_setPlane_ne (x : Elem) (p k : Nat) (y : Plane) (h : k ≠ p) : (x.setPlane p y).plane k = x.plane k := by
  simp [Elem.plane, Elem.setPlane, tget_tput_ne _ _ _ _ _ h]
@[simp] theorem State.elemOf_setElem (s : State) (u e : Nat) (x : Elem) : (s.setElem u e x).elemOf u e = x := by
  simp [State.elemOf, State.setElem]
theorem State.elemOf_setElem_ne (s : State) (u e v f : Nat) (x : Elem) (h : v ≠ u ∨ f ≠ e) :
    (s.setElem u e x).elemOf v f = s.elemOf v f := by
  unfold State.elemOf State.setElem
  by_cases hv : v = u
  · subst hv
    rw [State.collar_setCollar, Collar.elem_setElem_ne _ _ _ _ (h.resolve_left (· rfl))]
  · rw [State.collar_setCollar_ne _ _ _ _ hv]
@[simp] theorem State.planeOf_setPlane (s : State) (u e p : Nat) (y : Plane) : (s.setPlane u e p y).planeOf u e p = y := by
  simp [State.planeOf, State.setPlane]

/-- A fault token is on its way to the corner of its strip, from its element's output or, of the payload reader, by the
mesh: neither changes memory, tiles or tasks, nor of any element more than the fault tokens that leave it. -/
theorem sendFault_spec (s : State) (f : FRec) : (sendFault s f).mem = s.mem ∧ (sendFault s f).tiles = s.tiles
    ∧ (sendFault s f).tasks = s.tasks ∧ (sendFault s f).xus = s.xus ∧ (sendFault s f).queues = s.queues
    ∧ (sendFault s f).mod = s.mod
    ∧ (∀ u e, u ≠ f.tile ∨ e ≠ f.unit → (sendFault s f).elemOf u e = s.elemOf u e)
    ∧ ∀ u e, { (sendFault s f).elemOf u e with flt := [] } = { s.elemOf u e with flt := [] } := by
  unfold sendFault
  simp only
  split
  · refine ⟨rfl, rfl, rfl, rfl, rfl, rfl, fun u e h => State.elemOf_setElem_ne _ _ _ _ _ _ h, fun u e => ?_⟩
    by_cases h : u = f.tile ∧ e = f.unit
    · obtain ⟨rfl, rfl⟩ := h
      rw [State.elemOf_setElem]
    · rw [State.elemOf_setElem_ne _ _ _ _ _ _ (by omega)]
  · have h (u e : Nat) : (toStrip s f.tile { vc := 31, lcnt := 16, val := lineOfBytes f.bytes, rgn := f.ctx % 4, slot := bits f.ctx 3 2
                                             plane := bits f.ctx 5 4, src := f.unit, at' := s.cycle, flt := true }).elemOf u e = s.elemOf u e := by
      unfold State.elemOf toStrip
      by_cases h : u = stripOf f.tile
      · subst h; rw [State.collar_setCollar]; rfl
      · rw [State.collar_setCollar_ne _ _ _ _ h]
    exact ⟨rfl, rfl, rfl, rfl, rfl, rfl, fun u e _ => h u e, fun u e => by rw [h u e]⟩
/-- That a task has met LOG_FULL stands in that task alone. -/
theorem noteLogFull_spec (s : State) (n : Option Nat) : ∃ ts, noteLogFull s n = { s with tasks := ts } := by
  unfold noteLogFull
  split <;> exact ⟨_, rfl⟩
/-- A fault of an element that has none: its record, and the token that tells of it; LOG_FULL is noted in the task. -/
theorem elemFault_none (s : State) (u e slot p cause : Nat) (i : FInfo) (h : (s.elemOf u e).fault = none) :
    ∃ (x : Elem) (f : FRec) (ts : Tbl Task), elemFault s u e slot p cause i = sendFault (({ s with tasks := ts } : State).setElem u e x) f
      ∧ (cause ≠ 0x1A → ts = s.tasks) ∧ x.fault = some f
      ∧ x.out = (s.elemOf u e).out ∧ f.cause = cause ∧ f.tile = u ∧ f.unit = e ∧ f.addr = i.addr ∧ f.detail = i.detail
      ∧ f.lanes = i.lanes ∧ f.fseq = ((s.elemOf u e).fseq + 1) % 256 := by
  unfold elemFault
  rw [if_neg]
  · simp only
    split
    · obtain ⟨ts, ht⟩ := noteLogFull_spec s ((regionOf (s.collar u) e).bind fun r => ((s.collar u).region r).task)
      rw [ht]
      exact ⟨_, _, ts, rfl, fun h => absurd ‹_› h, rfl, rfl, rfl, rfl, rfl, rfl, rfl, rfl, rfl⟩
    · exact ⟨_, _, s.tasks, rfl, fun _ => rfl, rfl, rfl, rfl, rfl, rfl, rfl, rfl, rfl, rfl⟩
  · show ¬ (s.elemOf u e).fault.isSome = true
    rw [h]; decide
/-- One that has a fault stays as it is. -/
theorem elemFault_some (s : State) (u e slot p cause : Nat) (i : FInfo) (h : (s.elemOf u e).fault.isSome = true) :
    elemFault s u e slot p cause i = s := by
  unfold elemFault
  exact if_pos h
/-- A fault of an element changes that element alone, and for LOG_FULL its task: no other element, no tile and no byte of
memory. -/
theorem elemFault_frame (s : State) (u e slot p cause : Nat) (i : FInfo) :
    (elemFault s u e slot p cause i).mem = s.mem ∧ (elemFault s u e slot p cause i).tiles = s.tiles
    ∧ (cause ≠ 0x1A → (elemFault s u e slot p cause i).tasks = s.tasks)
    ∧ ∀ v g, v ≠ u ∨ g ≠ e → (elemFault s u e slot p cause i).elemOf v g = s.elemOf v g := by
  cases h : (s.elemOf u e).fault with
  | some f =>
    rw [elemFault_some _ _ _ _ _ _ _ (by rw [h]; rfl)]
    exact ⟨rfl, rfl, fun _ => rfl, fun _ _ _ => rfl⟩
  | none =>
    obtain ⟨x, f, ts, hx, ht, -, -, -, h4, h5, -⟩ := elemFault_none s u e slot p cause i h
    obtain ⟨h1, h2, h3, -, -, -, h6, -⟩ := sendFault_spec (({ s with tasks := ts } : State).setElem u e x) f
    rw [hx]
    refine ⟨h1, h2, fun h => h3.trans (ht h), fun v g hv => ?_⟩
    rw [h6 _ _ (by rw [h4, h5]; exact hv), State.elemOf_setElem_ne _ _ _ _ _ _ hv]
    rfl

/-! ### Engine commands (R92) -/

/-- A command is written in its engine's queue alone. -/
theorem setCmd_spec (s : State) (e : Eng) (c : Cmd) : setCmd s e c = s.setEng e { s.eng e with
    q := (s.eng e).q.map fun d => if d.id = c.id then c else d } := rfl
/-- A command ends in its engine's queue; LCINJ hits it no more. -/
theorem endCmd_spec (s : State) (e : Eng) (c : Cmd) (w : W64) :
    ∃ es, endCmd s e c w = { s with engines := es } := by
  have h (k : Nat) : ∀ (l : List Nat) (s : State), ∃ es, l.foldl (fun s d =>
      let x := s.eng (.link d 0)
      if x.tgt = some k then s.setEng (.link d 0) { x with tgt := none } else s) s = { s with engines := es } := by
    intro l
    induction l with
    | nil => exact fun s => ⟨s.engines, rfl⟩
    | cons d l ih =>
      intro s
      simp only [List.foldl_cons]
      split
      · obtain ⟨es, he⟩ := ih (s.setEng (.link d 0) { s.eng (.link d 0) with tgt := none })
        exact ⟨es, he⟩
      · exact ih s
  obtain ⟨es, he⟩ := h (pullKey c.id) [0, 1, 2, 3] s
  unfold endCmd injEnd
  rw [he]
  exact ⟨_, rfl⟩
/-- A command that pauses is reported; no byte, register or token changes. -/
theorem pauseCmd_spec (s : State) (e : Eng) (c : Cmd) (cause addr : Nat) :
    (pauseCmd s e c cause addr).mem = s.mem ∧ (pauseCmd s e c cause addr).tiles = s.tiles
    ∧ (pauseCmd s e c cause addr).tasks = s.tasks ∧ (pauseCmd s e c cause addr).collars = s.collars
    ∧ (pauseCmd s e c cause addr).engines = (setCmd s e { c with st := .paused cause addr }).engines := by
  unfold pauseCmd State.reportF
  obtain ⟨i, w, h, -⟩ := State.report_spec (setCmd s e { c with st := .paused cause addr }) _
  rw [h]
  exact ⟨rfl, rfl, rfl, rfl, rfl⟩

/-! ### Packets (R353, R355) -/

/-- Writing a packet changes its queue alone. -/
theorem setPacket_spec (s : State) (q : Nat) (p : Packet) : ∃ x, setPacket s q p = s.setQueue q x
    ∧ x.packets = (s.queue q).packets.map fun r => if r.n = p.n then p else r := ⟨_, rfl, rfl⟩
/-- A packet's turn: nothing happens without it, while it may not begin, or after it is done; one whose fields are bad is
done with RSVD_FIELD; else it acts, having begun. -/
theorem packetTurn_spec (s : State) (q n ty : Nat) (bad : Packet → Bool) (f : State → Packet → State) :
    packetTurn s q n ty bad f = .next s
    ∨ ∃ p, (s.queue q).packets.find? (fun p => p.n == n) = some p ∧ p.done = false
      ∧ (packetTurn s q n ty bad f = .next (f s p) ∧ p.begun = true
        ∨ p.begun = false ∧ mayBegin (s.queue q) p = true
          ∧ (packetTurn s q n ty bad f = .next (finishPacket s q p 0x08) ∧ (headBad (s.queue q) p || bad p) = true
            ∨ packetTurn s q n ty bad f = .next (f (setPacket s q { p with begun := true }) { p with begun := true })
              ∧ (headBad (s.queue q) p || bad p) = false)) := by
  unfold packetTurn
  simp only
  split
  · exact .inl rfl
  · rename_i p hp
    by_cases h1 : (p.ty ≠ ty ∧ ¬(ty = 9 ∧ (p.ty = 0 ∨ p.ty > 10))) ∨ p.done = true
    · rw [if_pos h1]; exact .inl rfl
    · rw [if_neg h1]
      have hd : p.done = false := by
        cases h : p.done
        · rfl
        · exact absurd (.inr h) h1
      by_cases h2 : p.begun = true
      · rw [if_pos h2]; exact .inr ⟨p, hp, hd, .inl ⟨rfl, h2⟩⟩
      · rw [if_neg h2]
        have h2' : p.begun = false := by simpa using h2
        cases h3 : mayBegin (s.queue q) p
        · exact .inl (by simp)
        · refine .inr ⟨p, hp, hd, .inr ⟨h2', h3, ?_⟩⟩
          cases h4 : (headBad (s.queue q) p || bad p)
          · exact .inr ⟨by simp, rfl⟩
          · exact .inl ⟨by simp, rfl⟩

/-! ### Bank requests (R100) -/

/-- Two states differ in nothing but the banks of their collars. -/
def banksOnly (s t : State) : Prop :=
  ∃ cs, t = { s with collars := cs } ∧ ∀ u, ∃ bs, t.collar u = { s.collar u with banks := bs }
theorem banksOnly_refl (s : State) : banksOnly s s := ⟨s.collars, rfl, fun u => ⟨(s.collar u).banks, rfl⟩⟩
theorem banksOnly_trans {s t r : State} (h : banksOnly s t) (g : banksOnly t r) : banksOnly s r := by
  obtain ⟨cs, rfl, hc⟩ := h
  obtain ⟨ds, rfl, hd⟩ := g
  refine ⟨ds, rfl, fun u => ?_⟩
  obtain ⟨bs, hb⟩ := hc u
  obtain ⟨es, he⟩ := hd u
  exact ⟨es, by rw [he, hb]⟩
theorem setBank_banksOnly (s : State) (b : Nat × Nat) (k : BankSt) : banksOnly s (s.setBank b k) := by
  refine ⟨_, rfl, fun u => ?_⟩
  unfold State.setBank
  by_cases h : u = b.1
  · subst h
    exact ⟨_, State.collar_setCollar _ _ _⟩
  · exact ⟨(s.collar u).banks, State.collar_setCollar_ne _ _ _ _ h⟩
theorem enlist_banksOnly (s : State) (port : Nat × Nat → Nat × Nat) (who e : Nat) (p : Nat × Nat) :
    banksOnly s (enlist s port who e p) := by
  unfold enlist
  split
  · exact banksOnly_refl s
  · simp only
    split
    · exact banksOnly_refl s
    · exact setBank_banksOnly _ _ _
/-- No line that an AG has fired on is on its way. -/
def noFly (s : State) : Prop := ∀ u, (s.collar u).fly = []
theorem noFly_banksOnly {s t : State} (h : banksOnly s t) (g : noFly s) : noFly t := by
  obtain ⟨cs, -, hc⟩ := h
  intro u
  obtain ⟨bs, hb⟩ := hc u
  rw [hb]
  exact g u
theorem landLine_noFly {s : State} (g : noFly s) (u pa : Nat) : landLine s u pa = s := by
  unfold landLine
  rw [g u]
  rfl
theorem delist_banksOnly {s : State} (g : noFly s) (who : Nat) (p : Nat × Nat) : banksOnly s (delist s who p) := by
  unfold delist
  split
  · exact banksOnly_refl s
  · rw [landLine_noFly (noFly_banksOnly (setBank_banksOnly _ _ _) g)]
    exact setBank_banksOnly _ _ _
theorem foldl_banksOnly {α : Type} (f : State → α → State) (h : ∀ s a, noFly s → banksOnly s (f s a)) :
    ∀ (l : List α) (s : State), noFly s → banksOnly s (l.foldl f s)
  | [], s, _ => banksOnly_refl s
  | a :: l, s, g => banksOnly_trans (h s a g) (foldl_banksOnly f h l (f s a) (noFly_banksOnly (h s a g) g))
/-- Asking changes the banks' requests and grants, whether or not all are granted; a grant lets the lines before it land
first (R101), so this holds where none is on its way. -/
theorem askAll_banksOnly {s : State} (g : noFly s) (e : Nat) (l : List BankAsk) : banksOnly s (askAll s e l).2 := by
  have h : banksOnly s (l.foldl (fun s a => (lineCuts a.2.2).foldl (fun s p => enlist s a.1 a.2.1 e p) s) s) :=
    foldl_banksOnly _ (fun s a => foldl_banksOnly _ (fun s p _ => enlist_banksOnly s a.1 a.2.1 e p) _ s) l s g
  unfold askAll
  simp only
  split
  · exact banksOnly_trans h (foldl_banksOnly _ (fun s a => foldl_banksOnly _ (fun s p g => delist_banksOnly g a.2.1 p) _ s) l _
      (noFly_banksOnly h g))
  · exact h
theorem askBanks_banksOnly {s : State} (g : noFly s) (port : Nat × Nat → Nat × Nat) (who e : Nat) (ps : List (Nat × Nat)) :
    banksOnly s (askBanks s port who e ps).2 := askAll_banksOnly g e _
/-- What asking leaves: everything but collars, and of a collar its elements, boxes and regions. -/
theorem askBanks_frame {s t : State} {port : Nat × Nat → Nat × Nat} {who e : Nat} {ps : List (Nat × Nat)} {b : Bool} (g : noFly s)
    (h : askBanks s port who e ps = (b, t)) : t.mem = s.mem ∧ t.tiles = s.tiles ∧ t.tasks = s.tasks ∧ t.xus = s.xus
    ∧ t.engines = s.engines ∧ t.queues = s.queues ∧ t.mod = s.mod ∧ t.inputs = s.inputs ∧ t.outbox = s.outbox
    ∧ t.cycle = s.cycle ∧ t.cur = s.cur ∧ (∀ u e, t.elemOf u e = s.elemOf u e) ∧ ∀ u r, (t.collar u).region r = (s.collar u).region r := by
  obtain ⟨cs, ht, hc⟩ := askBanks_banksOnly g port who e ps
  rw [h] at ht hc
  simp only at ht hc
  subst ht
  refine ⟨rfl, rfl, rfl, rfl, rfl, rfl, rfl, rfl, rfl, rfl, rfl, fun u e => ?_, fun u r => ?_⟩
  all_goals obtain ⟨bs, hb⟩ := hc u
  · unfold State.elemOf; rw [hb]; rfl
  · rw [hb]; rfl
/-- Where no bank lies, there is nothing to wait for. -/
theorem askBanks_nil (s : State) (port : Nat × Nat → Nat × Nat) (who e : Nat) : askBanks s port who e [] = (true, s) := rfl
theorem askBanks_memory (s : State) (port : Nat × Nat → Nat × Nat) (who e pa n : Nat) (h : bankAt pa = none) :
    askBanks s port who e [(pa, n)] = (true, s) := by
  simp [askBanks, askAll, lineCuts, enlist, delist, served, h]
/-- An access to memory outside banks, by a unit without mesh attachments, is performed at once. -/
theorem lineAccess_memory (s : State) (port : Nat × Nat → Nat × Nat) (who e : Nat) (out : Bool) (pa n : Nat)
    (f : Nat → Nat → State → List (Byte × Bool) × State) (h : bankAt pa = none) :
    lineAccess s port who e none out [(pa, n)] f = (some (f pa n s).1, (f pa n s).2) := by
  simp [lineAccess, lineCuts, enlist, performLine, takeLine, h]

/-! ### Agents (R329) -/

/-- A new agent stands in memory's account of agents, and nowhere else. -/
theorem State.newAgent_spec (s : State) (a : AgentId) (task : Option Nat) (floor : List WId) :
    ∃ ags, s.newAgent a task floor = { s with mem := { s.mem with ags := ags } } := ⟨_, rfl⟩
/-- A stream of an element begins as a new agent: its number stands in the element, and the agents of memory change. -/
theorem newStream_spec (s : State) (u e slot : Nat) : ∃ m,
    newStream s u e slot = ({ s with mem := m } : State).setElem u e
      { s.elemOf u e with strm := tput (s.elemOf u e).strm slot s.mem.nextStr }
    ∧ m.cells = s.mem.cells ∧ m.hist = s.mem.hist ∧ streamOf (newStream s u e slot) u e slot = .stream s.mem.nextStr := by
  refine ⟨_, rfl, rfl, rfl, ?_⟩
  unfold streamOf newStream
  simp
/-- A stream goes on, or begins. -/
theorem useStream_spec (s : State) (u e slot : Nat) :
    useStream s u e slot = s ∨ useStream s u e slot = newStream s u e slot := by
  unfold useStream
  split
  · exact .inl rfl
  · exact .inr rfl
/-- Outside the windows of planes, a physical write is a write of memory. -/
theorem physWrite_mem (s : State) (a : AgentId) (pa : Nat) (bs : List Byte) (unit : Nat) (rels : List Rel)
    (h : ∀ u o, place pa ≠ .planes u o) : ∃ m, physWrite s a pa bs unit rels = { s with mem := m }
    ∧ m.cells = putBytes s.mem.cells pa bs := by
  unfold physWrite
  split
  · exact absurd ‹_› (h _ _)
  · exact memWrite_spec _ _ _ _ _ _ _

end Sys2Proof.Machine
end

