-- ==== Sys2Proof/Tests/Slice0.lean ====
section
/-!
SUPPORT. Tests: ill-formed terms that the check refuses, words of the manual that decode to their instructions, and for
each statement of the obligations states that meet what it assumes, with what the manual says follows. Expected values
are the manual's examples or worked by hand from its rules.
-/
namespace Sys2Proof.Tests
set_option Elab.async false
open Sys2Proof Sys2Proof.Machine

/-- The state an instruction answers with. -/
def go (i : Instr) (s : State) : State := after s (exec i s)
/-- A vector of 32 lanes. -/
def vec (f : Nat → Nat) : VReg := BitVec.ofNat 1024 (natSum ((List.range 32).map fun l => f l % 2 ^ 32 * 2 ^ (32 * l)))
/-- Lane `l` of a value. -/
def lane (v l : Nat) : Nat := v / 2 ^ (32 * l) % 2 ^ 32
/-- What the last write on its way holds. -/
def wrote (s : State) : Option (Dest × Nat × Nat) := s.ctx.pend.getLast?.map fun p => (p.dest, p.val, p.bound - s.now)

/-- A task's registers: s1 to s8, vectors of small numbers and masks. -/
def ctx0 : Ctx :=
  { pc := 0x1000
    s := [(1, 7), (2, 0xFFFFFFFFFFFFFFFB), (3, 0x2000), (4, 0x21), (5, 3), (6, 0x1001), (7, 0xFFFFFFFFFFFFFFFF), (8, 0x408)]
    v := [(1, vec fun l => l), (2, vec fun l => 100 - l), (3, vec fun _ => 0xFFFFFFFF), (4, vec fun _ => 0x3F800000)]
    m := [(1, 0xF), (2, 4)] }
def task1 : Task := { trec := { asid := 1 }, resident := true, started := true, winCount := 2 }
def tile0 : Tile := { task := some 1, ctx := ctx0, arr := { winCount := 2 } }
/-- A page that grants everything, with the same physical address. -/
def page0 : TlbE := { asid := 1, va := 0, size := 2 ^ 18, pa := 0, perm := pRD + pWR + pXB + pXW, g := false }
/-- Task 1 runs on tile 0, its bundle at 0x1000 issuing. -/
def st : State :=
  { cycle := 50, cur := { bpc := 0x1000, ta := 1 }, tiles := [(0, tile0)], tasks := [(1, task1)]
    xus := [(0, { en := true, asid := 1, tlb := [page0] })] }
/-- A line access of a requester has been granted at a bank. -/
def granted (s : State) (b : Nat × Nat) (who e pa n : Nat) : State :=
  s.setBank b { pend := (s.bank b).pend ++ [{ port := 3, who := who, elem := e, pa := pa, n := n, granted := true }] }
/-- The same with another context. -/
def withCtx (c : Ctx) : State := st.setTile 0 { tile0 with ctx := c }

/-! ### Well-formedness: an ill-formed term for each check (R220, R237, R238, R242, R274, R310, R148) -/

theorem wf_refuses_slotA : [Instr.loop 1 2 0, .vabs .n32 1 2 0, .vneg .n32 1 2 0, .vcvt 0 1 1 2 0, .vcvt 13 1 1 2 0,
    .vcvt 15 1 1 2 0, .vcvt 1 0 1 2 0, .vcvt 1 15 1 2 0, .vcmp .i32 .uo 1 2 3 0].all (fun i => !i.wf) = true := by decide
theorem wf_refuses_slotB : [Instr.amo .add true false 0 0 1 2 3, .fence 0 0, .accz 1 2 0, .mma 1 2 12 0 0 false false,
    .mma 1 2 8 0 0 false true, .fire 0 0 false false false false 0, .fire 0 0 true false false false 1, .xexp 2 1 2 2,
    .xexp 0 1 2 0, .xcvt 1 1 2 0, .xtrn .w32 6 1 2, .dcfg 1 2 0].all (fun i => !i.wf) = true := by decide
def eop (fmt ovc : Nat) (sa sb sc : Nat) : EOp :=
  { fmt := BitVec.ofNat 4 fmt, ovc := BitVec.ofNat 5 ovc, sa := BitVec.ofNat 3 sa, sb := BitVec.ofNat 3 sb
    sc := BitVec.ofNat 3 sc, reg := 0, pg := false, pp := false, sv := 0 }
theorem wf_refuses_blocks_and_elements : [Instr.wMma 0 false false 15 0 false 0 0 0 0 0 0,
    .wMma 0 false false 2 0 false 3 0 0 0 0 0, .wMma 0 false false 2 0 false 0 0 0 0 0 65, .pgen (eop 1 0 0 6 6),
    .agst (eop 1 0 0 6 6), .wld (eop 0 1 0 6 6), .emit (eop 1 0 0 6 6), .feed (eop 0 0 1 6 6), .feed (eop 0 0 0 5 6),
    .feed (eop 0 0 0 6 5)].all (fun i => !i.wf) = true := by decide
theorem wf_takes : [Instr.loop 1 2 1, .vabs .i32 1 2 0, .vcvt 1 4 1 2 0, .vcmp .f32 .uo 1 2 3 0, .amo .max true false 0 0 1 2 3,
    .fence 1 0, .accz 1 2 1, .mma 1 2 11 0 0 false false, .mma 1 2 7 0 0 false true, .fire 0 0 false false true false 9,
    .xexp 2 1 2 1, .xtrn .w32 5 1 2, .dcfg 1 2 1, .wMma 0 false false 2 0 false 0 0 0 0 0 64, .pgen (eop 0 1 0 6 6),
    .feed (eop 0 0 0 6 6)].all (·.wf) = true := by decide

/-! ### Words written out from the encodings of R219, R237, R238, R242 and R148 -/

theorem decode_slotA_scalar : decodeA 0x10308800 = .ok (.add 3 1 2) ∧ decodeA 0x58500048 = .ok (.li20 5 0x48)
    ∧ decodeA 0x3073A080 = .ok (.sadd 7 7 8 1) ∧ decodeA 0x5C50000A = .ok (.mfs 5 0x00A)
    ∧ decodeA 0x5E028018 = .ok (.mts 5 0x018) ∧ decodeA 0x18308801 = .ok (.div true 3 1 2) := by decide +kernel
theorem decode_slotA_control : decodeA 0x0243FFFD = .ok (.br 4 .ne 0x1FFFD) ∧ decodeA 0x0A628002 = .ok (.loop 6 5 2)
    ∧ decodeA 0x0C000000 = .ok .lbrk ∧ decodeA 0x0E000005 = .ok (.trap 5) ∧ decodeA 0x04000007 = .ok (.jmp 7)
    ∧ decodeA 0 = .ok .nopA := by decide +kernel
theorem decode_slotA_vector : decodeA 0x86308801 = .ok (.vfma 3 1 2 0) ∧ decodeA 0xB0308800 = .ok (.mand 3 1 2)
    ∧ decodeA 0x98308025 = .rsvdField ∧ decodeA 0x98308020 = .ok (.vbcst (.scalar 3 1 0))
    ∧ decodeA 0x9C308023 = .ok (.vmov (.sv 3 1 3)) := by decide +kernel
theorem decode_slotB_memory : decodeB 0x06428000 = .ok (.ldv 4 5 0 0) ∧ decodeB 0x049217FE = .ok (.st 2 9 4 0x7FE)
    ∧ decodeB 0x0E921750 = .ok (.amo .add false true 2 6 9 4 5) ∧ decodeB 0x12000089 = .ok (.fence 9 1)
    ∧ decodeB 0x1200010A = .ok (.fence 10 2) := by decide +kernel
theorem decode_slotB_array : decodeB 0x202180C0 = .ok (.mma 2 3 0 0 1 true false) ∧ decodeB 0x0C120000 = .ok (.stacc 1 4 0 0)
    ∧ decodeB 0x0A220000 = .ok (.ldacc 2 4 0 0) ∧ decodeB 0x30048040 = .ok (.fire 0 0 false false true false 9)
    ∧ decodeB 0x22000100 = .ok (.wtl 2) := by decide +kernel
theorem decode_slotB_tasks : decodeB 0x4C700800 = .ok (.tkw 7 4 false) ∧ decodeB 0x60000007 = .ok (.bjoin 0 7 false)
    ∧ decodeB 0x64000007 = .ok (.barv 0 7) ∧ decodeB 0x72000000 = .ok .done ∧ decodeB 0x78000000 = .ok .hret
    ∧ decodeB 0x40028803 = .ok (.copy 5 4 3) := by decide +kernel
theorem decode_element : decodeElem 0x36241480 = .ok (.ffma (eop 1 4 0 5 1)) ∧ decodeElem 0x50621B00 = .ok (.cvt (eop 3 2 0 6 6))
    ∧ decodeElem 0x76421B00 = .ok (.hfwd (eop 2 2 0 6 6)) ∧ decodeElem 0x3A271300 = .ok (.fmax (eop 1 7 0 4 6))
    ∧ decodeElem 0x5E281B00 = .ok (.rmax (eop 1 8 0 6 6)) ∧ decodeElem 0x66421B00 = .ok (.bcst (eop 2 2 0 6 6)) := by decide +kernel
/-- The header of chapter 13's example, with its HCHK 0x0003_2102, and with a bit of it flipped. -/
theorem decode_weight_block : let h := 0x00022401 + 0x00010000 * 2 ^ 32 + 0xFFFFFFFFFFFFFD00 * 2 ^ 64
    decodeW (h + 0x00032102 * 2 ^ 224) = .ok (.wMma 0 true true 2 0 false 0 0 65536 0xFFFFFFFFFFFFFD00 0 0) 65536
    ∧ decodeW (h + 0x00032102 * 2 ^ 224 + 2 ^ 8) = .bad 1 := by decide +kernel
theorem decode_refuses : decodeA 0xFE000000 = .illegalOp ∧ decodeB 0xFE000000 = .illegalOp
    ∧ decodeBundle (0x4054 * 2 ^ 64 + 0x86308801 * 2 ^ 32 + 0x06428000)
      = .ok { ta := 2, tc := 1, pd := 2, le := true, ps := false, a := .vfma 3 1 2 0, b := .ldv 4 5 0 0 } := by decide +kernel

/-! ### Slot A (R216-R271): what the statements assume holds of `st`, and results worked by hand -/

theorem witness_scalar_operands : Claim.readable st 1 ∧ Claim.readable st 2 ∧ Claim.readable st 4 ∧ Claim.readable st 31
    ∧ st.cur.shadow = false ∧ st.me.shadow.queue.length < 8 ∧ Claim.val st 1 = 7 ∧ Claim.val st 0 = 0 := by
  refine ⟨rfl, rfl, rfl, rfl, rfl, ?_, ?_, ?_⟩ <;> decide +kernel
theorem scalar_arithmetic : wrote (go (.add 9 1 2) st) = some (.s 9, 2, 1)
    ∧ wrote (go (.sub 9 1 5) st) = some (.s 9, 4, 1) ∧ wrote (go (.mul 9 2 5) st) = some (.s 9, 2 ^ 64 - 15, 3)
    ∧ wrote (go (.mulh false 9 2 5) st) = some (.s 9, 2 ^ 64 - 1, 3) ∧ wrote (go (.mulh true 9 2 5) st) = some (.s 9, 2, 3) := by
  decide +kernel
theorem scalar_division : wrote (go (.div false 9 2 5) st) = some (.s 9, 2 ^ 64 - 1, 20)
    ∧ wrote (go (.rem false 9 2 5) st) = some (.s 9, 2 ^ 64 - 2, 20) ∧ wrote (go (.div true 9 1 5) st) = some (.s 9, 2, 20)
    ∧ (go (.div false 9 1 0) st).me.shadow.queue.map (fun f => (f.fr.cause, f.fr.pos)) = [(0x31, 0x1000)]
    ∧ (go (.div false 9 1 0) st).cur.iss = .fault := by decide +kernel
theorem scalar_logic_and_shifts : wrote (go (.and 9 1 5) st) = some (.s 9, 3, 1) ∧ wrote (go (.or 9 1 4) st) = some (.s 9, 0x27, 1)
    ∧ wrote (go (.xor 9 1 5) st) = some (.s 9, 4, 1) ∧ wrote (go (.shl 9 1 4) st) = some (.s 9, 7 * 2 ^ 33, 1)
    ∧ wrote (go (.shr 9 2 4) st) = some (.s 9, 0x7FFFFFFF, 1) ∧ wrote (go (.sra 9 2 4) st) = some (.s 9, 2 ^ 64 - 1, 1) := by
  decide +kernel
theorem scalar_choices : wrote (go (.min false 9 1 2) st) = some (.s 9, 2 ^ 64 - 5, 1) ∧ wrote (go (.min true 9 1 2) st) = some (.s 9, 7, 1)
    ∧ wrote (go (.max false 9 1 2) st) = some (.s 9, 7, 1) ∧ wrote (go (.slt false 9 2 1) st) = some (.s 9, 1, 1)
    ∧ wrote (go (.slt true 9 2 1) st) = some (.s 9, 0, 1) ∧ wrote (go (.sel 9 1 5 0) st) = some (.s 9, 3, 1)
    ∧ wrote (go (.sadd 9 1 5 2) st) = some (.s 9, 31, 1) := by decide +kernel
theorem scalar_bits : wrote (go (.clz false 9 1) st) = some (.s 9, 61, 1) ∧ wrote (go (.clz true 9 0) st) = some (.s 9, 32, 1)
    ∧ wrote (go (.popc true 9 2) st) = some (.s 9, 31, 1) ∧ wrote (go (.bext true 9 6 8) st) = some (.s 9, 0, 1)
    ∧ wrote (go (.bins 1 5 8) st) = some (.s 1, 0x307, 1) := by decide +kernel
theorem scalar_immediates : wrote (go (.addi 9 1 0x7FFF) st) = some (.s 9, 6, 1) ∧ wrote (go (.muli 9 1 3) st) = some (.s 9, 21, 3)
    ∧ wrote (go (.andi 9 1 3) st) = some (.s 9, 3, 1) ∧ wrote (go (.ori 9 1 8) st) = some (.s 9, 15, 1)
    ∧ wrote (go (.xori 9 1 0x7FFF) st) = some (.s 9, 2 ^ 64 - 8, 1) ∧ wrote (go (.shli 9 1 63) st) = some (.s 9, 2 ^ 63, 1) := by
  decide +kernel
theorem scalar_immediates_more : wrote (go (.shri 9 2 60) st) = some (.s 9, 15, 1) ∧ wrote (go (.srai 9 2 1) st) = some (.s 9, 2 ^ 64 - 3, 1)
    ∧ wrote (go (.slti 9 2 0) st) = some (.s 9, 1, 1) ∧ wrote (go (.mini 9 1 0x7FFF) st) = some (.s 9, 2 ^ 64 - 1, 1)
    ∧ wrote (go (.maxi 9 1 0x7FFF) st) = some (.s 9, 7, 1) ∧ wrote (go (.li20 9 0x80000) st) = some (.s 9, 2 ^ 64 - 0x80000, 1)
    ∧ wrote (go (.lih 1 5) st) = some (.s 1, 7 * 2 ^ 20 + 5, 1) := by decide +kernel

/-! Branches: bundle 0x1000 is number 384; a target in 3 tile cycles; R217's limits. -/
theorem branches : (go .nopA st).ctx.pc = 0x1001 ∧ (go (.br 1 .gt 4) st).ctx.pc = 0x1021 ∧ (go (.br 1 .eq 4) st).ctx.pc = 0x1001
    ∧ (go (.br 1 .gt 4) st).ctx.nextIssue = 3 ∧ (go (.jmp 0x1FFFF) st).ctx.pc = 0xFE2
    ∧ wrote (go (.jal 9 4) st) = some (.s 9, 0x1001, 1) ∧ (go (.jal 9 4) st).ctx.pc = 0x1021
    ∧ (go (.ret 6) st).ctx.pc = 0x1001 := by decide +kernel
theorem branch_tests : [Cond.eq, .ne, .lt, .ge, .gt, .le].map (fun c => (go (.br 2 c 4) st).ctx.pc)
      = [0x1001, 0x1021, 0x1021, 0x1001, 0x1001, 0x1021] ∧ [Cond.eq, .ne, .lt, .ge, .gt, .le].map (fun c => (go (.br 0 c 4) st).ctx.pc)
      = [0x1021, 0x1001, 0x1001, 0x1021, 0x1001, 0x1021] := by decide +kernel
theorem witness_bad_targets : Claim.canFault st ∧ (3 * (st.cur.bpc.toNat / 32) + (BitVec.toInt (0x10000 : BitVec 17)) < 0)
    ∧ ((go (.jmp 0x10000) st).me.shadow.queue.map fun f => f.fr.cause) = [3]
    ∧ (go (.jal 9 0x10000) st).cur.iss = .fault ∧ (go (.br 1 .ne 0x10000) st).cur.iss = .fault
    ∧ ((go (.ret 5) st).me.shadow.queue.map fun f => f.fr.cause) = [3] := by
  refine ⟨⟨?_, ?_⟩, ?_⟩ <;> decide +kernel
theorem loops : (go (.loop 5 1 2) st).ctx.loops = [{ body := 0x1001, rem := 7, idx := 0, stride := 3 }]
    ∧ (go (.loop 5 0 2) st).ctx.loops = [] ∧ (go (.loop 5 0 2) st).ctx.pc = 0x1020 ∧ (go (.loop 5 0 2) st).ctx.nextIssue = 3 := by
  decide +kernel
def lv : Level := { body := 0x1001, rem := 7, idx := 0, stride := 3 }
theorem witness_loop_limits : (withCtx { ctx0 with loops := [lv, lv, lv, lv, lv] }).ctx.loops.length = 5
    ∧ ((go (.loop 5 0 2) (withCtx { ctx0 with loops := [lv, lv, lv, lv, lv, lv] })).me.shadow.queue.map fun f => f.fr.cause) = [1]
    ∧ (go .lbrk (withCtx { ctx0 with loops := [lv] })).ctx.loops = [] ∧ (go .lbrk (withCtx { ctx0 with loops := [lv] })).ctx.pc = 0x1001
    ∧ ((go .lbrk st).me.shadow.queue.map fun f => f.fr.cause) = [1] := by decide +kernel
theorem trap_records : (go (.trap 0x123) st).me.shadow.queue.map (fun f => (f.fr.cause, f.fr.pos, f.fr.detail)) = [(4, 0x1000, 0x123)]
    ∧ (go (.trap 0x123) st).ctx.pc = 0x1001 ∧ (go (.trap 0x123) st).cur.iss = .ok := by decide +kernel
theorem system_registers : wrote (go (.mfs 9 0x016) st) = some (.s 9, 0, 2) ∧ (go (.mts 1 0x018) st).ctx.mts.map (fun w => (w.num, w.val, w.at'))
      = [(0x018, 7, 2)] ∧ ((go (.mfs 9 0x040) st).me.shadow.queue.map fun f => f.fr.cause) = [2]
    ∧ ((go (.mts 1 0x000) st).me.shadow.queue.map fun f => f.fr.cause) = [2]
    ∧ sysWriteOk 0x008 7 = true ∧ sysWriteOk 0x008 0x20 = false ∧ sysRead st 0x040 = none := by decide +kernel

/-! ### The side vector unit -/

theorem witness_vectors : st.cur.shadow = false ∧ Claim.readableV st 1 ∧ Claim.readableV st 2 ∧ Claim.readableV st 9 ∧ Claim.readableM st 1
    ∧ Claim.readable st 1 ∧ st.me.sys.vmode.toNat.testBit 4 = false ∧ st.me.sys.vmode.toNat / 64 % 4 ≠ 2 := by
  refine ⟨rfl, rfl, rfl, rfl, rfl, rfl, ?_, ?_⟩ <;> decide +kernel
/-- Lanes 3 and 4 of the vector on its way: m1 selects lane 3 and not lane 4. -/
def lanes34 (s : State) : Option (Nat × Nat × Nat) := (wrote s).map fun w => (lane w.2.1 3, lane w.2.1 4, w.2.2)
theorem vector_integers : lanes34 (go (.viadd false 3 1 2 1) st) = some (100, 0xFFFFFFFF, 4)
    ∧ lanes34 (go (.vimul true 3 1 2 1) st) = some (291, 0xFFFFFFFF, 4) ∧ lanes34 (go (.vand 3 1 2 1) st) = some (1, 0xFFFFFFFF, 2)
    ∧ lanes34 (go (.vor 3 1 2 1) st) = some (99, 0xFFFFFFFF, 2) ∧ lanes34 (go (.vxor 3 1 2 1) st) = some (98, 0xFFFFFFFF, 2) := by
  decide +kernel
theorem vector_choices : lanes34 (go (.vmin .i32 9 1 3 0) st) = some (0xFFFFFFFF, 0xFFFFFFFF, 2) ∧ lanes34 (go (.vmin .n32 9 1 3 0) st) = some (3, 4, 2)
    ∧ lanes34 (go (.vmax .i32 9 1 3 0) st) = some (3, 4, 2) ∧ lanes34 (go (.vabs .i32 9 3 0) st) = some (1, 1, 2)
    ∧ lanes34 (go (.vneg .i32 9 1 0) st) = some (2 ^ 32 - 3, 2 ^ 32 - 4, 2) ∧ lanes34 (go (.vsel 9 1 2 1) st) = some (3, 96, 2) := by decide +kernel
theorem vector_moves : lanes34 (go (.vshuf 9 2 1 0) st) = some (97, 96, 2) ∧ lanes34 (go (.vshuf 9 2 2 0) st) = some (0, 0, 2)
    ∧ lanes34 (go (.vbcst (.lane 9 2 31 0)) st) = some (69, 69, 2) ∧ lanes34 (go (.vbcst (.scalar 9 1 1)) st) = some (7, 0, 2)
    ∧ lanes34 (go (.vmov (.vv 9 2 1)) st) = some (97, 0, 2) ∧ lanes34 (go (.vmov (.vs 9 1 4)) st) = some (0, 7, 2)
    ∧ wrote (go (.vmov (.sv 9 2 31)) st) = some (.s 9, 69, 2) := by decide +kernel
/-- 1 + 1 = 2, 1 - 1 = 0, 1 × 1 = 1, 1 × 1 + 0 = 1, 1 / 1 = 1, log2 1 = 0, 2^1 = 2, in FP32. -/
theorem vector_floats : lanes34 (go (.vadd 9 4 4 0) st) = some (0x40000000, 0x40000000, 4) ∧ lanes34 (go (.vsub 9 4 4 0) st) = some (0, 0, 4)
    ∧ lanes34 (go (.vmul 9 4 4 1) st) = some (0x3F800000, 0, 4) ∧ lanes34 (go (.vfma 9 4 4 0) st) = some (0x3F800000, 0x3F800000, 4) := by
  decide +kernel
theorem vector_functions : lanes34 (go (.vrcp 9 4 0) st) = some (0x3F800000, 0x3F800000, 8) ∧ lanes34 (go (.vrsq 9 4 0) st) = some (0x3F800000, 0x3F800000, 8)
    ∧ lanes34 (go (.vexp2 9 4 0) st) = some (0x40000000, 0x40000000, 8) ∧ lanes34 (go (.vlog2 9 4 0) st) = some (0, 0, 8) := by decide +kernel
theorem vector_conversions : lanes34 (go (.vcvt 1 10 9 1 0) st) = some (0x40400000, 0x40800000, 4)
    ∧ lanes34 (go (.vcvt 2 1 9 4 0) st) = some (0x3F80, 0x3F80, 4) ∧ lanes34 (go (.vcvt 1 1 9 3 1) st) = some (0xFFFFFFFF, 0, 4) := by decide +kernel
theorem vector_compares : wrote (go (.vcmp .i32 .lt 3 1 2 0) st) = some (.m 3, 2 ^ 32 - 1, 2) ∧ wrote (go (.vcmp .i32 .eq 1 1 1 2) st) = some (.m 1, 0xF, 2)
    ∧ wrote (go (.vcmp .i32 .gt 1 1 2 2) st) = some (.m 1, 0xB, 2) := by decide +kernel
theorem masks : wrote (go (.mand 3 1 2) st) = some (.m 3, 4, 1) ∧ wrote (go (.mor 3 1 2) st) = some (.m 3, 0xF, 1)
    ∧ wrote (go (.mnot 3 1) st) = some (.m 3, 0xFFFFFFF0, 1) ∧ wrote (go (.mpop 9 0) st) = some (.s 9, 32, 1) := by decide +kernel
theorem witness_reduction : (st.ctx.getM 2).toNat = 2 ^ 2 ∧ wrote (go (.vred .n32 .sum 9 1 2) st) = some (.v 9, 2, 6)
    ∧ wrote (go (.vred .n32 .sum 9 1 0) st) = some (.v 9, 496, 6) ∧ wrote (go (.vred .i32 .min 9 1 1) st) = some (.v 9, 0, 6) := by decide +kernel
/-- Under a VMODE: v5 holds a NaN, +0, a subnormal, −1, the smallest integer and 1; v6 holds 1, −0, 0, 1, the smallest integer and 1. -/
def vst (vm : W64) : State :=
  let v (l : List Nat) : VReg := vec fun i => l.getD i 0
  let c := { ctx0 with
    m := [(1, 0x3F), (2, 4)]
    v := [(5, v [0x7FC00001, 0, 1, 0xBF800000, 0x80000000, 0x3F800000]), (6, v [0x3F800000, 0x80000000, 0, 0x3F800000, 0x80000000, 0x3F800000])] }
  st.setTile 0 { tile0 with ctx := c, sys := { tile0.sys with vmode := vm, gens := tabulate 32 fun i => i + 1 } }
def lanes6 (s : State) : Option (List Nat) := (wrote s).map fun w => (List.range 6).map (lane w.2.1)
theorem witness_vector_modes : (vst 16).cur.shadow = false ∧ Claim.readableV (vst 16) 5 ∧ Claim.readableV (vst 16) 6 ∧ Claim.readableM (vst 16) 1
    ∧ lanes6 (go (.vmin .f32 9 5 6 1) (vst 0)) = some [0x7FC00000, 0x80000000, 0, 0xBF800000, 0x80000000, 0x3F800000]
    ∧ lanes6 (go (.vmax .f32 9 5 6 1) (vst 64)) = some [0x7FC00000, 0, 0, 0x3F800000, 0x80000000, 0x3F800000]
    ∧ lanes6 (go (.vabs .i32 9 5 1) (vst 16)) = some [0x7FC00001, 0, 1, 0x40800000, 0x7FFFFFFF, 0x3F800000]
    ∧ lanes6 (go (.vneg .f32 9 5 1) (vst 64)) = some [0x7FC00000, 0x80000000, 0x80000001, 0x3F800000, 0, 0xBF800000]
    ∧ lanes6 (go (.viadd false 9 5 6 1) (vst 16)) = some [0x7FFFFFFF, 0x80000000, 1, 0xFF000000, 0x80000000, 0x7F000000] := by
  refine ⟨rfl, rfl, rfl, rfl, ?_⟩
  decide +kernel
/-- IV, DZ, saturations, and the trap with its lanes. -/
def brought (s : State) : Option (List Nat) := s.ctx.pend.getLast?.map fun p => [p.fl.iv.toNat, p.fl.dz.toNat, p.fl.sat] ++ (match p.trap with | some (c, l) => [c, l] | none => [])
theorem vector_flags : brought (go (.viadd false 9 5 6 1) (vst 16)) = some [0, 0, 2]
    ∧ brought (go (.vmin .f32 9 5 6 1) (vst 128)) = some [1, 0, 0, 0x30, 1]
    ∧ brought (go (.vrcp 9 5 1) (vst 128)) = some [1, 1, 0, 0x30, 23] ∧ brought (go (.vrcp 9 5 1) (vst 0)) = some [1, 1, 0]
    ∧ brought (go (.vlog2 9 5 2) (vst 64)) = some [0, 1, 0] := by decide +kernel
/-- Four lanes of 1 under stochastic rounding: lane 0 draws five times, lane 1 not at all. -/
theorem witness_stochastic_sum : (let s := vst 4
    let t := go (.vred .f32 .sum 9 5 2) (s.setTile 0 { s.tile 0 with ctx := { s.ctx with v := [(5, vec fun _ => 0x3F800000)], m := [(2, 15)] } })
    ((vmodeOf 4).sr, wrote t) = (true, some (.v 9, 0x40800000, 6)) ∧ t.me.sys.gens.getD 1 0 = 2 ∧ t.me.sys.gens.getD 0 0 = iterate 5 1) := by decide +kernel
/-- 3/2 lies between 1 and 2 of e2m1's neighbours 1 and 1.5, and 7/2 is halfway between 3 and 4 for it and for an integer. -/
theorem witness_rounding : Claim.codeMag 23 127 0x3F800000 ≤ Claim.mag 3 (-1) ∧ Claim.mag 3 (-1) < Claim.codeMag 23 127 0x40000000
    ∧ Claim.codeMag 1 1 5 = Claim.mag 3 0 ∧ Claim.codeMag 1 1 6 = Claim.mag 4 0
    ∧ (roundTo 6 { rnd := 0 } false false (.num false 7 (-1) false)).code = 6 ∧ (roundTo 8 { rnd := 0 } false false (.num true 7 (-1) false)).code = 0xFC
    ∧ (roundTo 6 { rnd := 1 } false false (.num false 7 (-1) false)).code = 5 ∧ (roundTo 7 { rnd := 0 } false false (.num false 3 (-1) false)).code = 128
    ∧ (roundTo 6 { rnd := 0, draw := some (2 ^ 31 - 1) } false false (.num false 7 (-1) false)).code = 6
    ∧ (roundTo 6 { rnd := 0, draw := some (2 ^ 31) } false false (.num false 7 (-1) false)).code = 5 := by decide +kernel

/-! ### Landing (R221, R222, R256, R259) -/

def pend0 : Pend := { dest := .s 9, val := 5, bound := 3, bno := 1, ord := 4, pc := 0x1000 }
def landing (p : Pend) (tc : Nat) : State := st.setTile 0 { tile0 with tc := tc, ctx := { ctx0 with pend := [p] } }
theorem witness_landing : ((landing pend0 3).tile 0).ctx.pend = [pend0] ∧ ((landing pend0 3).tile 0).ctx.mts = [] ∧ pend0.trap = none
    ∧ tget 0 ((landing pend0 3).tile 0).ctx.lastW (destKey pend0.dest) ≤ pend0.ord
    ∧ (go (.fixedLatencyWriteback 0) (landing pend0 3)).ctx.getS 9 = 5 ∧ (go (.fixedLatencyWriteback 0) (landing pend0 3)).ctx.pend = []
    ∧ (go (.fixedLatencyWriteback 0) (landing pend0 2)).ctx.getS 9 = 0 ∧ (go (.fixedLatencyWriteback 0) (landing pend0 2)).ctx.pend = [pend0] := by
  decide +kernel
theorem landing_discards : ((go (.fixedLatencyWriteback 0) (landing { pend0 with dest := .s 0 } 9)).ctx.s) = ctx0.s
    ∧ ((go (.fixedLatencyWriteback 0) (landing { pend0 with dest := .m 0 } 9)).ctx.m) = ctx0.m
    ∧ ((go (.fixedLatencyWriteback 0) (landing { pend0 with dest := .v 0 } 9)).ctx.getV 0) = 5 := by decide +kernel
def landingMts (num : Nat) (v : W64) (tc : Nat) : State :=
  st.setTile 0 { tile0 with tc := tc, ctx := { ctx0 with mts := [{ num := num, val := v, at' := 3 }] } }
theorem witness_mts_lands : ((landingMts 8 5 3).tile 0).ctx.pend = [] ∧ ((landingMts 8 5 3).tile 0).ctx.mts = [{ num := 8, val := 5, at' := 3 }]
    ∧ (go (.fixedLatencyWriteback 0) (landingMts 0x008 5 3)).me.sys.vmode = 5 ∧ (go (.fixedLatencyWriteback 0) (landingMts 0x00A 5 3)).me.sys.vflags = 5
    ∧ (go (.fixedLatencyWriteback 0) (landingMts 0x01F 5 3)).me.sys.th = [(7, 5)] ∧ (go (.fixedLatencyWriteback 0) (landingMts 0x018 5 3)).me.sys.th = [(0, 5)]
    ∧ (go (.fixedLatencyWriteback 0) (landingMts 0x009 5 3)).me.sys.vseed = 5 ∧ (go (.fixedLatencyWriteback 0) (landingMts 0x008 5 1)).me.sys.vmode = 0 := by
  decide +kernel
theorem witness_vector_trap : ((landing { pend0 with trap := some (0x32, 9) } 3).tile 0).shadow.queue.length < 8
    ∧ (go (.sideVectorTrap 0) (landing { pend0 with trap := some (0x32, 9) } 3)).me.shadow.queue.map (fun f => (f.fr.cause, f.fr.detail, f.fr.pos))
      = [(0x32, 9, 0x1000)] ∧ (go (.sideVectorTrap 0) (landing { pend0 with trap := some (0x32, 9) } 3)).ctx.pend = [] := by decide +kernel

/-! ### Slot B: memory (R274-R282, R331-R340) -/

theorem witness_memory_issue : Claim.plainTask st ∧ Claim.readable st 3 ∧ Claim.readable st 4 ∧ Claim.readableV st 1 ∧ Claim.readableM st 1
    ∧ Claim.canFault st ∧ ∀ k, k < 4 → fenceBlocks st.ctx k = false := by
  refine ⟨⟨?_, ?_⟩, rfl, rfl, rfl, rfl, ⟨?_, ?_⟩, ?_⟩ <;> decide +kernel
/-- Kind of the last operation issued. -/
def issued (s : State) : Option OpKind := s.ctx.ops.getLast?.map (·.kind)
theorem memory_issue : issued (go (.ld .i16 9 3 0x7FF) st) = some (.ld .i16 9 0x1FFE) ∧ (go (.ld .i16 9 3 0x7FF) st).ctx.busy = [1]
    ∧ issued (go (.st 3 2 3 1) st) = some (.st 8 0x2008 0xFFFFFFFFFFFFFFFB) ∧ issued (go (.st 0 2 3 1) st) = some (.st 1 0x2001 0xFB)
    ∧ issued (go (.ldv 1 3 1 2) st) = some (.ldv 1 0x2080 4 (vec fun l => l).toNat)
    ∧ issued (go (.stv 1 3 0 1) st) = some (.stv 0x2000 (vec fun l => l).toNat 0xF) := by decide +kernel
theorem atomic_issue : issued (go (.amo .max true true 3 2 9 3 1) st) = some (.amo .max true true 3 2 9 0x2000 7)
    ∧ issued (go (.cas false 1 4 1 3 5) st) = some (.cas false 1 4 1 0x2000 7 3) ∧ issued (go (.fence 3 4) st) = some (.fence 3 4) := by
  decide +kernel
theorem misaligned : ((go (.ld .x64 9 4 0) st).me.shadow.queue.map fun f => (f.fr.cause, f.fr.addr)) = [(0x13, 0x21)]
    ∧ ((go (.st 1 9 4 0) st).me.shadow.queue.map fun f => f.fr.cause) = [0x13] ∧ ((go (.ldv 9 4 0 0) st).me.shadow.queue.map fun f => f.fr.cause) = [0x13]
    ∧ ((go (.stv 9 4 0 0) st).me.shadow.queue.map fun f => f.fr.cause) = [0x13] ∧ (go (.amo .add false false 0 0 9 4 1) st).cur.iss = .fault
    ∧ (go (.cas true 0 0 9 4 1) st).cur.iss = .fault ∧ (go (.ld .n8 9 4 0) st).cur.iss = .ok := by decide +kernel

/-- Tile 0 holds one operation of the task, 16 bytes of memory at 0x2000 listed. -/
def op0 (k : OpKind) : Op := { id := 9, tag := 1, ord := 4, bno := 1, pc := 0x1000, kind := k }
def mem0 : Mem := { cells := [(0x2000, 0xFE), (0x2001, 0xFF), (0x2003, 0x80), (0x2007, 0x7F), (0x207F, 0x11)] }
def stOp (k : OpKind) : State := { withCtx { ctx0 with busy := [1, 2], ops := [op0 k] } with mem := mem0 }
/-- The physical address the operation reaches. -/
def reached (k : OpKind) (poison mem : Bool) : Option Nat :=
  match reachAccess (stOp k) 0 (op0 k) poison mem with
  | .inr (pa, _) => some pa
  | .inl _ => none
theorem witness_operation (k : OpKind) : opOf ((stOp k).tile 0).ctx 9 = some (op0 k) ∧ (op0 k).st = .waiting ∧ (stOp k).mem.wf = true
    ∧ ((stOp k).task (((stOp k).tile 0).task.getD 0)).retry = false ∧ ((stOp k).tile 0).ctx.lastW = [] := by
  refine ⟨rfl, rfl, ?_, rfl, rfl⟩
  show mem0.wf = true
  decide +kernel
theorem witness_store : reached (.st 8 0x2000 0x0102030405060708) false false = some 0x2000
    ∧ reached (.stv 0x2000 (vec fun l => l + 1).toNat 6) false false = some 0x2000
    ∧ ∀ i, i ≤ 128 → (place (0x2000 + i)).isMem = true := by decide +kernel
theorem stores : let r := go (.storePerformed 0 9) (stOp (.st 4 0x2000 0x01020304))
    [r.byte 0x2000, r.byte 0x2003, r.byte 0x2004, r.byte 0x2007] = [4, 1, 0, 0x7F] ∧ (r.tile 0).ctx.busy = [2] ∧ (r.tile 0).ctx.ops = []
    ∧ let q := go (.storePerformed 0 9) (stOp (.stv 0x2000 (vec fun l => l + 1).toNat 6))
      [q.byte 0x2000, q.byte 0x2004, q.byte 0x2007, q.byte 0x2008, q.byte 0x207F] = [0xFE, 2, 0, 3, 0x11] := by decide +kernel
/-- A task with RETRY and a log of a number of lines, whose store has been issued. -/
def retrySt (log : List (Nat × List (Option Byte))) (lines : Nat) : State :=
  (stOp (.st 4 0x2000 0x01020304)).setTask 1 { task1 with trec := { asid := 1, flags := 1 }, log := log, plan := [{ off := 0, size := 128 * lines, first := 0, last := 0, kind := 3 }] }
def line0 (a : Nat) : Nat × List (Option Byte) := (a, List.replicate 64 none)
theorem witness_retry : ((retrySt [] 2).task 1).staged 0x2000 = true ∧ (match reachAccess (retrySt [] 2) 0 (op0 (.st 4 0x2000 0x01020304)) false false with | .inr (pa, _) => pa | .inl _ => 0) = 0x2000
    ∧ (let r := go (.storePerformed 0 9) (retrySt [] 2); (r.byte 0x2000, (r.task 1).logView 0x2000 [0], (r.task 1).logView 0x2004 [9]) = (0xFE, [4], [9]))
    ∧ (let r := go (.storePerformed 0 9) (retrySt [line0 0x3000] 1); ((r.tile 0).shadow.queue.map fun f => f.fr.cause, (r.task 1).log.length) = ([0x1A], 1)) := by
  decide +kernel
theorem witness_load : reached (.ld .i16 9 0x2000) true false = some 0x2000 ∧ reached (.ldv 9 0x2000 3 7) true false = some 0x2000 := by
  decide +kernel
theorem loads : [LdTy.n8, .i8, .n16, .i16, .n32, .i32, .x64].map
      (fun ty => ((go (.loadDataReturn 0 9) (stOp (.ld ty 9 0x2000))).tile 0).ctx.getS 9)
    = [0xFE, 0xFFFFFFFFFFFFFFFE, 0xFFFE, 0xFFFFFFFFFFFFFFFE, 0x8000FFFE, 0xFFFFFFFF8000FFFE, 0x7F0000008000FFFE]
    ∧ (let r := go (.loadDataReturn 0 9) (stOp (.ldv 9 0x2000 0x80000003 7))
       [lane ((r.tile 0).ctx.getV 9).toNat 0, lane ((r.tile 0).ctx.getV 9).toNat 1, lane ((r.tile 0).ctx.getV 9).toNat 2,
        lane ((r.tile 0).ctx.getV 9).toNat 31] = [0x8000FFFE, 0x7F000000, 0, 0x11000000]) := by decide +kernel
theorem witness_atomic : reached (.amo .add false false 0 4 9 0x2000 7) true true = some 0x2000
    ∧ reached (.cas true 0 4 9 0x2000 7 8) true true = some 0x2000 := by decide +kernel
/-- The old word is 0x8000FFFE; `add` of 2, and signed against unsigned `min`. -/
theorem atomics : (let r := go (.loadDataReturn 0 9) (stOp (.amo .add false false 0 4 9 0x2000 2))
      (natOfBytes ((List.range 4).map fun i => r.byte (0x2000 + i)), ((r.tile 0).ctx.getS 9)) = (0x80010000, 0xFFFFFFFF8000FFFE))
    ∧ (let r := go (.loadDataReturn 0 9) (stOp (.amo .min true false 0 4 9 0x2000 2)); natOfBytes ((List.range 4).map fun i => r.byte (0x2000 + i)) = 2)
    ∧ (let r := go (.loadDataReturn 0 9) (stOp (.amo .min false false 0 4 9 0x2000 2)); natOfBytes ((List.range 4).map fun i => r.byte (0x2000 + i)) = 0x8000FFFE)
    ∧ (let r := go (.loadDataReturn 0 9) (stOp (.cas false 0 4 9 0x2000 0x8000FFFE 5)); natOfBytes ((List.range 4).map fun i => r.byte (0x2000 + i)) = 5)
    ∧ (let r := go (.loadDataReturn 0 9) (stOp (.cas false 0 4 9 0x2000 0 5)); natOfBytes ((List.range 4).map fun i => r.byte (0x2000 + i)) = 0x8000FFFE) := by decide +kernel
theorem witness_fence : opOf ((stOp (.fence 15 4)).tile 0).ctx 9 = some (op0 (.fence 15 4))
    ∧ (∀ p ∈ ((stOp (.fence 15 4)).tile 0).ctx.ops, p.ord < (op0 (.fence 15 4)).ord → p.kind.kinds &&& 15 = 0 ∧ p.kind.colFence = false)
    ∧ tasksQuiet (stOp (.fence 15 4)) 0 (((stOp (.fence 15 4)).tile 0).task.getD 0) = true
    ∧ ((go (.fenceComplete 0 9) (stOp (.fence 15 4))).tile 0).ctx.ops = []
    ∧ ((go (.fenceComplete 0 9) (stOp (.fence 15 4))).tile 0).ctx.busy = [2] := by decide +kernel

/-! ### Accumulator store, weight buffer and array (R179-R202) -/

theorem witness_acc_issue : st.cur.shadow = false ∧ Claim.readable st 5 ∧ Claim.readable st 8 ∧ Claim.readableV st 1 ∧ st.me.arr.winBad = false
    ∧ 3 + 28 + 1 ≤ 16 * st.me.arr.winCount ∧ ¬ 3 + 29 + 1 ≤ 16 * st.me.arr.winCount ∧ preloadPending st.me 1 = false
    ∧ (st.me.arr.slotOf 1).st ≠ 1 ∧ st.me.arr.unfed.length < 2 := by
  refine ⟨?_, rfl, rfl, rfl, ?_, ?_, ?_, ?_, ?_, ?_⟩ <;> decide +kernel
theorem acc_issue : issued (go (.ldacc 9 5 2 28) st) = some (.ldacc 9 31 2 0) ∧ (go (.ldacc 9 5 2 29) st).cur.iss = .fault
    ∧ issued (go (.stacc 1 5 3 28) st) = some (.stacc 31 3 (vec fun l => l).toNat) ∧ (go (.stacc 1 5 2 29) st).cur.iss = .fault
    ∧ issued (go (.accz 5 1 5) st) = some (.accz 3 7 5)
    ∧ ((go (.accz 5 0 5) st).me.shadow.queue.map fun f => f.fr.cause) = [0x0A] ∧ (go (.accz 4 5 15) st).cur.iss = .fault := by decide +kernel
theorem weight_and_matrix_issue : ((go (.wtl 1) st).me.arr.slotOf 1).st = 1 ∧ issued (go (.wtl 1) st) = some (.wtl 1)
    ∧ ((go (.mma 5 1 0 1 2 true true) st).me.arr.mmas.map fun m => (m.row0, m.m, m.p, m.slot, m.acc, m.ds)) = [(3, 7, 2, 2, true, true)]
    ∧ issued (go (.mma 5 1 0 1 2 true true) st) = some .mma
    ∧ ((go (.mma 5 1 0 3 2 true true) st).me.arr.mmas.map fun m => m.p) = [4] ∧ (go (.mma 5 0 0 0 2 true true) st).cur.iss = .fault
    ∧ ((go (.mma 4 1 0 0 2 true true) st).me.shadow.queue.map fun f => f.fr.cause) = [0x0A] := by decide +kernel
def accSt (k : OpKind) : State :=
  st.setTile 0 { tile0 with ctx := { ctx0 with ops := [op0 k] }, arr := { winCount := 2, acc := [(1 * 128 + 32, 5), (1 * 128 + 64, 6), (2 * 128, 7)] } }
theorem witness_acc_write : ((accSt (.stacc 1 1 9)).tile 0).held = false ∧ opOf ((accSt (.stacc 1 1 9)).tile 0).ctx 9 = some (op0 (.stacc 1 1 9))
    ∧ wordsClear ((accSt (.stacc 1 1 9)).tile 0) 1 (groupCols 1) 4 0 = true
    ∧ (∀ i, i < 2 → wordsClear ((accSt (.accz 1 2 2)).tile 0) (1 + i) (((List.range 4).filter fun g => bit 2 g).map groupCols).flatten 4 0 = true)
    ∧ ∀ k, Claim.noStaging ((accSt k).tile 0).arr 1 ∧ Claim.noStaging ((accSt k).tile 0).arr 2 := by
  refine ⟨by decide +kernel, by decide +kernel, by decide +kernel, by decide +kernel, fun k => ⟨⟨?_, fun _ _ => rfl⟩, ?_, fun _ _ => rfl⟩⟩
  all_goals exact fun m h => absurd h (List.not_mem_nil)
theorem acc_writes : (let a := ((go (.accWritePerformed 0 9) (accSt (.stacc 1 1 9))).tile 0).arr
      [a.word 1 32, a.word 1 33, a.word 1 64, a.word 2 0] = [9, 0, 6, 7])
    ∧ (let a := ((go (.accWritePerformed 0 9) (accSt (.accz 1 2 3))).tile 0).arr
      [a.word 1 32, a.word 1 64, a.word 2 0] = [0, 6, 0]) := by decide +kernel
/-- Word 32 of row 1 has been replaced by 5 once; group 1 is read. Then two sums of row 1 land. -/
theorem witness_acc_read : (let s := accSt (.ldacc 9 1 1 0)
    (s.tile 0).held = false ∧ opOf (s.tile 0).ctx 9 = some (op0 (.ldacc 9 1 1 0)) ∧ (s.tile 0).arr.accBad = []
    ∧ lane (((go (.loadDataReturn 0 9) s).tile 0).ctx.getV 9).toNat 0 = 5 ∧ lane (((go (.loadDataReturn 0 9) s).tile 0).ctx.getV 9).toNat 1 = 0) := by decide +kernel
def sumSt (add int : Bool) : State :=
  st.setTile 0 { tile0 with ran := true, arr := { winCount := 2, clk := 200, acc := [(128, 0x3F800000), (129, 3)]
                                                  contribs := [{ mma := 1, ord := 4, pass := 0, row := 1, sums := [0x40000000, 5], add := add, int := int, base := 0, left := [0, 1] }] } }
theorem witness_sums : (let x := (sumSt true false).tile 0
    (∀ k ∈ [0, 1], wordsClear x 1 [k] 4 0 = true) ∧ x.arr.dsOn 1 4 = none)
    ∧ (let y := ((endCycle 0 (sumSt true false)).tile 0).arr; (y.word 1 0, y.contribs.map (·.left)) = (0x40400000, []))
    ∧ ((endCycle 0 (sumSt true true)).tile 0).arr.word 1 1 = 8 ∧ ((endCycle 0 (sumSt false true)).tile 0).arr.word 1 0 = 0x40000000 := by decide +kernel
/-- Widening of n8 value 32, a 2 × 16 transpose of 32-bit elements, narrowing of lanes to n8 values 32 to 63. -/
theorem transforms : st.me.sys.vmode.toNat / 64 % 4 ≠ 2 ∧ lanes34 (go (.xexp 8 9 1 0) st) = some (0, 1, 6)
    ∧ lanes34 (go (.xtrn .w32 1 9 1) st) = some (17, 2, 10) ∧ ((wrote (go (.xcvt 8 9 1 1) st)).map fun w => (lane w.2.1 0, lane w.2.1 8, lane w.2.1 16))
      = some (0, 0x03020100, 0) := by decide +kernel

/-- A bf16 image's header: K 256, 65536 data bytes, 128 side bytes, no outliers (R181, R182). -/
def hdr : Line := 2 + 2 ^ 24 + 2 ^ 48 + 2 ^ 71
def mma0 : Mma := { id := 1, op := some 9, ord := 4, pc := 0x1000, issueT := 1, arr := some (0, 0), row0 := 3, m := 2, p := 1, slot := 1, pair := 0, acc := true, ds := false }
def atile0 : ATile := { slot := 1, gen := 0, pair := 0, toks := [(0, hdr)] }
def feedTok : Tok := { vc := 2, val := 0x3F80 }
def feeds : Collar :=
  { regions := [(0, { task := some 1, emask := 2 ^ 256 - 1 })]
    elems := (List.range 8).map fun j => (4 * j + 3, { cur := [(0, 0)], planes := [(0, { loaded := true, op := 0x84000000 })], inbox := [feedTok] }) }
def arrSt (m : Mma) (pre : Option ATile) : State :=
  { st.setTile 0 { tile0 with tc := 5, arr := { clk := 5, winCount := 2, slots := [(1, { st := 2, toks := [(0, hdr)] })], mmas := [m], preload := pre, resident := some atile0 } } with
    collars := [(0, feeds)] }
def mmaPre : Mma := { mma0 with pre := some 5 }
def mmaRun : Mma := { mma0 with started := true, startT := 4 }
theorem witness_preload : nextPreload ((arrSt mma0 none).tile 0).arr = some (mma0, 0, 2) ∧ ((arrSt mma0 none).tile 0).still = false ∧ passCheck (arrSt mma0 none) 0 mma0 0 = none
    ∧ ((go (.decompressorPreload 0) (arrSt mma0 none)).tile 0).arr.preload = some atile0
    ∧ holdWanted (arrSt mma0 none) 0 = false ∧ ((go (.tileHoldRelease 0) (arrSt mma0 none)).tile 0).held = false := by decide +kernel
theorem witness_pass_start : ((arrSt mmaPre (some atile0)).tile 0).arr.unfed = mmaPre :: [] ∧ mmaPre.pre = some 5 ∧ 5 ≤ ((arrSt mmaPre (some atile0)).tile 0).arr.clk
    ∧ ((go (.passStart 0) (arrSt mmaPre (some atile0))).tile 0).arr.preload = none
    ∧ (((go (.passStart 0) (arrSt mmaPre (some atile0))).tile 0).arr.mmas.map fun m => (m.started, m.startT)) = [(true, 5)] := by decide +kernel
theorem witness_row : rowDue ((arrSt mmaRun none).tile 0) = some mmaRun ∧ rowTokens (arrSt mmaRun none) 0 mmaRun = some (List.replicate 8 (feedTok, none))
    ∧ mmaRun.pair < 9 ∧ (∀ q ∈ List.replicate 8 (feedTok, (none : Option Tok)), q.2 = none)
    ∧ starved { arrSt mmaRun none with collars := [] } 0 = true ∧ holdWanted { arrSt mmaRun none with collars := [] } 0 = true
    ∧ ((go (.tileHoldAssert 0) { arrSt mmaRun none with collars := [] }).tile 0).held = true := by decide +kernel
/-- The weights after the header are zero, so the sums are; the row is accepted in array cycle 5 for row 3. -/
theorem row_accept : ((go (.aRowAccept 0) (arrSt mmaRun none)).tile 0).arr.contribs.map (fun c => (c.row, c.base, c.add, c.pass)) = [(3, 5, true, 0)] := by
  decide +kernel
theorem witness_mma_end : (let s := arrSt { mmaRun with fed := true } none
    (s.tile 0).arr.mmas.find? (fun m => m.id == 1) = some { mmaRun with fed := true } ∧ (∀ c ∈ (s.tile 0).arr.contribs, c.mma ≠ 1)
    ∧ ((go (.mmaComplete 0 1) s).tile 0).arr.mmas = []) := by decide +kernel
def loadSt : State := st.setTile 0 { tile0 with arr := { slots := [(1, { st := 1, toks := [(0, hdr)], eos := [(0, 1), (1, 1), (2, 1), (3, 1)], got := [(0, 257), (1, 257), (2, 257), (3, 256)] })] } }
theorem witness_weight_load : (tget ({} : WSlot) (loadSt.tile 0).arr.slots 1).st = 1 ∧ (∀ j, j < 4 → tget 0 (tget ({} : WSlot) (loadSt.tile 0).arr.slots 1).eos j ≠ 0)
    ∧ (tget ({} : WSlot) (loadSt.tile 0).arr.slots 1).discard = false
    ∧ (tget ({} : WSlot) ((go (.weightImageComplete 0 1) loadSt).tile 0).arr.slots 1).st = 2 := by decide +kernel
theorem array_registers : (State.reset.tile 0).task = none ∧ (st.tile 0).task.isSome ∧ (st.tile 0).shadow.queue.length < 8
    ∧ ((go (.arrmapWrite 0 0xFFFFFFFF) State.reset).tile 0).arr.arrmap = 0x9F9F9F9F
    ∧ ((go (.accspareWrite 0 0x1FFFF) State.reset).tile 0).arr.accspare = 0xFFFF ∧ ((go (.dcclr 0) st).tile 0).arr.rsvcnt = 0
    ∧ (go (.arrayCheck 0 5) st).me.shadow.queue.map (fun f => f.fr.cause) = [0x35] := by decide +kernel

/-! ### Slot B: collar, commands, tokens, barriers (R288-R305) -/

/-- Region 0 belongs to task 1, slot 1 armed in plane 1; every FEED and DRN stands in it; element 0 holds agld, element
1 pgen. -/
def slotElem (op : Nat) : Elem := { cur := [(1, 1)], planes := [(1, { loaded := true, op := op })] }
def collar1 : Collar :=
  { regions := [(0, { task := some 1, emask := 2 ^ 256 - 1, armed := [1], staged := [(1, (2, false)), (2, (3, true))] })]
    elems := [(0, slotElem 0x7C000000), (1, slotElem 0x04000000)] }
def stR : State := { st with collars := [(0, collar1)] }
def region1 : Region := { task := some 1, emask := 2 ^ 256 - 1, armed := [1], staged := [(1, (2, false)), (2, (3, true))] }
theorem witness_fire : Claim.owns stR 0 region1 ∧ Claim.readable stR 4 ∧ region1.armed.contains 1 = true ∧ region1.armed.contains 2 = false
    ∧ arrOk (stR.collar stR.cur.unit) 0 = true ∧ stR.me.arr.winBad = false ∧ stR.me.arr.drains.length < 2
    ∧ startFull stR 1 (startElems stR region1 1) = false ∧ fenceBlocks stR.ctx 8 = false := by
  refine ⟨⟨?_, ?_⟩, rfl, ?_, ?_, ?_, ?_, ?_, ?_, ?_⟩ <;> decide +kernel
theorem fires : (let t := go (.fire 0 1 true true true true 8) (withCtx { ctx0 with s := [(8, 0x00020005)] })
      t.cur.iss = .fault) ∧ (let t := go (.fire 0 1 true true true true 5) stR
      (t.me.arr.ctx, (t.collar 0).starts.map (fun x => (x.elem, x.slot, x.dom, x.at')), t.me.arr.drains.map fun d => (d.first, d.cnt, d.dom))
        = (some (0, 1), [(0, 1, 1, 52), (1, 1, 1, 52)], [(3, 1, true)]))
    ∧ ((go (.fire 0 2 false true false false 5) stR).me.shadow.queue.map fun f => f.fr.cause) = [0x26] := by decide +kernel
theorem witness_configuration : myRegion stR 0 = some region1 ∧ myRegion stR 1 = none ∧ (∀ w ∈ region1.switches, w.slot ≠ 1) ∧ thas region1.staged 1 = true
    ∧ ((go (.cfgs 0 2 3 31) stR).collar 0).loads.map (fun l => (l.rgn, l.slot, l.plane, l.img)) = [(0, 2, 3, 31)]
    ∧ (((go (.cfgw 0 1) stR).collar 0).region 0).switches.map (fun w => (w.slot, w.to', w.partial', w.arrive)) = [(1, 2, false, 52)]
    ∧ (((go (.cfgp 0 2) stR).collar 0).region 0).switches.map (fun w => (w.slot, w.to', w.partial', w.arrive)) = [(2, 3, true, 52)]
    ∧ ((go (.cfgs 1 2 3 31) stR).me.shadow.queue.map fun f => f.fr.cause) = [0x26] ∧ (go (.cfgw 1 1) stR).cur.iss = .fault
    ∧ (go (.cfgp 1 1) stR).cur.iss = .fault := by decide +kernel
/-- Bytes of a command block at 0x2000: its code first. -/
def cmdSt (c : Byte) : State := { st with mem := { cells := [(0x2000, c)] } }
def readLen (r : Except (Option (Nat × Nat)) (List Byte) × State) : Nat :=
  match r.1 with
  | .ok b => b.length
  | .error _ => 0
theorem witness_commands : (let s := cmdSt 1
    (s.token s.myTask 5).st ≠ 1 ∧ fenceBlocks s.ctx 4 = false ∧ storePending s.ctx (0x2000, 64) = false
    ∧ readLen (tileRead s s.cur.unit (.task s.myTask) 3 0 0x2000 64 pRD 4) = 64 ∧ storePending s.ctx (0, 128) = false
    ∧ engFree s (.tile 0) = true ∧ engFree s .eth = true ∧ engFree s (.link 0 0) = true) := by decide +kernel
theorem commands_accepted : (let t := go (.copy 3 5 0) (cmdSt 1)
      ((t.eng (.tile 0)).q.map fun c => (c.tkp, c.task, c.block.take 3)) = [(5, some 1, [1, 0, 5])] ∧ (t.token 1 5).st = 1)
    ∧ ((go (.netr 3 5 0) (cmdSt 4)).eng .eth).q.length = 1 ∧ ((go (.netw 3 5 0) (cmdSt 5)).eng .eth).q.length = 1
    ∧ ((go (.stgr 3 5 0) (cmdSt 6)).eng .eth).q.length = 1 ∧ ((go (.stgw 3 5 0) (cmdSt 7)).eng .eth).q.length = 1
    ∧ ((go (.copy 4 5 0) st).me.shadow.queue.map fun f => f.fr.cause) = [0x16]
    ∧ ((go (.netr 3 5 0) ((cmdSt 4).setToken 1 5 { word := 1 })).me.shadow.queue.map fun f => (f.fr.cause, f.fr.detail)) = [(0x0D, 5)] := by
  decide +kernel
theorem token_words : wrote (go (.tkq 9 5 true) (st.setToken 1 5 { word := 0x1002 })) = some (.s 9, 0x1002, 3)
    ∧ ((go (.tkq 9 5 true) (st.setToken 1 5 { word := 0x1002 })).token 1 5).st = 0
    ∧ ((go (.tkq 9 5 true) (st.setToken 1 5 { word := 1 })).token 1 5).st = 1 ∧ issued (go (.tkw 9 5 false) st) = some (.tkw 9 5 false) := by
  decide +kernel
def tkwSt : State := (stOp (.tkw 9 5 true)).setToken 1 5 { word := 0x703 }
theorem witness_token_wait : opOf (tkwSt.tile 0).ctx 9 = some (op0 (.tkw 9 5 true)) ∧ tget 0 (tkwSt.tile 0).ctx.lastW (destKey (.s 9)) ≤ 4
    ∧ (tkwSt.token ((tkwSt.tile 0).task.getD 0) 5).st ≠ 1 ∧ ((go (.loadDataReturn 0 9) tkwSt).tile 0).ctx.getS 9 = 0x703
    ∧ ((go (.loadDataReturn 0 9) tkwSt).token 1 5).word = 0 := by decide +kernel

/-- Barrier 0x105 (home 1, identity 5), with members. -/
def barSt (x : Barrier) (k : Task) : State := { st with barriers := [(0x105, x)], tasks := [(1, k)] }
def two : Barrier := { members := [1, 2], arrived := [2], phase := 3 }
theorem witness_barriers : Claim.plainTask (barSt two task1) ∧ accessPending (barSt two task1).ctx = false ∧ (1 ∈ two.members) ∧ (1 ∉ two.arrived) := by
  refine ⟨⟨?_, ?_⟩, ?_, ?_, ?_⟩ <;> decide +kernel
theorem barriers : (let t := go (.bjoin 1 5 true) (barSt {} task1); ((t.bar 0x105).members, (t.task 1).stepGroup) = ([1], some 0x105))
    ∧ ((go (.bleave 1 5) (barSt two task1)).bar 0x105).members = [2] ∧ ((go (.barv 1 5) (barSt two task1)).bar 0x105).arrived = [2, 1]
    ∧ (go (.bwait 1 5) (barSt two task1)).cur.iss = .ok
    ∧ (let t := go (.barrierPhaseComplete 0x105) (barSt { two with arrived := [2, 1] } task1)
       ((t.bar 0x105).phase, (t.bar 0x105).arrived, (t.bar 0x105).members) = (4, [], [1, 2])) := by decide +kernel
theorem barrier_misuse : (go (.bjoin 1 5 false) (barSt two task1)).cur.iss = .fault ∧ (go (.bleave 1 5) st).cur.iss = .fault
    ∧ (go (.bwait 1 5) st).cur.iss = .fault ∧ ((go (.barv 1 5) st).me.shadow.queue.map fun f => f.fr.cause) = [5]
    ∧ (go (.barv 1 5) (barSt { two with arrived := [1] } task1)).cur.iss = .fault
    ∧ ((go .step st).me.shadow.queue.map fun f => f.fr.cause) = [0x0E] := by decide +kernel
def member : Task := { task1 with stepGroup := some 0x105, barriers := [0x105] }
theorem steps : (let s := barSt { members := [1], phase := 4, step := true } { member with arrived := [(0x105, 3)] }
      Claim.canFault s ∧ thas (s.task 1).arrived 0x105 = true ∧ tget 0 (s.task 1).arrived 0x105 < (s.bar 0x105).phase ∧ (go .step s).cur.iss = .ok)
    ∧ (let s := barSt { members := [1], arrived := [1], phase := 3, step := true } { member with countedCmds := [7] }
       (∀ m ∈ (s.bar 0x105).members, m ∈ (s.bar 0x105).arrived ∧ (s.task m).rots = [] ∧ countedPending s m = false)
       ∧ ((go (.stepComplete 0x105) s).bar 0x105).phase = 4 ∧ ((go (.stepComplete 0x105) s).task 1).countedCmds = []) := by
  refine ⟨⟨⟨?_, ?_⟩, ?_, ?_, ?_⟩, ?_⟩ <;> decide +kernel
/-- 64 bytes from 0x2000 to 0x2040; then a length of 63. -/
def rotSt (len : W64) : State :=
  { barSt { members := [1], step := true } member with
    tiles := [(0, { tile0 with ctx := { ctx0 with s := [(1, len), (3, 0x2000), (6, 0x2040)] } })]
    xus := [(0, { en := true, asid := 1, tlb := [{ page0 with pa := spmBase }] })] }
def pieces (r : VRes × State) : List (Nat × Nat) :=
  match r.1 with
  | .ok l => l
  | _ => []
theorem witness_rotation : (let s := rotSt 64; let s1 := (tilePieces s 0 3 1 0x2000 64 pRD false).2
    s.mine.stepGroup ≠ none ∧ s.mine.rots = [] ∧ fenceBlocks s.ctx 4 = false ∧ storePending s.ctx (0x2000, 64) = false
    ∧ pieces (tilePieces s 0 3 1 0x2000 64 pRD false) = [(spmBase + 0x2000, 64)] ∧ pieces (tilePieces s1 0 3 2 0x2040 64 pWR false) = [(spmBase + 0x2040, 64)]
    ∧ oneBank 0 [(spmBase + 0x2000, 64)] = true ∧ oneBank 0 [(spmBase + 0x2040, 64)] = true ∧ (tilePieces s1 0 3 2 0x2040 64 pWR false).2.myTask = s.myTask)
    ∧ ((go (.rot 1 3 6) (rotSt 64)).task 1).rots = [(spmBase + 0x2000, spmBase + 0x2040, 64)]
    ∧ ((go (.rot 1 3 6) (rotSt 63)).me.shadow.queue.map fun f => f.fr.cause) = [0x0E] := by decide +kernel
def decSt (d : Decoder) : State := st.setTile 0 { tile0 with dec := d }
theorem decoder_stream : ((go (.dcfg 3 1 63) st).me.dec.on, (go (.dcfg 3 1 63) st).me.dec.addr, (go (.dcfg 3 1 63) st).me.dec.left,
      (go (.dcfg 3 1 63) st).me.dec.rmax) = (true, 0x2000, 7, 63) ∧ ((go (.dcfg 4 1 63) st).me.shadow.queue.map fun f => f.fr.cause) = [0x13]
    ∧ wrote (go (.dpop 9) (decSt { on := true, fifo := [5, 6] })) = some (.v 9, 5, 3) ∧ (go (.dpop 9) (decSt { on := true, fifo := [5, 6] })).me.dec.fifo = [6]
    ∧ wrote (go (.dpop 9) (decSt { on := true })) = some (.v 9, 0, 3)
    ∧ ((go (.decoderFill 0) (decSt { on := true, block := [8, 9] })).tile 0).dec.fifo = [8] := by decide +kernel
theorem leaving : (go .done st).me.doneWait = true ∧ (go (.yield 1 true) st).me.parkWait = some (.tokens 7 true)
    ∧ (go (.sys 9 0xABCDE) st).me.shadow.queue.map (fun f => (f.fr.cause, f.fr.detail, f.fr.pos)) = [(6, 0xABCDE, 0x1000)]
    ∧ (go (.sys 9 0xABCDE) st).cur.iss = .ok := by decide +kernel

/-! ### Weight-driven execution (R304, R307-R325) -/

/-- The mode at block 0x3000, array context region 0 slot 1, rows 3 and 4 in the frame; WLD 64 holds wld with a pennant. -/
def wd0 : Wd := { on := true, pc := 0x1000, wpc := 0x3000, row0 := 3, m := 2, dfirst := 5, dcnt := 1 }
def wdElemOf (op : Nat) : Elem := { cur := [(1, 1)], planes := [(1, { loaded := true, op := op, qp := [{ vc := 2, val := true }] })] }
def wdCollar : Collar :=
  { regions := [(0, { task := some 1, emask := 2 ^ 256 - 1, armed := [1] })]
    elems := ((List.range 8).map fun j => (4 * j + 3, wdElemOf 0x84000000)) ++ [(64, wdElemOf 0x86000000)]
      ++ (List.range 8).map fun j => (192 + 4 * j, wdElemOf 0x88000000) }
def wdSt (w : Wd) : State :=
  { st.setTile 0 { tile0 with wd := w, arr := { winCount := 2, ctx := some (0, 1), slots := [(1, { st := 2, toks := [(0, hdr)] })] } } with
    collars := [(0, wdCollar)] }
/-- A frame record: row0 7, m 9, drain rows 11, 3 (R317). -/
def frame0 : List Byte := [7, 0, 0, 0, 9, 0, 0, 0, 11, 0, 3, 0] ++ List.replicate 52 0
theorem witness_chain : (let s := wdSt wd0
    Claim.target s 4 = 0x3400 ∧ Claim.target s (-0x31) ≥ 2 ^ 52 ∧ s.me.arr.ctx = some (0, 1) ∧ ((s.collar 0).elem (wldElem 0)).curOf 1 = some 1
    ∧ ((s.collar 0).region 0).armed.contains 1 = true ∧ (((s.collar 0).elem (wldElem 0)).plane 1).opcode = 0x43
    ∧ (((s.collar 0).elem (wldElem 0)).plane 1).eop.pg = false ∧ (((s.collar 0).elem (wldElem 0)).plane 1).qp.map (·.val) = [true]
    ∧ frameOk frame0 = true ∧ wdBusy s.me = false) := by decide +kernel
theorem chain_blocks : (go (.wNop 4) (wdSt wd0)).me.wd.wpc = 0x3400 ∧ (go (.wNop (-4)) (wdSt wd0)).me.wd.wpc = 0x2C00
    ∧ (go (.wBr 1 0 false 4 8) (wdSt wd0)).me.wd.wpc = 0x3800 ∧ (go (.wBr 1 0 true 4 8) (wdSt wd0)).me.wd.wpc = 0x3400
    ∧ ((go (.wBr 1 0 true 4 8) (wdSt wd0)).planeOf 0 64 1).qp = []
    ∧ (let w := (go (.wCall 4 8) (wdSt wd0)).me.wd; (w.wpc, w.links) = (0x3800, [0x3400]))
    ∧ (let w := (go .wRet (wdSt { wd0 with links := [1, 0x5000] })).me.wd; (w.wpc, w.links, w.blocks) = (0x5000, [1], 1)) := by decide +kernel
theorem chain_blocks_more : (let t := go (.wSync 5 true 4) ((wdSt wd0).setToken 1 5 { word := 2 }); (t.me.wd.wpc, (t.token 1 5).word) = (0x3400, 0))
    ∧ (let t := go (.wScale 4) (wdSt { wd0 with ahead := [{ addr := 0x3000, frame := frame0 }] })
       (t.me.wd.row0, t.me.wd.m, t.me.wd.dfirst, t.me.wd.dcnt) = (7, 9, 11, 3)) ∧ (go .wEnd (wdSt wd0)).me.wd.on = false := by decide +kernel
theorem witness_pass_block : (let s := wdSt { wd0 with ahead := [{ addr := 0x3000, slot := some 1 }] }
    wdCtxOk s 1 feedElem 0x42 = some 0 ∧ wdCtxOk s 1 drnElem 0x44 = some 0 ∧ startFull s 1 (startElems s ((s.collar 0).region 0) 1) = false
    ∧ (s.me.arr.slotOf 1).st = 2 ∧ s.me.arr.unfed.length < 2
    ∧ ((go (.wMma 1 true false 2 0 false 0 0 65536 4 0 0) s).me.arr.mmas.map fun m => (m.row0, m.m, m.p, m.slot, m.pair, m.acc)) = [(3, 2, 1, 1, 0, true)]
    ∧ ((go (.wMmaz 1 false true 4) (wdSt { wd0 with lv := true, wlast := 1, pairlast := 3 })).me.arr.mmas.map fun m => (m.slot, m.pair, m.acc)) = [(1, 3, false)]
    ∧ ((go (.wExit 1 false 4) s).me.arr.drains.map fun d => (d.first, d.cnt)) = [(5, 1)]) := by decide +kernel
theorem blocks_rejected : (wdSt wd0).me.shadow.queue.length < 8
    ∧ ((go (.wNop (-0x31)) (wdSt wd0)).me.shadow.queue.map fun f => (f.fr.cause, f.fr.detail, f.fr.unit, f.fr.idx)) = [(0x38, 5, 258, [0x3000, 0])]
    ∧ ((go (.wCall 4 8) (wdSt { wd0 with links := [1, 2, 3, 4] })).me.shadow.queue.map fun f => f.fr.detail) = [6]
    ∧ ((go .wRet (wdSt wd0)).me.shadow.queue.map fun f => f.fr.detail) = [7] ∧ ((go (.wMmaz 1 true true 4) (wdSt wd0)).me.shadow.queue.map fun f => f.fr.detail) = [2] := by
  decide +kernel
/-- The W.MMA header of chapter 13's example. -/
def wmmaHdr : Nat := 0x00022401 + 0x00010000 * 2 ^ 32 + 0xFFFFFFFFFFFFFD00 * 2 ^ 64 + 0x00032102 * 2 ^ 224
def readBlk (r : Option WBlk × State) : Option (Nat × Bool) := r.1.map fun b => (b.hdr, b.err.isNone)
def hdrSt : State :=
  { wdSt { wd0 with wpc := 0x80000 } with
    xus := [(0, { en := true, asid := 1, tlb := [{ page0 with size := 2 ^ 25 }] })]
    mem := { cells := (tabulate 32 fun i => (0x80000 + i, BitVec.ofNat 8 (wmmaHdr / 2 ^ (8 * i)))).filter fun c => c.2 != 0 } }
theorem witness_wdrive : (let s := (wdSt {})
    s.me.arr.ctx = some (0, 1) ∧ Claim.val s 3 = 0x2000 ∧ (∀ j, j < 4 → (s.me.arr.slotOf j).st ≠ 1)
    ∧ (((s.collar 0).elem (wldElem 0)).plane 1).eop.pg = false ∧ (∀ j, j < 4 → 0 < j → ((s.collar 0).elem (wldElem j)).curOf 1 = none)
    ∧ (go (.wdrive 3) s).me.wd.on = true ∧ (go (.wdrive 3) s).me.wd.wpc = 0x2000) := by decide +kernel
theorem witness_header_read : nextRead (hdrSt.tile 0).wd = some 0x80000 ∧ readBlk (readHeader hdrSt 0 0x80000) = some (wmmaHdr, true)
    ∧ ((go (.wblockRead 0) hdrSt).tile 0).wd.ahead.map (fun b => (b.addr, b.hdr)) = [(0x80000, wmmaHdr)] := by decide +kernel
def loadWd (b : WBlk) : Wd := { wd0 with wnext := 2, ahead := [b] }
theorem witness_payload : (let b : WBlk := { addr := 0x3000, hdr := wmmaHdr, read := true }
    readerBlk (loadWd b) = some b ∧ b.instr = some (.wMma 0 true true 2 0 false 0 0 65536 0xFFFFFFFFFFFFFD00 0 0)
    ∧ ((wdSt (loadWd b)).me.arr.slotOf 2).st ≠ 1 ∧ preloadPending (wdSt (loadWd b)).me 2 = false
    ∧ (let t := go (.payloadLoad 0) (wdSt (loadWd b)); ((t.me.arr.slotOf 2).st, t.me.wd.wnext) = (1, 3))
    ∧ readerBlk (loadWd { b with slot := some 2 }) = some { b with slot := some 2 }
    ∧ ((go (.payloadLoad 0) (wdSt (loadWd { b with slot := some 2 }))).me.arr.deliv.map fun d => (d.lane, d.slot, d.val, d.due)) = [(0, some 2, hdr, 52)]) := by
  decide +kernel

/-! ### Elements (R124, R140-R176) -/

/-- Element 1 of tile 0 holds an operation in region 0, slot 0, plane 0; VC 2 feeds queue a, VC 3 queue b. -/
def elPlane (op mode const fa fb : Nat) (qa qb : List Tok) (qp : List Pen) : Plane :=
  { loaded := true, op := op, mode := mode, const := const, vct := [(2, 2 ^ 11 + fa), (3, 2 ^ 11 + 2 ^ 9 + fb)], qa := qa, qb := qb, qp := qp }
def elState (e : Nat) (y : Plane) (inbox : List Tok) : State :=
  { st with
    cur := { unit := 0, elem := e, slot := 0, plane := 0 }
    collars := [(0, { regions := [(0, { task := some 1, emask := 2 ^ 256 - 1, armed := [0] })]
                      elems := [(e, { cur := [(0, 0)], planes := [(0, y)], inbox := inbox })] })] }
/-- The checks of `Claim.fires` as a computation. -/
def firesB (s : State) (o : EOp) (bare : Bool) : Bool :=
  let c := fctx s o
  decide ((s.elemOf s.cur.unit s.cur.elem).fault = none) && decide (c.y.bank.st.outq = [])
  && (bare || outRoom (s.collar s.cur.unit) s.cur.elem)
  && (srcQ o).all (fun q => match c.y.queue q with
      | t :: _ => !t.bnr && t.eos == c.eos
      | [] => false)
  && (!o.pg || match c.y.qp.head? with
      | some g => (decide (srcQ o = []) || g.eos == c.eos) && g.val != o.pp
      | none => false)
  && domOk c
theorem fires_of {s : State} {o : EOp} {bare : Bool} (h : firesB s o bare = true) : Claim.fires s o bare := by
  simp only [firesB, Bool.and_eq_true, decide_eq_true_eq, List.all_eq_true] at h
  obtain ⟨⟨⟨⟨⟨h1, h2⟩, h3⟩, h4⟩, h5⟩, h6⟩ := h
  refine ⟨h1, h2, ?_, ?_, ?_, h6⟩
  · intro hb
    simpa [hb] using h3
  · intro q hq
    have h := h4 q hq
    split at h
    · rename_i t rest heq
      simp only [Bool.and_eq_true, Bool.not_eq_true', beq_iff_eq] at h
      exact ⟨t, rest, heq, h.1, h.2⟩
    · cases h
  · intro hp
    simp only [hp, Bool.not_true, Bool.false_or] at h5
    split at h5
    · rename_i g heq
      simp only [Bool.and_eq_true, Bool.or_eq_true, decide_eq_true_eq, beq_iff_eq, bne_iff_ne] at h5
      exact ⟨g, heq, fun hs => h5.1.resolve_left hs, h5.2⟩
    · cases h5

def tok2 (w : Nat) (l : List Nat) : Tok := { vc := 2, val := lineOf w l, lcnt := 2, seq := 3 }
/-- Two 32-bit values of format `f` in each queue. -/
def pairSt (f mode const : Nat) (a b : List Nat) : State := elState 1 (elPlane 0 mode const f f [tok2 32 a] [tok2 32 b] []) []
/-- Result values of width `w` of the token the element made. -/
def made (w n : Nat) (s : State) : Option (List Nat) := (s.elemOf 0 1).out.getLast?.map fun t => (valuesOf w t.tok.val).take n
def ints : State := pairSt 10 0x200 0 [7, 0xFFFFFFFB] [3, 3]
def oab (f : Nat) : EOp := eop f 4 0 1 6
theorem witness_element_integers : Claim.fires ints (oab 10) false ∧ Claim.fires ints (eop 10 4 0 1 1) false ∧ (oab 10).sv ≠ 2 :=
  ⟨fires_of (by decide +kernel), fires_of (by decide +kernel), by decide⟩
theorem element_integers : [Instr.iadd, .isub, .imul, .imulh, .imin, .imax, .iabs, .ishl, .isra].map (fun f => made 32 2 (go (f (oab 10)) ints))
    = [some [10, 2 ^ 32 - 2], some [4, 2 ^ 32 - 8], some [21, 2 ^ 32 - 15], some [0, 2 ^ 32 - 1], some [3, 2 ^ 32 - 5], some [7, 3],
       some [7, 5], some [56, 2 ^ 32 - 40], some [0, 2 ^ 32 - 1]] := by decide +kernel
theorem element_logic : [Instr.iand, .ior, .ixor, .ishr, .icmp].map (fun f => made 32 2 (go (f (oab 10)) ints))
    = [some [3, 3], some [7, 2 ^ 32 - 5], some [4, 2 ^ 32 - 8], some [0, 0x1FFFFFFF], some [0, 2 ^ 32 - 1]]
    ∧ ((go (.iadd (oab 10)) ints).planeOf 0 1 0).qa = [] ∧ ((go (.iadd (oab 10)) ints).elemOf 0 1).out.map (fun t => (t.tok.vc, t.tok.seq, t.tok.lcnt))
      = [(4, 3, 2)] := by decide +kernel
/-- 1.0 and -2.0 against 4.0 and 4.0. -/
def floats : State := pairSt 1 0x200 0x40000000 [0x3F800000, 0xC0000000] [0x40800000, 0x40800000]
theorem witness_element_floats : Claim.fires floats (oab 1) false ∧ Claim.fires floats (eop 1 4 0 1 4) false :=
  ⟨fires_of (by decide +kernel), fires_of (by decide +kernel)⟩
theorem element_floats : [Instr.fadd, .fsub, .fmul, .fdiv, .fmin, .fmax, .fneg].map (fun f => made 32 2 (go (f (oab 1)) floats))
    = [some [0x40A00000, 0x40000000], some [0xC0400000, 0xC0C00000], some [0x40800000, 0xC1000000], some [0x3E800000, 0xBF000000],
       some [0x3F800000, 0xC0000000], some [0x40800000, 0x40800000], some [0xBF800000, 0x40000000]]
    ∧ made 32 2 (go (.ffma (eop 1 4 0 1 4)) floats) = some [0x40C00000, 0xC0C00000]
    ∧ made 32 1 (go (.frsq (oab 1)) (pairSt 1 0 0 [0x40800000, 0] [0, 0])) = some [0x3F000000]
    ∧ made 32 2 (go (.fcmp (oab 1)) floats) = some [2 ^ 32 - 1, 2 ^ 32 - 1] := by decide +kernel
/-- Infinity minus infinity traps under select 2. -/
def trapped : EOp := { oab 1 with sv := 2 }
theorem witness_element_trap : (let s := pairSt 1 0 0 [0x7F800000, 0x3F800000] [0x7F800000, 0x3F800000]
    Claim.fires s trapped false) ∧ (let s := go (.fsub trapped) (pairSt 1 0 0 [0x7F800000, 0x3F800000] [0x7F800000, 0x3F800000])
      ((s.elemOf 0 1).fault.map (·.cause), (s.planeOf 0 1 0).trapped, (s.planeOf 0 1 0).qa.length, (s.elemOf 0 1).out) = (some 0x30, true, 1, [])) :=
  ⟨fires_of (by decide +kernel), by decide +kernel⟩
/-- rred: 1.25 × 1 leaves 0.25, and with mode bit 8 the multiple 1. -/
theorem element_range_reduction : made 32 1 (go (.rred (oab 1)) (pairSt 1 0 0x3F800000 [0x3FA00000, 0] [0, 0])) = some [0x3E800000]
    ∧ made 32 1 (go (.rred (oab 1)) (pairSt 1 0x100 0x3F800000 [0x3FA00000, 0] [0, 0])) = some [0x3F800000] := by decide +kernel
/-- bf16 1.0 in 8 values; FP32 values on their way to bf16, gathered two tokens to one. -/
def halves : State := elState 1 (elPlane 0 0 0 2 2 [{ vc := 2, val := lineOf 16 (List.replicate 32 0x3F80) }] [] []) []
def oa (f : Nat) : EOp := eop f 4 0 6 6
theorem witness_conversion : Claim.fires halves (oa 1) false ∧ Claim.fires ints (oa 9) false
    ∧ made 32 16 (go (.cvt (oa 1)) halves) = some (List.replicate 16 0x3F800000)
    ∧ ((go (.cvt (oa 1)) halves).planeOf 0 1 0).bank.st.ph = 1 ∧ ((go (.cvt (oa 1)) halves).planeOf 0 1 0).qa.length = 1
    ∧ ((go (.cvt (oa 2)) floats).planeOf 0 1 0).bank.st.vals = [0x3F80, 0xC000] ∧ (go (.cvt (oa 2)) floats |>.elemOf 0 1).out = [] :=
  ⟨fires_of (by decide +kernel), fires_of (by decide +kernel), by decide +kernel⟩
/-- A pair of the last half of the token, and the second of two tokens to gather. -/
def gather (st : OpState) (f : Nat) (t : Tok) : State :=
  elState 1 { elPlane 0 0 0 f f [t] [] [] with bank := { st := st } } []
theorem witness_conversion_ends : (let s := gather { ph := 1 } 2 { vc := 2, val := lineOf 16 (List.replicate 32 0x3F80) }
      ((go (.cvt (oa 1)) s).planeOf 0 1 0).bank.st.ph = 0 ∧ ((go (.cvt (oa 1)) s).planeOf 0 1 0).qa = [])
    ∧ (let s := gather { k := 1, vals := [0x3F80, 0x3F80] } 1 (tok2 32 [0x40000000, 0])
       made 16 5 (go (.cvt (oa 2)) s) = some [0x3F80, 0x3F80, 0x4000, 0, 0])
    ∧ made 16 2 (go (.isat (oa 9)) (gather { k := 1 } 10 (tok2 32 [0x12345, 0xFFFFFFFE]))) = some [0x7FFF, 0xFFFE]
    ∧ made 16 2 (go (.pack (oa 9)) (gather { k := 1 } 10 (tok2 32 [0x12345, 0xFFFFFFFE]))) = some [0x2345, 0xFFFE]
    ∧ made 32 2 (go (.unpk (oa 10)) (elState 1 (elPlane 0 0 0 9 9 [tok2 16 [0x8000, 5]] [] []) [])) = some [0xFFFF8000, 5] := by decide +kernel
/-- The sum of 7 and -5; a clear of the state operations' first step on `ints`. -/
theorem witness_reductions : Claim.fires (pairSt 10 0 0 [7, 0xFFFFFFFB] [3, 3]) (oa 10) false
    ∧ made 32 1 (go (.rsum (oa 10)) (pairSt 10 0 0 [7, 0xFFFFFFFB] [3, 3])) = some [2]
    ∧ made 32 1 (go (.rmax (oa 10)) (pairSt 10 0 0 [7, 0xFFFFFFFB] [3, 3])) = some [7]
    ∧ made 32 1 (go (.rmin (oa 10)) (pairSt 10 0 0 [7, 0xFFFFFFFB] [3, 3])) = some [0xFFFFFFFB] :=
  ⟨fires_of (by decide +kernel), by decide +kernel⟩
/-- A token of domain 1 for hthr and hinv, whose operations stand in the plane. -/
def haar (op : Nat) : State := elState 1 (elPlane op 0 0 10 10 [{ tok2 32 [7, 9] with dom := 1 }] [] []) []
def acts (r : Fr) : Bool := match r with
  | .act _ => true
  | _ => false
theorem witness_state_operations : Claim.fires ints (oab 10) false ∧ Claim.fires (haar 0x7A000000) (oa 10) false ∧ Claim.fires (haar 0x78000000) (oa 10) false
    ∧ ([imacFire, amaxFire, qntFire, hfwdFire].all fun f => acts (f (fctx ints (oab 10)))) = true
    ∧ acts (hthrFire (fctx (haar 0x7A000000) (oa 10))) = true ∧ acts (hinvFire (fctx (haar 0x78000000) (oa 10)) false 0) = true
    ∧ acts (deqFire (fctx (pairSt 8 0 0 [7, 1] [3, 3]) (oa 1))) = true ∧ Claim.fires (pairSt 8 0 0 [7, 1] [3, 3]) (oa 1) false :=
  ⟨fires_of (by decide +kernel), fires_of (by decide +kernel), fires_of (by decide +kernel), by decide +kernel, by decide +kernel, by decide +kernel,
    by decide +kernel, fires_of (by decide +kernel)⟩
theorem state_operations_consume : [Instr.imac, .amax, .qnt, .hfwd].map (fun f => ((go (f (oab 10)) ints).planeOf 0 1 0).qa.length) = [0, 0, 0, 0]
    ∧ ((go (.hthr (oa 10)) (haar 0x7A000000)).planeOf 0 1 0).qa = [] ∧ ((go (.hinv (oa 10)) (haar 0x78000000)).planeOf 0 1 0).qa = []
    ∧ ((go (.deq (oab 1)) (pairSt 8 0 0 [7, 1] [3, 3])).planeOf 0 1 0).qa = [] := by decide +kernel
/-- A table from 0 with steps of 1 whose segment 2 is the constant 3.0. -/
def lutState : State := elState 1 { elPlane 0 0 0 1 1 [tok2 32 [0x40000000, 0]] [] [] with
  bank := { st := { table := (List.range 33).map fun i => (i, if i = 0 then lineOf 32 [0, 0x3F800000] else if i = 1 then lineOf 32 [0, 0, 0, 0, 0, 0x40400000] else 0) } } } []
theorem witness_lut : Claim.fires lutState (oa 1) false ∧ 33 ≤ (fctx lutState (oa 1)).y.bank.st.table.length
    ∧ tableOk (fctx lutState (oa 1)).y.bank.st.table = true ∧ made 32 2 (go (.lut (oa 1)) lutState) = some [0x40400000, 0] :=
  ⟨fires_of (by decide +kernel), by decide +kernel, by decide +kernel, by decide +kernel⟩

/-! Streams (R162-R165, R174, R175) -/

def one32 (mode : Nat) (st : OpState) : State :=
  elState 1 { elPlane 0 mode 5 10 10 [tok2 32 [7, 9]] [tok2 32 [1, 0]] [{ vc := 2, val := true }] with bank := { e := [(0, lineOf 32 (List.replicate 16 1))], st := st } } []
def stOf (s : State) : OpState := (s.planeOf 0 1 0).bank.st
theorem witness_streams : Claim.fires (one32 0x200 {}) (oa 10) false ∧ Claim.fires (one32 0x200 {}) (oab 10) false
    ∧ (fctx (one32 0x200 {}) (oa 10)).y.qp.head? = some { vc := 2, val := true } :=
  ⟨fires_of (by decide +kernel), fires_of (by decide +kernel), by decide +kernel⟩
theorem streams : made 32 2 (go (.pass (oa 10)) (one32 0 {})) = some [7, 9]
    ∧ (stOf (go (.dup (oa 10)) (one32 0x200 {}))).ph = 1 ∧ ((go (.dup (oa 10)) (one32 0x200 {})).planeOf 0 1 0).qa.length = 1
    ∧ (stOf (go (.dup (oa 10)) (one32 0x200 { ph := 1 }))).ph = 0 ∧ ((go (.dup (oa 10)) (one32 0x200 { ph := 1 })).planeOf 0 1 0).qa = []
    ∧ (stOf (go (.bnr (oa 10)) (one32 0x200 {}))).cnt = 1 ∧ ((stOf (go (.bnr (oa 10)) (one32 0x200 { cnt := 1 }))).outq.map (·.bnr)) = [true]
    ∧ (((go (.eos (oa 10)) (one32 0x200 { cnt := 1 })).elemOf 0 1).out.map (·.tok.eos)) = [true]
    ∧ (((go (.eos (oa 10)) (one32 0x200 {})).elemOf 0 1).out.map (·.tok.eos)) = [false] := by decide +kernel
theorem lanes_move : made 32 2 (go (.algn (oa 10)) (one32 0x100 {})) = some [1, 7] ∧ made 32 2 (go (.shuf (oab 10)) (one32 0 {})) = some [9, 7]
    ∧ made 32 2 (go (.bcst (oa 10)) (one32 0x100 {})) = some [9, 9] := by decide +kernel
/-- All values above 5: test 2 of R164 gives a pennant. -/
theorem pennants : ((go (.pgen (oa 10)) (one32 0x200 {})).elemOf 0 1).pout.length = 1
    ∧ made 32 2 (go (.gate (oa 10)) (one32 0 {})) = some [7, 9] ∧ ((go (.gate { oa 10 with pp := true }) (one32 0 {})).elemOf 0 1).out = []
    ∧ (((go (.steer { oa 10 with pp := true }) (one32 0 {})).elemOf 0 1).out.map (·.tok.vc)) = [5]
    ∧ made 32 2 (go (.elemSel (oab 10)) (one32 0 {})) = some [7, 9] ∧ made 32 2 (go (.elemSel { oab 10 with pp := true }) (one32 0 {})) = some [1, 0]
    ∧ made 32 2 (go (.merge { oab 10 with pp := true }) (one32 0 {})) = some [1, 0] ∧ ((go (.merge (oab 10)) (one32 0 {})).planeOf 0 1 0).qa = [] := by decide +kernel
def source (mode : Nat) : State := elState 1 { elPlane 0 mode 5 0 0 [] [] [] with bank := { st := { on := true, dom := 1, t := 2 } } } []
def o0 : EOp := eop 10 4 6 6 6
theorem witness_source : srcQ o0 = [] ∧ (let c := fctx (source 0x40300) o0; c.y.bank.st.outq = [] ∧ c.y.bank.st.on = true ∧ c.y.bank.st.ready ≤ 50 ∧ c.k = 0)
    ∧ ((source 0x40300).elemOf 0 1).fault = none ∧ outRoom ((source 0x40300).collar 0) 1 = true
    ∧ made 32 2 (go (.const o0) (source 0x40300)) = some [5, 5] ∧ made 32 2 (go (.cnt o0) (source 0x40300)) = some [101, 104]
    ∧ (((go (.cnt o0) (source 0x40300)).elemOf 0 1).out.map fun t => (t.tok.dom, t.tok.seq, t.tok.eos)) = [(1, 2, false)]
    ∧ (((go (.cnt o0) (source 0x30300)).elemOf 0 1).out.map fun t => t.tok.eos) = [true] := by decide +kernel

/-- One token of 32-bit values with EOS for an operation that keeps values. -/
def lastTok (w : Nat) (l : List Nat) (n dom : Nat) : Tok := { vc := 2, val := lineOf w l, lcnt := n, eos := true, dom := dom }
def keeps (f mode const : Nat) (t : Tok) (st : OpState) (op := 0) : State := elState 1 { elPlane op mode const f f [t] [] [] with bank := { st := st } } []
/-- What leaves: the pipeline's tokens, then those that follow. -/
def leaves (w n : Nat) (s : State) : List (List Nat) :=
  (((s.elemOf 0 1).out.map (·.tok)) ++ (stOf s).outq).map fun t => (valuesOf w t.val).take n
/-- R58's example: 5.3 has the scale 0x79 and the code 0x7B; 7 × 3 and −5 × 3; the larger of 1 and −2; 3 and 1 have s = 2, d = 1 and come
back from them; a row below a threshold of 1.5 is dropped; i8 5 times 2. -/
theorem state_operations : leaves 8 2 (go (.qnt (eop 4 4 0 6 6)) (keeps 1 0 9 (lastTok 32 [0x40A9999A] 1 0) {})) = [[0x7B, 0], [0x79, 0]]
    ∧ made 32 2 (go (.imac (oab 10)) (pairSt 10 0x100 0 [7, 0xFFFFFFFB] [3, 3])) = some [21, 2 ^ 32 - 15]
    ∧ leaves 32 2 (go (.amax (oa 1)) (keeps 1 0 0 (lastTok 32 [0x3F800000, 0xC0000000] 2 0) {})) = [[0x40000000, 0]]
    ∧ leaves 32 1 (go (.hfwd (oa 1)) (keeps 1 0x900 0 (lastTok 32 [0x3F800000] 16 0) { rows := [lineOf 32 [0x40400000]] })) = [[0x40000000], [0x3F800000]]
    ∧ leaves 32 1 (go (.hinv (oa 1)) (keeps 1 0x900 0 (lastTok 32 [0x3F800000] 16 1) { on := true, bmap := 3, rows := [lineOf 32 [0x40000000]] }))
      = [[0x40400000], [0x3F800000]]
    ∧ leaves 32 1 (go (.hthr (oa 1)) (keeps 1 0x900 0 (lastTok 32 [0x3F800000] 16 1) { thv := 0x3FC00000, rows := [lineOf 32 [0x40000000]] } 0x7A000000))
      = [[0x40000000], [1]]
    ∧ leaves 32 2 (go (.deq (eop 1 4 0 4 6)) (keeps 8 0 0x40000000 (lastTok 8 [5, 0xFF] 1 0) {})) = [[0x41200000, 0xC0000000]] := by decide +kernel
theorem witness_state_results : Claim.fires (keeps 1 0x900 0 (lastTok 32 [0x3F800000] 16 0) {}) (oa 1) false
    ∧ Claim.fires (keeps 1 0 9 (lastTok 32 [0x40A9999A] 1 0) {}) (eop 4 4 0 6 6) false ∧ srcQ (oa 1) = [0] :=
  ⟨fires_of (by decide +kernel), fires_of (by decide +kernel), by decide⟩

/-! ### Elements that reach memory, the array and ports (R95, R159, R168-R173, R196) -/

/-- Three lines from 0x2000 in steps of 64, at iteration 1. -/
def desc0 (ctl : Nat) : Desc := { base := 0x2000, cnt := [3, 0, 0, 0, 0, 0], str := [64, 0, 0, 0, 0, 0], ctl := ctl }
def agState (op ctl : Nat) (qa : List Tok) : State :=
  { elState 1 { elPlane op 0 0 10 10 qa [] [] with bank := { st := { on := true, t := 1, desc := some (desc0 ctl) } } } [] with
    mem := { cells := [(0x2040, 9), (0x2044, 5), (0x2048, 3)] } }
/-- Physical address of the line of iteration 1. -/
def agAt (s : State) (need : Nat) : Option Nat :=
  match agLine s 0 1 0x2040 need false with
  | (.ok pa, _) => some pa
  | _ => none
theorem witness_ag_reads : (let s := agState 0x7C000000 1 []; let c := fctx s o0
    (s.elemOf 0 1).fault = none ∧ c.y.bank.st.desc = some (desc0 1) ∧ c.y.bank.st.wantDesc = false ∧ c.y.bank.st.ready ≤ s.cycle
    ∧ c.y.bank.st.on = true ∧ outRoom (s.collar 0) 1 = true ∧ c.y.opcode = 0x3E ∧ (desc0 1).node = false ∧ bannerDue c (desc0 1) = false
    ∧ (desc0 1).va 1 = 0x2040 ∧ agAt s pRD = some 0x2040 ∧ anyPoison s 0x2040 64 = false)
    ∧ (fctx (agState 0x80000000 0x10001 []) o0).y.opcode = 0x40 := by decide +kernel
theorem ag_reads : made 32 2 (go (.agld o0) (agState 0x7C000000 1 [])) = some [9, 5]
    ∧ (stOf (go (.agld o0) (agState 0x7C000000 1 []))).t = 2 ∧ ((go (.agreq o0) (agState 0x80000000 0x10001 [])).elemOf 0 1).out.length = 1
    ∧ ((go (.agld o0) (agState 0x7C000000 1 [])).elemOf 0 1).out.map (fun t => (t.tok.seq, t.tok.eos, t.tok.vc)) = [(1, false, 4)] := by decide +kernel
theorem witness_ag_writes : Claim.fires (agState 0x7E000000 1 [tok2 32 [7, 9]]) (oa 10) true ∧ Claim.fires (agState 0x82000000 0x101 [tok2 32 [7, 9]]) (oa 10) false
    ∧ (let s := agState 0x7E000000 1 [tok2 32 [7, 9]]
       gateClosed s 0 1 0 = false ∧ (fctx s (oa 10)).tok 0 = some (tok2 32 [7, 9]) ∧ (fctx s (oa 10)).k = 0 ∧ (desc0 1).trig = false ∧ (desc0 0x101).ret = true
       ∧ s.mem.wf = true ∧ agAt s pWR = some 0x2040 ∧ agAt s (pRD + pWR) = some 0x2040 ∧ place 0x2040 = .hbm ∧ taskOf s 0 1 = some 1
       ∧ (s.task 1).staged 0x2040 = false) :=
  ⟨fires_of (by decide +kernel), fires_of (by decide +kernel), by decide +kernel⟩
def flies (s : State) : List (Nat × Nat × List Byte × Option RmwOp) := (s.collar 0).fly.map fun w => (w.elem, w.pa, w.bytes, w.rmw)
theorem ag_writes : flies (go (.agst (oa 10)) (agState 0x7E000000 1 [tok2 32 [7, 0]])) = [(1, 0x2040, [7, 0, 0, 0, 0, 0, 0, 0], none)]
    ∧ (let r := go (.agrmw (oa 10)) (agState 0x82000000 0x101 [tok2 32 [7, 9]])
       (flies r).map (fun w => w.2.2.2.map fun m => (m.op, m.fmt, m.ret)) = [some (0, 10, true)] ∧ (r.elemOf 0 1).out.map (·.need) = [true]
       ∧ [r.byte 0x2040, r.byte 0x2044] = [9, 5]) := by decide +kernel
/-- A line on its way that is due, and one that adds 7 and 9 to the words 9 and 5 there; the lines of a buffer. -/
def flySt (m : Option RmwOp) (direct : Bool) : State :=
  let s := agState 0x82000000 0x101 []
  { s with collars := [(0, { s.collar 0 with
      elems := [(1, { s.elemOf 0 1 with out := [{ tok := { vc := 4 }, ready := 0, need := true }] })]
      fly := [{ elem := 1, str := 1, pa := 0x2040, bytes := [7, 0, 0, 0, 9, 0, 0, 0], due := 50, direct := direct, rmw := m }] })] }
def addOp : RmwOp := { op := 0, fmt := 10, sat := false, flush := false, plane := 0, ret := true }
theorem witness_lines_land : (flySt none true).mem.wf = true ∧ place 0x2040 = .hbm
    ∧ (askBanks (flySt (some addOp) false) (agWay 0 1) (flyReq 0 1) 1 [(0x2040, 8)]).1 = true
    ∧ (let r := landDue (flySt none true) 0; ([r.byte 0x2040, r.byte 0x2044, r.byte 0x2048], (r.collar 0).fly) = ([7, 9, 3], []))
    ∧ (let r := landDue (flySt (some addOp) false) 0; [r.byte 0x2040, r.byte 0x2044, r.byte 0x2048] = [16, 14, 3]
       ∧ (r.elemOf 0 1).out.map (fun o => (o.need, valuesOf 32 o.tok.val |>.take 3)) = [(false, [9, 5, 0])]) := by decide +kernel
def bufSt : State :=
  let s := agState 0x7E000000 1 [tok2 32 [7, 9]]
  { s with collars := [(0, { s.collar 0 with regions := [(0, { task := some 1, emask := 2 ^ 256 - 1, armed := [0], k := 4 })] })] }
theorem witness_ag_buffers : (fctx bufSt (oa 10)).k = 4 ∧ (bufSt.planeOf 0 1 0).lines.length < 64 ∧ flies (go (.agst (oa 10)) bufSt) = []
    ∧ ((go (.agst (oa 10)) bufSt).planeOf 0 1 0).lines.map (fun l => (l.ivl, l.pa, l.bytes)) = [(1, 0x2040, [7, 0, 0, 0, 9, 0, 0, 0])] := by
  decide +kernel
/-- A descriptor at slice offset 0: one level of 3 lines; then one with a level of count 0. -/
def dread (op const n : Nat) : State :=
  { elState 1 { elPlane op 0 const 10 10 [] [] [] with bank := { st := { wantDesc := true } } } [] with
    mem := { cells := [(spmBase + 8, BitVec.ofNat 8 n), (spmBase + 32, 64), (spmBase + 56, 1)].filter fun c => c.2 != 0 } }
theorem witness_descriptor : (let s := dread 0x7C000000 0 3; let at' := descPa 0 (s.planeOf 0 1 0)
    (s.planeOf 0 1 0).bank.st.wantDesc = true ∧ (s.elemOf 0 1).fault = none ∧ anyPoison s at' 64 = false
    ∧ (takeBank s at' (((bankAt at').map (agPort 0 1)).getD 3) 1).isSome = true ∧ descBad 0 0x3E (descOf (s.bytes at' 64)) = false
    ∧ (stOf (go (.agDescriptorRead 0 1 0) s)).desc = some { desc0 1 with base := 0 }
    ∧ ((go (.agDescriptorRead 0 1 0) (dread 0x7C000000 0 0)).elemOf 0 1).fault.map (·.cause) = some 8) := by decide +kernel
theorem witness_lut_read : (let s := granted (dread 0x58000000 0 3) (0, 0) (elemReq 0 1) 1 (localAddr 0 0) 64; let y := s.planeOf 0 1 0
    y.opcode = 0x2C ∧ y.bank.st.table.length < 33 ∧ y.loaded = true ∧ (0, 0) ∈ (s.elemOf 0 1).cur ∧ y.bank.st.ready ≤ s.cycle
    ∧ (askBanks s (fun _ => (2, 0)) (elemReq 0 1) 1 [(localAddr 0 0, 64)]).1 = true
    ∧ (stOf (go (.lutTableRead 0 1 0) s)).table = [(0, BitVec.ofNat 512 (2 ^ 64 * 3 + 2 ^ 256 * 64 + 2 ^ 448))]) := by decide +kernel

/-- FEED 3, WLD 64 with a wtl in progress, DRN 196 at row 3 of a drain, PORTs of a tile and of a strip. -/
def portSt (u e op mode : Nat) (qa inbox : List Tok) : State :=
  let s := elState e (elPlane op mode 0 10 10 qa [] []) inbox
  { s with cur := { s.cur with unit := u }, collars := [(u, s.collar 0)] }
theorem witness_feed_and_wld : Claim.fires (portSt 0 3 0x84000000 0 [tok2 32 [7, 9]] []) (oa 0) true
    ∧ Claim.fires ((portSt 0 64 0x86000000 0 [tok2 32 [7, 9]] []).setArr 0 { slots := [(1, { st := 1 })], wtls := [(1, 5)] }) (oa 0) true
    ∧ (let r := go (.feed (oa 0)) (portSt 0 3 0x84000000 0 [tok2 32 [7, 9]] []); (r.elemOf 0 3).inbox.map (fun t => (t.at', t.slot)) = [(52, 0)])
    ∧ wldAwaited { slots := [(1, { st := 1 })], wtls := [(1, 5)] } (wldLane 64) = true
    ∧ ((go (.wld (oa 0)) ((portSt 0 64 0x86000000 0 [tok2 32 [7, 9]] []).setArr 0 { slots := [(1, { st := 1 })], wtls := [(1, 5)] })).arr 0).deliv.map
        (fun d => (d.lane, d.due)) = [(0, 52)] :=
  ⟨fires_of (by decide +kernel), fires_of (by decide +kernel), by decide +kernel, by decide +kernel, by decide +kernel⟩
def drainSt (took : List Nat) : State :=
  (portSt 0 196 0x88000000 0 [] []).setArr 0
    { winCount := 2, acc := [(3 * 128 + 16, 5), (3 * 128 + 31, 6)], took := took, dueRow := some 3, drains := [{ id := 1, ord := 1, first := 2, cnt := 2, dom := false, next := 1, arr := some (0, 0) }] }
theorem witness_drain : (let s := drainSt []
    (drainDue (s.tile 0)).map (·.first + 1) = some 3 ∧ regionNum (s.collar 0) 196 = 0 ∧ outRoom (s.collar 0) 196 = true ∧ (s.tile 0).held = false
    ∧ (∀ i, i < 8 → drnRoom s 0 (drnElem i) 0 = true) ∧ (s.arr 0).dueRow = some 3 ∧ (s.tile 0).still = false ∧ (s.arr 0).accBad = []
    ∧ ((go (.drn (eop 0 4 6 6 6)) s).elemOf 0 196).out.map (fun t => (t.tok.val, t.tok.eos, t.tok.seq)) = [(lineOf 32 [5, 0, 0, 0, 0, 0, 0, 0, 0, 0, 0, 0, 0, 0, 0, 6], true, 1)]
    ∧ ((go (.drn (eop 0 4 6 6 6)) s).arr 0).took = [1] ∧ ((go (.drn (eop 0 4 6 6 6)) (drainSt [0, 2, 3, 4, 5, 6, 7])).arr 0).drains = []) := by
  decide +kernel
theorem witness_port_replies : (let s := portSt 0 7 0 0 [] [tok2 32 [7, 9]]
    (s.elemOf 0 7).fault = none ∧ outRoom (s.collar 0) 7 = true ∧ (s.elemOf 0 7).inbox.find? (fun t => t.slot == s.cur.slot) = some (tok2 32 [7, 9])
    ∧ ((go (.emit (oa 0)) s).elemOf 0 7).out.map (·.tok.vc) = [2] ∧ ((go (.recv (eop 0 4 6 6 6)) s).elemOf 0 7).out.map (·.tok.vc) = [4]
    ∧ ((go (.emit (oa 0)) s).elemOf 0 7).inbox = []) := by decide +kernel
/-- A COPY block with TK 5 for the tile's engine; ENG is bits 10:8 of mode. -/
def copyTok : Tok := { vc := 2, val := 1 + 2 ^ 16 * 5, lcnt := 16 }
theorem witness_port_sends : Claim.fires (portSt 0 7 0 0x300 [copyTok] []) (oa 0) true ∧ Claim.fires (portSt 0 7 0 0 [copyTok] []) (oa 0) true
    ∧ (let s := portSt 0 7 0 0 [copyTok] []
       gateClosed s 0 7 0 = false ∧ (s.elemOf 0 7).inbox = [] ∧ s.mod.inbox.length < 64 ∧ s.mod.waiting = []
       ∧ portEngine 0 0 (lineBytes copyTok.val) = some (.tile 0, [1]) ∧ engFree s (.tile 0) = true ∧ taskOf s 0 7 = some 1 ∧ (s.token 1 5).st ≠ 1
       ∧ ((go (.emit (oa 0)) s).eng (.tile 0)).q.map (fun c => (c.task, c.block.take 3)) = [(some 1, [1, 0, 5])]
       ∧ (go (.emit (oa 0)) (portSt 0 7 0 0x300 [copyTok] [])).mod.inbox.map (fun m => (m.kind, m.src, m.unit)) = [(0, 0, 7)]) :=
  ⟨fires_of (by decide +kernel), fires_of (by decide +kernel), by decide +kernel⟩

/-! ### The collar's network, configuration and repairs (R117-R136, R288, R375-R380, R386) -/

/-- Region 0's plane 0 takes VC 2, data and pennants, from element 1's port of box 0 to element 3's. -/
def netTok : Tok := { vc := 2, val := 9, at' := 10 }
def netPen : Pen := { vc := 2, val := true, at' := 10 }
def net (x : Elem) (b : Box) : State :=
  { st with collars := [(0, { regions := [(0, { task := some 1, emask := 2 ^ 256 - 1 })], elems := [(1, x), (3, slotElem 0)]
                              boxes := [(0, { b with routes := [(0, [0x3110, 0x3114])] })] })] }
def sender : State := net { out := [{ tok := netTok, ready := 50 }], pout := [{ pen := netPen, ready := 50 }] } {}
theorem witness_hop_out : (let c := sender.collar 0
    outsFor ((c.box 0).words 0 0) 1 2 false = [3] ∧ outsFor ((c.box 0).words 0 0) 1 2 true = [3] ∧ pathOk c 0 0 2 false 64 0 1 = true
    ∧ pathOk c 0 0 2 true 64 0 1 = true ∧ boxRoom c 50 0 (dataKey 2 3) none = true ∧ boxRoom c 50 0 11 none = true
    ∧ tget [] (((go (.tokenHop 0 (.elem 1)) sender).collar 0).box 0).dbuf 3 = [{ netTok with at' := 50 }]
    ∧ tget [] (((go (.pennantHop 0 (.elem 1)) sender).collar 0).box 0).pbuf 3 = [{ netPen with at' := 50 }]
    ∧ ((go (.tokenHop 0 (.elem 1)) sender).elemOf 0 1).out = []) := by decide +kernel
def receiver : State :=
  { net {} { dbuf := [(3, [netTok])], pbuf := [(3, [netPen])] } with
    collars := [(0, { (net {} { dbuf := [(3, [netTok])], pbuf := [(3, [netPen])] }).collar 0 with
      elems := [(3, { cur := [(0, 0)], planes := [(0, elPlane 0 0 0 10 10 [] [] [])] })] })] }
theorem witness_hop_in : (let c := receiver.collar 0; let y := (c.elem 3).plane 0
    elemAt 0 3 = 3 ∧ intakePlane (c.elem 3) 0 2 = some 0 ∧ vcV (y.vc 2) = true ∧ vcQ (y.vc 2) = 0 ∧ c.full = []
    ∧ (c.elem 3).switching = []
    ∧ ((go (.tokenHop 0 (.box 0 3)) receiver).planeOf 0 3 0).qa = [{ netTok with at' := 50 }]
    ∧ ((go (.pennantHop 0 (.box 0 3)) receiver).planeOf 0 3 0).qp = [{ netPen with at' := 50 }]) := by decide +kernel
def starts0 (o : OpState) : State :=
  { st with collars := [(0, { elems := [(1, { cur := [(1, 1)], planes := [(1, { loaded := true, op := 0x7C000000, bank := { st := o } })] })]
                              starts := [{ elem := 1, slot := 1, dom := 1, at' := 50 }] })] }
theorem witness_start : (let s := starts0 {}
    (s.collar 0).starts.find? (fun a => a.elem == 1 && decide (a.at' ≤ s.cycle)) = some { elem := 1, slot := 1, dom := 1, at' := 50 }
    ∧ startable (s.planeOf 0 1 1) = true ∧ (s.elemOf 0 1).switching = []
    ∧ ((go (.sourceStartArrival 0 1) s).planeOf 0 1 1).bank.st.on = true
    ∧ ((go (.sourceStartArrival 0 1) (starts0 { on := true })).planeOf 0 1 1).bank.st.held = some 1) := by decide +kernel
/-- An image of a header alone: 64 bytes, version 3. -/
def loads0 : State :=
  { st with
    mem := { cells := [(ctxAddr 0 0, 64), (ctxAddr 0 4, 3)] }
    collars := [(0, { regions := [(0, { task := some 1, emask := 2 ^ 256 - 1 })], loads := [{ rgn := 0, slot := 1, plane := 2, img := 0, op := none, pc := 0, task := 1, start := some 0 }] })] }
theorem witness_load_image : imageErr loads0 0 0 1 2 0 = none ∧ ctxParity loads0 0 0 = false
    ∧ (((go (.configLoad 0) loads0).collar 0).region 0).armed = [1] := by decide +kernel
def switch0 : Switch := { slot := 1, to' := 2, partial' := false, op := none, arrive := 50 }
def switching (x : Elem) : State :=
  { st with collars := [(0, { regions := [(0, { task := some 1, emask := 2 ^ 256 - 1, armed := [1], switches := [switch0] })], elems := [(1, x)] })] }
def elem1 (f : Elem → Elem) : Elem := f { cur := [(1, 1)], goes := [(1, 2)], planes := [(1, elPlane 0x02000000 0 0 10 10 [] [] []), (2, elPlane 0x04000000 0 0 10 10 [] [] [])] }
theorem witness_switch : (let s := switching (elem1 id)
    (((s.collar 0).region 0).switches.find? fun w => decide (w.arrive ≤ s.cycle) && w.arrive != 0) = some switch0 ∧ (s.elemOf 0 1).curOf 1 = some 1
    ∧ ((go (.switchRequestArrival 0 0) s).elemOf 0 1).switching = [1])
    ∧ (let x := elem1 fun x => { x with switching := [1], final := [(1, 49)] }
       x.goesTo 1 = some 2 ∧ (x.plane 1).opcode ≠ 0x3E ∧ tget 0 x.final 1 < 50 ∧ regionNum ((switching x).collar 0) 1 = 0
       ∧ ((go (.elementPlaneSwitch 0 1 1) (switching x)).elemOf 0 1).curOf 1 = some 2) := by decide +kernel
def banners : State := elState 1 (elPlane 0x02801800 0 0 10 10 [{ netTok with bnr := true }, netTok] [] []) []
theorem witness_banner : srcQ (banners.planeOf 0 1 0).eop = [0] ∧ (banners.elemOf 0 1).cur.find? (fun k => k.2 == 0) = some (0, 0)
    ∧ (banners.planeOf 0 1 0).opcode ≠ 0x03 ∧ outRoom (banners.collar 0) 1 = true
    ∧ ((go (.bannerCut 0 1 0) banners).planeOf 0 1 0).bnrs = 1 ∧ ((go (.bannerCut 0 1 0) banners).planeOf 0 1 0).qa = [netTok] := by decide +kernel
def cutState : State := elState 1 { elPlane 0x02001B00 0 0 10 10 [] [] [] with cuts := [(5, {})], bank := { sat := 9, ctr := [(0, 3)] } } []
theorem witness_cut : (let c := cutState.collar 0
    ((slotElems c (c.region 0) 0).filter fun i => ((c.elem i.1).plane i.2).opcode != 0) = [(1, 0)] ∧ ((c.elem 1).plane 0).cuts.head?.map (·.1) = some 5
    ∧ tget 256 (((go (.cutComplete 0 0 0) cutState).collar 0).region 0).cut 0 = 5
    ∧ ((go (.eclr 0 1 0 1) cutState).planeOf 0 1 0).bank.sat = 0 ∧ ((go (.eclr 0 1 0 2) cutState).planeOf 0 1 0).bank.ctr = []) := by decide +kernel
def rec0 (cause : Nat) : FRec := { cause := cause, tile := 0, unit := 1, ctx := 0, fseq := 7 }
def rep0 : Repair := { tile := 0, unit := 1, ctx := 0, fseq := 7, value := 0x1234 }
def faulted (cause : Nat) : State :=
  { st with collars := [(0, { regions := [(0, { task := some 1, emask := 2 ^ 256 - 1, k := 1 })]
                              elems := [(1, { cur := [(0, 0)], fault := some (rec0 cause), planes := [(0, { elPlane 0x02001B00 0 0 10 10 [netTok] [] [] with trapped := true, cutDone := some (3, { sat := 2 }) })] })] })] }
theorem witness_repairs : ([0, 3].all fun a => (rec0 0x10).accepts a) = true ∧ ([1, 2].all fun a => (rec0 0x30).accepts a) = true
    ∧ ([4, 5, 6].all fun a => (rec0 0x22).accepts a) = true ∧ rollbackRefusal (faulted 0x22) 0 0 0 = none
    ∧ ((faulted 0x22).elemOf 0 1).fault = some (rec0 0x22) ∧ (faulted 0x22).mod.inbox.length < 64 ∧ (faulted 0x22).mod.waiting = [] := by decide +kernel
theorem repairs : ((go (.repairRetry rep0) (faulted 0x10)).elemOf 0 1).fault = none ∧ ((go (.repairZero rep0) (faulted 0x10)).elemOf 0 1).fault = none
    ∧ (let s := go (.repairReplace rep0) (faulted 0x30); ((s.planeOf 0 1 0).bank.st.grant, (s.planeOf 0 1 0).bank.st.value) = (some 1, 0x1234))
    ∧ ((go (.repairDefault rep0) (faulted 0x30)).planeOf 0 1 0).bank.st.grant = some 2
    ∧ ((go (.repairDiscard rep0) (faulted 0x22)).elemOf 0 1).fault = none
    ∧ (let s := go (.repairRollback rep0) (faulted 0x22); ((s.planeOf 0 1 0).bank.sat, (s.planeOf 0 1 0).qa, (s.elemOf 0 1).fault) = (2, [], none))
    ∧ (go (.repairEscalate rep0) (faulted 0x22)).mod.inbox.map (fun m => (m.kind, m.cause)) = [(1, 0x22)] := by decide +kernel
theorem repairs_refused : ((faulted 0x10).collar 0).gone = [] ∧ (rec0 0x10).fseq ≠ ({ rep0 with fseq := 6 } : Repair).fseq.toNat
    ∧ ((go (.repairRetry { rep0 with fseq := 6 }) (faulted 0x10)).collar 64).rbad = 1
    ∧ ((go (.cornstatClr 64) { st with collars := [(64, { rbad := 5 })] }).collar 64).rbad = 0
    ∧ (go (.rptokSend 64 0) { st with collars := [(64, { rptok := [(0, 0x70000010000)] })] }).inputs
      = [.repairRetry { tile := 0, unit := 1, ctx := 0, fseq := 7, value := 0 }] := by decide +kernel

/-! ### Engines and links (R82-R98, R415-R419) -/

/-- A shape of 8 elements of 4 bytes from 0x2000 to 0x2100, and a command of code `opc` with TKP 5. -/
def shape0 : List Byte :=
  bytesOfNat 8 0x2000 ++ bytesOfNat 8 0x2100 ++ bytesOfNat 4 8 ++ List.replicate 24 0 ++ bytesOfNat 4 4 ++ List.replicate 24 0
    ++ bytesOfNat 4 4 ++ List.replicate 28 0 ++ bytesOfNat 4 0x12 ++ List.replicate 20 0
def cmd0 (opc : Nat) : Cmd :=
  { id := 3, task := some 1, tile := 0, asid := 1, root := 0, block := bytesOfNat 64 opc, shape := some shape0, tkp := 5, st := .running }
def engSt (e : Eng) (c : Cmd) : State := ({ st with mem := { cells := [(0x2000, 7), (0x2004, 9), (0x201C, 6)] } }).setEng e { q := [c] }
def codes : List (Nat × Eng × Instr) :=
  [(1, .tile 0, .cmdCopy (.tile 0) 3), (2, .link 0 0, .cmdLpush (.link 0 0) 3), (3, .link 0 0, .cmdLpull (.link 0 0) 3), (4, .eth, .cmdNetr .eth 3),
   (5, .eth, .cmdNetw .eth 3), (6, .eth, .cmdStgr .eth 3), (7, .eth, .cmdStgw .eth 3)]
theorem witness_commands_start : codes.all (fun x => (cmd0 x.1).opc == x.1 && !(cmd0 x.1).carry
      && ((cmdOf (go x.2.2 (engSt x.2.1 { cmd0 x.1 with st := .waiting })) x.2.1 3).map (·.st) == some .running)) = true := by decide +kernel
def xlated (s : State) (va : Int) (need : Nat) : List (Nat × Nat) := pieces (cmdXlate s (.tile 0) (cmd0 1) va 4 need)
/-- The last element, the one left to choose. -/
theorem choose_one (s : State) (n : Nat) : choose s n 1 = 0 := Nat.mod_one _
theorem witness_copy : (let c := { cmd0 1 with pos := 7 }; let s := engSt (.tile 0) c; let h := shapeOf shape0
    cmdOf s (.tile 0) 3 = some c ∧ h.count - c.pos = 1 ∧ h.addrs 7 = (0x201C, 0x211C) ∧ h.esz = 2
    ∧ xlated s 0x201C pRD = [(0x201C, 4)] ∧ xlated s 0x211C pWR = [(0x211C, 4)]
    ∧ (askAll s 256 [(cmdPort (.tile 0) c, reqId 7 3, [(0x201C, 4)]), (cmdPort (.tile 0) c, reqId 15 3, [(0x211C, 4)])]).1 = true
    ∧ poisonedPiece s [(0x201C, 4)] = false ∧ s.mem.wf = true ∧ place 0x211C = .hbm ∧ foreignByte s (.cmd 3) 0x211C = false
    ∧ (let t := copyOne (.tile 0) s c h 7; (t.byte 0x211C, t.byte 0x201C, (cmdOf t (.tile 0) 3).map (·.pos)) = (6, 6, some 8))) := by decide +kernel
def st? (s : State) (e : Eng) : Option CmdSt := (cmdOf s e 3).map (·.st)
def isEnding (x : Option CmdSt) : Bool := match x with
  | some (.ending _) => true
  | _ => false
theorem witness_commands_hand_over : isEnding (st? (go (.cmdCopy (.tile 0) 3) (engSt (.tile 0) { cmd0 1 with pos := 8 })) (.tile 0)) = true
    ∧ ([5, 7].all fun k => ((if k = 5 then go (.cmdNetw .eth 3) else go (.cmdStgw .eth 3)) (engSt .eth { cmd0 k with pos := 8 })).outbox.length == 1) = true
    ∧ ([4, 6].all fun k => ((if k = 4 then go (.cmdNetr .eth 3) else go (.cmdStgr .eth 3)) (engSt .eth (cmd0 k))).outbox.length == 1) = true := by
  decide +kernel
/-- The peer is the module at (1, 0, 0) of a 2 × 1 × 1 torus: port + of die 1, key 2. -/
def peerCmd (opc : Nat) : Cmd := { cmd0 opc with pos := 8, block := bytesOfNat 24 opc ++ bytesOfNat 40 1 }
def torus (s : State) (l : Link) : State := { s with links := [(2, l)], mod := { dims := (2, 1, 1) } }
theorem witness_link_commands : (let s := torus (engSt (.link 1 0) (peerCmd 2)) { state := 2 }
    routePort s (peerCmd 2).peerCoord = some 2 ∧ (s.link 2).state ≠ 0 ∧ isEnding (st? (go (.cmdLpush (.link 1 0) 3) s) (.link 1 0)) = true
    ∧ isEnding (st? (go (.cmdLpull (.link 1 0) 3) (torus (engSt (.link 1 0) (peerCmd 3)) { state := 2 })) (.link 1 0)) = true
    ∧ (let t := go (.cmdLpush (.link 1 0) 3) (torus (engSt (.link 1 0) { peerCmd 2 with data := [1, 2, 3] }) { state := 2 })
       ((t.link 2).kept.length, t.outbox.length, (cmdOf t (.link 1 0) 3).map (·.sent)) = (1, 1, some 1))) := by decide +kernel
theorem witness_commands_end : (let t := go (.engineCmdComplete (.tile 0) 3) (engSt (.tile 0) { cmd0 1 with st := .ending 2 })
      ((t.eng (.tile 0)).q.length, (t.token 1 5).word) = (0, 2))
    ∧ st? (go (.commandResume (.tile 0) 3 false) (engSt (.tile 0) { cmd0 1 with st := .paused 0x10 5 })) (.tile 0) = some .running
    ∧ isEnding (st? (go (.commandResume (.tile 0) 3 true) (engSt (.tile 0) { cmd0 1 with st := .paused 0x10 5 })) (.tile 0)) = true := by decide +kernel

theorem crcByte_lt {c b : Nat} (hc : c < 2 ^ 32) (hb : b < 2 ^ 32) : crcByte c b < 2 ^ 32 := by
  have key : ∀ (l : List Nat) (x : Nat), x < 2 ^ 32 →
      l.foldl (fun c _ => if c % 2 = 1 then (c / 2) ^^^ 0x82F63B78 else c / 2) x < 2 ^ 32 := by
    intro l
    induction l with
    | nil => intro x hx; exact hx
    | cons a l ih =>
      intro x hx
      refine ih _ ?_
      show (if x % 2 = 1 then (x / 2) ^^^ 0x82F63B78 else x / 2) < 2 ^ 32
      split
      · exact Nat.xor_lt_two_pow (by omega) (by omega)
      · omega
  exact key _ _ (Nat.xor_lt_two_pow hc hb)
theorem crc_lt (l : List Byte) : (chkStep 2 0 [] l).1 < 2 ^ 32 := by
  have key : ∀ (l : List Byte) (x : Nat), x < 2 ^ 32 → l.foldl (fun c b => crcByte c b.toNat) x < 2 ^ 32 := by
    intro l
    induction l with
    | nil => intro x hx; exact hx
    | cons b l ih => intro x hx; exact ih _ (crcByte_lt hx (by have := b.isLt; omega))
  exact Nat.xor_lt_two_pow (key l _ (by decide)) (by decide)
/-- `n` zero bytes and their CRC; with n = 2044, a frame without packets, sequence 0. -/
def zeroFrame (n : Nat) : List Byte := List.replicate n 0 ++ bytesOfNat 4 (chkStep 2 0 [] (List.replicate n 0)).1
theorem zeroFrame_take (n : Nat) : (zeroFrame n).take n = List.replicate n 0 := List.take_left' List.length_replicate
theorem zeroFrame_zero (n o k : Nat) (h : o + k ≤ n) : ((zeroFrame n).drop o).take k = List.replicate k 0 := by
  unfold zeroFrame
  rw [List.drop_append_of_le_length (by rw [List.length_replicate]; omega), List.drop_replicate,
    List.take_append_of_le_length (by rw [List.length_replicate]; omega), List.take_replicate]
  congr 1
  omega
theorem zeroFrame_crc (n : Nat) : (chkStep 2 0 [] ((zeroFrame n).take n)).1 = blk (zeroFrame n) n 4 := by
  rw [zeroFrame_take]
  have h := crc_lt (List.replicate n 0)
  unfold blk
  rw [show (zeroFrame n).drop n = bytesOfNat 4 (chkStep 2 0 [] (List.replicate n 0)).1 from List.drop_left' List.length_replicate]
  simp only [bytesOfNat, List.take, natOfBytes, BitVec.toNat_ofNat]
  omega
theorem zeroFrame_length (n : Nat) : (zeroFrame n).length = n + 4 := by
  unfold zeroFrame
  rw [List.length_append, List.length_replicate]
  rfl
theorem witness_frame : (zeroFrame 2044).length = 2048 ∧ (chkStep 2 0 [] ((zeroFrame 2044).take 2044)).1 = blk (zeroFrame 2044) 2044 4
    ∧ blk (zeroFrame 2044) 1984 2 = 0 ∧ blk (zeroFrame 2044) 1988 1 % 2 = 0
    ∧ ((torus st { state := 2 }).link (linkKey 1 0)).recvSeq = 0 ∧ ((torus st { state := 2 }).link (linkKey 1 0)).state = 2 := by
  refine ⟨zeroFrame_length 2044, zeroFrame_crc 2044, ?_, ?_, rfl, rfl⟩
  · unfold blk; rw [zeroFrame_zero 2044 _ _ (by omega)]; rfl
  · unfold blk; rw [zeroFrame_zero 2044 _ _ (by omega)]; rfl
theorem frame_refused : ¬ ([] : List Byte).length = 2048 ∧ (let l := (go (.linkFrameReceive 1 0 []) (torus st { state := 2 })).link 2
    (l.recvSeq, l.crcerr, l.nakWait) = (0, 1, true)) := by decide +kernel
/-- The check value of CRC-32C: of "123456789". -/
theorem crc_check_value : (chkStep 2 0 [] [0x31, 0x32, 0x33, 0x34, 0x35, 0x36, 0x37, 0x38, 0x39]).1 = 0xE3069283 := by decide +kernel
theorem links_train : (let l := (go (.firmwareRetraining 1 0 0x00FF) (torus st {})).link 2; (l.state, l.width) = (2, 1))
    ∧ (let l := (go (.linkRetrain 1 0 0x000F) (torus st { state := 2 })).link 2; (l.state, l.width) = (2, 2))
    ∧ ((go (.linkRetrain 1 0 0x0007) (torus st { state := 2 })).link 2).state = 0 ∧ ((go (.firmwareRetraining 1 0 0x0007) (torus st { state := 2 })).link 2).state = 0
    ∧ (let t := go (.linkReplay 1 0 7) (torus st { state := 2, kept := [(6, [1]), (7, [2])] }); t.outbox = [.frame 1 0 [2]])
    ∧ (let l := (go (.lnkstatClr 1 0) (torus st { state := 2, crcerr := 4, replay := 5 })).link 2; (l.crcerr, l.replay, l.state) = (0, 0, 2)) := by decide +kernel
/-- A write of 64 bytes for this module, and one for (1, 0, 0), that arrive from (1, 0, 0). -/
def write0 (dst : Nat × Nat × Nat) : List (List Byte) := [headerFlit 1 dst (1, 0, 0) 1 1 0 0x2000 0, List.replicate 64 5]
def served (dst : Nat × Nat × Nat) (k : Nat) : State :=
  { torus st {} with
    links := [(2, if k = 2 then { state := 2, inq := write0 dst } else { state := 2 }), (3, if k = 3 then { state := 2, inq := write0 dst } else {})]
    asids := [(1, { live := true, link := true, root := 0 })], xus := [(68 + 2, { en := true, asid := 1, tlb := [page0] }), (68 + 3, { en := true, tlb := [page0] })] }
def access (s : State) : Option (List (Nat × Nat)) :=
  match (peerAccess s 1 0 1 0x2000 64 pWR).1 with
  | some (.ok l) => some l
  | _ => none
theorem witness_serve : access (served (0, 0, 0) 2) = some [(0x2000, 64)] ∧ bit (lcinjOf (served (0, 0, 0) 2) 1).toNat 0 = false
    ∧ (let t := go (.linkCopyServe 1 0) (served (0, 0, 0) 2); (t.byte 0x2000, t.byte 0x203F, (t.link 2).inq) = (5, 5, []))
    ∧ routePort (served (1, 0, 0) 3) (1, 0, 0) = some 2
    ∧ (let t := go (.linkCopyServe 1 1) (served (1, 0, 0) 3); ((t.link 3).inq, (t.link 2).kept.length) = ([], 1)) := by decide +kernel

/-! ### Fetch, servicing and translation (R69-R78, R230, R382-R385) -/

theorem witness_fetch : (let x := st.tile 0
    x.shadow.active = false ∧ x.issues = true ∧ cachedLine x (st.xu 0).asid (pcLine x.ctx.pc) = none ∧ x.fetchBad = none
    ∧ pieces (tilePieces st 0 4 0 (pcLine x.ctx.pc) 128 pXB false) = [(0x1000, 128)] ∧ x.icache.length < 1024
    ∧ ((go (.instructionFetch 0) st).tile 0).icache.map (fun l => (l.va, l.asid, l.bytes.length)) = [(0x1000, 1, 128)]) := by decide +kernel
/-- A queued fault of the bundle at 0x1000, being serviced. -/
def fault0 : CFault := { fr := { cause := 0x31, tile := 0, unit := 0, ctx := 0, fseq := 0, pos := 0x1000 }, src := .issue }
def serviceSt (fact : W64) (esc : Bool) : State :=
  let s := st.setTile 0 { tile0 with shadow := { queue := [fault0], running := true, fact := fact, esc := esc, stubpc := 0x9000, rsel := 9 } }
  { s with cur := { s.cur with shadow := true } }
theorem fault_returns : (let t := go .hret (serviceSt 0 false); ((t.tile 0).ctx.pc, (t.tile 0).shadow.queue.length) = (0x1000, 0))
    ∧ (let t := go .hret (serviceSt 1 false); ((t.tile 0).ctx.pc, (t.tile 0).shadow.queue.length) = (0x1001, 0))
    ∧ (let t := go .hret (serviceSt 2 false); ((t.tile 0).shadow.esc, (t.tile 0).shadow.fltrec.map (·.cause)) = (true, some 0x31))
    ∧ ((go (.fltctlGoResume 0) (serviceSt 0 true)).tile 0).ctx.pc = 0x1000 ∧ ((go (.fltctlGoSkip 0) (serviceSt 0 true)).tile 0).ctx.pc = 0x1001
    ∧ (let x := (go (.fltctlGoRerun 0) (serviceSt 0 true)).tile 0; (x.shadow.esc, x.shadow.ctx.pc) = (false, 0x9000))
    ∧ ((go (.fltrvalWrite 0 77) (serviceSt 0 true)).tile 0).ctx.getS 9 = 77 := by decide +kernel
/-- Root table at 0x10000 whose entry 0 points at the table at 0x12000, whose entry 0 is a 4 GiB leaf with RD and WR. -/
def walkSt (leaf : Byte) (u : XUnit) : State :=
  { st with
    mem := { cells := [(0x10000, 1), (0x10001, 0x20), (0x10002, 1), (0x12000, leaf)].filter fun c => c.2 != 0 }
    xus := [(0, u)], walkers := [(0, { flight := [{ asid := 1, vpn := 5, root := 0x10000, units := [0] }] })] }
def missU : XUnit := { en := true, asid := 1, root := 0x10000, miss := [{ asid := 1, vpn := 5, root := 0x10000, reqs := [1], sent := true }] }
def leaf0 : TlbE := { asid := 1, va := 0, size := 2 ^ 32, pa := 0, perm := 3, g := false }
theorem witness_walk : (let s := walkSt 0xC7 missU; let w := tget ({} : Walker) s.walkers 0
    (walk s w 1 0x10000 5).1 = .leaf leaf0 ∧ 0 ∈ dieUnits 0 ∧ (s.xu 0).tlb.length < tlbSize 0
    ∧ ((go (.pageWalkComplete 0 1 5) s).xu 0).tlb = [leaf0] ∧ ((go (.pageWalkComplete 0 1 5) s).xu 0).miss = [])
    ∧ (walk (walkSt 0 missU) {} 1 0x10000 5).1 = .fail 0x10 ∧ ((go (.pageWalkComplete 0 1 5) (walkSt 0 missU)).xu 0).wfail = true := by decide +kernel
theorem witness_walk_request : (let m : MissE := { asid := 1, vpn := 6, root := 0x10000, reqs := [1] }; let s := walkSt 0 { missU with miss := [m] }
    (s.xu 0).miss.find? (fun e => !e.sent && e.failed.isNone) = some m ∧ unitDie 0 = 0
    ∧ ((tget ({} : Walker) (go (.walkRequest 0) s).walkers 0).flight.map fun k => (k.vpn, k.units)) = [(5, [0]), (6, [0])]) := by decide +kernel
theorem invalidations : ((go (.xlinvPage 0 1 5 true) st).xu 0).inv = [{ kind := 0, asid := 1, vpn := 5, bc := true }]
    ∧ ((go (.xlinvAsid 0 1 false) st).xu 0).inv.map (·.kind) = [1] ∧ ((go (.xlinvNonglobal 0 false) st).xu 0).inv.map (·.kind) = [2]
    ∧ ((go (.xlinvAll 0 false) st).xu 0).inv.map (·.kind) = [3]
    ∧ (let u := (go (.invalidationComplete 0) (go (.xlinvPage 0 1 0 false) st)).xu 0; (u.inv, u.tlb) = ([], []))
    ∧ ((go (.invalidationComplete 0) (go (.xlinvPage 0 2 0 false) st)).xu 0).tlb = [page0] := by decide +kernel

/-! ### Host port and queues (R344-R353, R407-R414) -/

/-- Window 1, key 5: 4 KiB from 0x2000 of ASID 1. Window 2, key 5: queue registers. -/
def win0 : Window := { base := 0x2000, len := 0x1000, key := 5, v := true, w := true, r := true, asid := 1 }
def queue0 : Queue := { open' := true, asid := 1, wridx := 2, rdidx := 1, qbase := 0x2000, cqh := 7, cqkey := 9, cqaddr := 0x5000 }
def hostSt (x : Queue) : State :=
  { st with
    windows := [(1, win0), (2, { win0 with reg := true })], queues := [(3, x)], asids := [(1, { live := true })]
    qps := [(4, { st := 2 })], mod := { ethUp := true }
    xus := [(64, { en := true, tlb := [page0] }), (76, { en := true, tlb := [page0] })], mem := { cells := [(0x2001, 7), (0x2040, 9)] } }
def winPieces (n : Nat) (wr : Bool) : Option (List (Nat × Nat)) :=
  (windowPieces (hostSt queue0) win0 0x2000 n wr).map pieces
theorem witness_host : ((hostSt queue0).qp 4).err = false ∧ keyWindow (hostSt queue0) 0x1403 = none ∧ keyWindow (hostSt queue0) 0x1401 = some win0
    ∧ keyWindow (hostSt queue0) 0x1402 = some { win0 with reg := true } ∧ winPieces 2 true = some [(0x2000, 2)] ∧ winPieces 2 false = some [(0x2000, 2)]
    ∧ anyPoison (hostSt queue0) 0x2000 2 = false ∧ ((hostSt queue0).queue 3).asid = win0.asid := by decide +kernel
theorem host_requests : (let t := go (.hostRdmaWrite 4 0x1401 0x2000 [1, 2]) (hostSt queue0); (t.byte 0x2000, t.byte 0x2001, t.outbox) = (1, 2, []))
    ∧ (go (.hostRdmaRead 4 0x1401 0x2000 2) (hostSt queue0)).outbox = [.readReply 4 [0, 7]]
    ∧ (go (.flushRead 4 0x1402) (hostSt queue0)).outbox = [.readReply 4 (List.replicate 8 0)]
    ∧ (let t := go (.doorbellWrite 4 0x1402 3 5) (hostSt queue0); ((t.queue 3).wridx, t.fe.pend) = (5, [3]))
    ∧ (let t := go (.doorbellWrite 4 0x1402 3 18) (hostSt queue0); ((t.queue 3).wridx, (t.queue 3).fstall, (t.queue 3).scause) = (2, true, 0x1B))
    ∧ ((go (.cqConsumedWrite 4 0x1402 3 8) (hostSt queue0)).queue 3).cqdone = 8
    ∧ (let t := go (.hostRdmaWrite 4 0x1403 0x2000 [1]) (hostSt queue0); (t.outbox, (t.qp 4).err) = ([.nak 4 true], true))
    ∧ (go (.hostRdmaRead 4 0x1403 0x2000 1) (hostSt queue0)).outbox = [.nak 4 true] ∧ (go (.invalidRequest 4) (hostSt queue0)).outbox = [.nak 4 false] := by
  decide +kernel
def feSt (f : FeSlot) (x : Queue) : State := { hostSt x with fe := { slots := [(0, f)] } }
def fetched (s : State) : List (Nat × Nat) :=
  pieces (vaPieces 64 1 0 true (reqId 10 3) pRD false 2 (0x2000 + 64) 64 s)
theorem witness_packet_fetch : (let s := feSt { q := 3, v := true } queue0
    fetchable queue0 = true ∧ fetched s = [(0x2040, 64)] ∧ anyPoison s 0x2040 64 = false
    ∧ (let t := go (.packetFetch 0) s; ((t.queue 3).rdidx, (t.queue 3).packets.map fun p => (p.n, p.bytes.take 2)) = (2, [(1, [9, 0])]))) := by decide +kernel
theorem front_end : mappedSlot (feSt {} queue0) 3 = none ∧ (go (.feslotMap 0 3) (feSt {} queue0)).fslot 0 = { q := 3, shown := 3, v := true }
    ∧ ((go (.feslotUnmap 0) (feSt { q := 3, v := true } queue0)).fslot 0).v = false
    ∧ ((go (.feslotUnmap 0) (feSt { q := 3, v := true, fetching := true } queue0)).fslot 0).busy = true
    ∧ ((go (.feslotUnmapEnd 0) (feSt { q := 3, v := true, busy := true } queue0)).fslot 0).v = false
    ∧ (go .festatClr { st with fe := { baddb := 4 } }).fe.baddb = 0 := by decide +kernel
def doneP : Packet := { n := 1, bytes := 3 :: 1 :: List.replicate 62 0, done := true, status := 5, detail := 6, value := 7 }
theorem completions : (let t := go (.completionRecordWrite 3) (hostSt { queue0 with packets := [doneP] })
      ((t.queue 3).cqidx, (t.queue 3).packets, t.outbox.length) = (1, [], 1))
    ∧ bit (blk doneP.bytes 1 1) 0 = true ∧ queue0.cqFull = false
    ∧ (let t := go (.eventFrameSend 3) (hostSt { queue0 with even := true, p := 2, cqidx := 9 }); ((t.queue 3).p, t.outbox) = (0, [.writeImm 7 0x90003]))
    ∧ (let t := go (.completionWriteFailure 3) (hostSt queue0); ((t.queue 3).fstall, (t.queue 3).scause) = (true, 0x18))
    ∧ ((go (.queueFstallClear 3) (hostSt { queue0 with fstall := true })).queue 3).fstall = false := by decide +kernel
theorem descriptions : ((go (.queueDescWrite 3 8 0) (hostSt queue0)).queue 3).open' = false
    ∧ (let x := (go (.queueDescWrite 4 8 0x10050) (hostSt queue0)).queue 4; (x.open', x.asid, x.wridx) = (true, 5, 0))
    ∧ ((go (.queueDescWrite 4 0 0x12345) (hostSt queue0)).queue 4).qbase = 0x12340
    ∧ (let w := tget ({} : Window) (go (.rdmaWindowWrite 9 0x10 0x500008002) st).windows 9; (w.v, w.key, w.asid) = (true, 5, 2))
    ∧ tget ({} : Window) (go (.rdmaWindowWrite 1 0x10 0) (hostSt queue0)).windows 1 = { win0 with v := false } := by decide +kernel

/-! ### Command packets (R345, R353-R356, R367, R368, R396) -/

/-- Queue 3 of ASID 1 holds one packet of number 1. -/
def pk (b : List Byte) (begun : Bool) : Packet := { n := 1, bytes := b, begun := begun }
def pktBase (p : Packet) (s : State) : State := { s with queues := [(3, { queue0 with packets := [p] })] }
def pktSt (b : List Byte) : State :=
  { pktBase (pk b false) st with
    asids := [(1, { live := true, root := 0x10000, signals := [(4, 9)], templates := [(2, [{ flags := 0, window := 1 }, { flags := 4, window := 1 }])] })]
    xus := [(64, { en := true, tlb := [page0] })] }
/-- The packet as it acts. -/
def begun (b : List Byte) : State := setPacket (pktSt b) 3 (pk b true)
theorem packet_acts (b : List Byte) (ty : Nat) {good : Prop} (h : blk b 0 1 = ty) (h1 : blk b 1 1 < 8) (h2 : blk b 2 2 = 1) (hg : good) :
    Claim.acts (pktSt b) 3 1 ty good (pk b true) (begun b) :=
  ⟨pk b false, rfl, h, rfl, rfl, .inr ⟨⟨rfl, rfl, fun _ hr => (List.not_mem_nil hr).elim, fun _ _ hr => (List.not_mem_nil hr).elim⟩, ⟨h1, h2⟩, hg, rfl⟩⟩
/-- The same of a packet that has begun. -/
theorem packet_goes_on (b : List Byte) (ty : Nat) {good : Prop} (p : Packet) (hp : p.n = 1) (hb : p.begun = true) (hd : p.done = false)
    (h : blk p.bytes 0 1 = ty) : Claim.acts (pktBase p (pktSt b)) 3 1 ty good p (pktBase p (pktSt b)) := by
  refine ⟨p, ?_, h, hd, ?_, .inl ⟨hb, rfl⟩⟩
  · show [p].find? (fun r => r.n == 1) = some p
    simp [hp]
  · cases p; simp_all
/-- A packet of a type, with bytes from 8 on. -/
def body (ty : Byte) (l : List Byte) : List Byte := [ty, 0, 1, 0, 0, 0, 0, 0] ++ l ++ List.replicate (56 - l.length) 0
def answer (s : State) : List (Bool × Nat × W64 × Nat) := (s.queue 3).packets.map fun p => (p.done, p.status, p.value, p.detail)
/-- SIGNAL adds 5 to signal 4, which is 9; WAIT for 9 or more, and for exactly 8. -/
def sig (ty op arg : Byte) : List Byte := body ty [4, 0, op, 0, 0, 0, 0, 0, arg]
theorem witness_signals :
    let good (b : List Byte) : Prop := blk b 8 2 ≤ 255 ∧ blk b 10 1 ≤ 1 ∧ blk b 11 5 = 0 ∧ blk b 24 40 = 0
    Claim.acts (pktSt (sig 6 1 5)) 3 1 6 (good (sig 6 1 5)) (pk (sig 6 1 5) true) (begun (sig 6 1 5))
    ∧ Claim.acts (pktSt (sig 7 0 9)) 3 1 7 (good (sig 7 0 9)) (pk (sig 7 0 9) true) (begun (sig 7 0 9))
    ∧ Claim.acts (pktSt (sig 7 1 8)) 3 1 7 (good (sig 7 1 8)) (pk (sig 7 1 8) true) (begun (sig 7 1 8)) :=
  ⟨packet_acts _ 6 rfl (by decide) rfl (by decide), packet_acts _ 7 rfl (by decide) rfl (by decide), packet_acts _ 7 rfl (by decide) rfl (by decide)⟩
theorem signals : (let t := go (.pktSignal 3 1) (pktSt (sig 6 1 5)); (answer t, tget 0 (tget ({} : Asid) t.asids 1).signals 4) = ([(true, 0, 14, 0)], 14))
    ∧ answer (go (.pktWait 3 1) (pktSt (sig 7 0 9))) = [(true, 0, 0, 0)] ∧ answer (go (.pktWait 3 1) (pktSt (sig 7 1 8))) = [(false, 0, 0, 0)] := by
  decide +kernel
def fenceB : List Byte := body 9 []
/-- A second packet, number 2, behind an earlier one. -/
def behind (first : Packet) : State := { pktSt fenceB with queues := [(3, { queue0 with packets := [first, { n := 2, bytes := fenceB }] })] }
theorem witness_fences : Claim.acts (pktSt fenceB) 3 1 9 (blk fenceB 8 56 = 0) (pk fenceB true) (begun fenceB)
    ∧ Claim.packetAt (behind (pk fenceB true)) 3 2 { n := 2, bytes := fenceB }
    ∧ Claim.mayStart (behind (pk fenceB true)) 3 2 { n := 2, bytes := fenceB }
    ∧ ¬ Claim.mayStart (behind (pk fenceB false)) 3 2 { n := 2, bytes := fenceB } := by
  refine ⟨packet_acts _ 9 rfl (by decide) rfl (by decide), rfl, ⟨rfl, rfl, ?_, ?_⟩, fun h => ?_⟩
  · intro r hr
    obtain rfl : r = pk fenceB true := List.mem_singleton.mp hr
    exact .inr ⟨rfl, by decide⟩
  · intro h; exact absurd h (by decide)
  · have := h.2.2.1 (pk fenceB false) (List.mem_singleton.mpr rfl)
    simp [pk] at this
theorem fences : answer (go (.pktFence 3 1) (pktSt fenceB)) = [(true, 0, 0, 0)] ∧ (answer (go (.pktFence 3 2) (behind (pk fenceB true)))).map (·.1) = [false, false] := by
  decide +kernel
/-- CTX: create with a root at 0x10000, destroy, and a new root at 0x20000; reserved OP 3, TYPE 11, another ASID. -/
def ctxB (op : Byte) (root : List Byte) : List Byte := body 10 ([op, 0, 0, 0, 0, 0, 0, 0] ++ root)
theorem witness_contexts :
    let good (root : Bool) (b : List Byte) : Prop := blk b 9 7 = 0 ∧ blk b 24 40 = 0 ∧
      if root then blk b 16 8 % 8192 = 0 ∧ blk b 16 8 + 8192 ≤ hbmEnd else blk b 16 8 = 0
    Claim.acts (pktSt (ctxB 0 [0, 0, 1])) 3 1 10 (good true (ctxB 0 [0, 0, 1])) (pk (ctxB 0 [0, 0, 1]) true) (begun (ctxB 0 [0, 0, 1]))
    ∧ Claim.acts (pktSt (ctxB 1 [])) 3 1 10 (good false (ctxB 1 [])) (pk (ctxB 1 []) true) (begun (ctxB 1 []))
    ∧ Claim.acts (pktSt (ctxB 2 [0, 0, 2])) 3 1 10 (good true (ctxB 2 [0, 0, 2])) (pk (ctxB 2 [0, 0, 2]) true) (begun (ctxB 2 [0, 0, 2]))
    ∧ ¬ Claim.headGood (pktSt ([2, 0, 9, 0] ++ List.replicate 60 0)) 3 (pk ([2, 0, 9, 0] ++ List.replicate 60 0) false) :=
  ⟨packet_acts _ 10 rfl (by decide) rfl (by decide), packet_acts _ 10 rfl (by decide) rfl (by decide), packet_acts _ 10 rfl (by decide) rfl (by decide),
    fun h => absurd h.2 (by decide)⟩
theorem contexts : (tget ({} : Asid) (go (.pktCtxCreate 3 1) (pktSt (ctxB 0 [0, 0, 1]))).asids 1).signals = []
    ∧ (tget ({} : Asid) (go (.pktCtxDestroy 3 1) (pktSt (ctxB 1 []))).asids 1).live = false
    ∧ (tget ({} : Asid) (go (.pktCtxSetRoot 3 1) (pktSt (ctxB 2 [0, 0, 2]))).asids 1).root = 0x20000
    ∧ answer (go (.pktCtxCreate 3 1) (pktSt (ctxB 3 []))) = [(true, 8, 0, 0)] ∧ answer (go (.pktFence 3 1) (pktSt (body 11 []))) = [(true, 8, 0, 0)]
    ∧ answer (go (.pktBind 3 1) (pktSt ([2, 0, 9, 0] ++ List.replicate 60 0))) = [(true, 8, 0, 0)] := by decide +kernel

/-- An object of one empty section of type 9, 96 bytes at 0x6000, of version 3 for a machine of version 7. -/
def object0 (magic : Byte) : List Byte :=
  [magic, 0x49, 0x42, 0x52, 3, 0, 1, 0, 7, 0, 0, 0, 0, 0, 0, 0, 96] ++ List.replicate 47 0 ++ [9, 0, 0, 0, 0, 0, 0, 0, 64] ++ List.replicate 23 0
def loadFw0 : LoadFw := { alloc := [], pages := [], tables := [], images := [], placement := [], handle := 77, mustSign := false, versions := [7], noRoom := false }
def loadB : List Byte := body 3 [0, 0x60, 0, 0, 0, 0, 0, 0, 96]
def loadState (magic : Byte) : State :=
  { pktSt loadB with mem := { cells := (tabulate 96 fun i => (0x6000 + i, (object0 magic).getD i 0)).filter fun c => c.2 != 0 } }
def objRead (s : State) : List Byte :=
  match (packetRead s 3 0x6000 96).1 with
  | .ok b => b
  | .error _ => []
def loadedAs (r : Except Nat (State × Nat)) : Nat × Nat :=
  match r with
  | .ok (_, h) => (0, h)
  | .error e => (1, e)
theorem witness_objects : objRead (loadState 0x48) = object0 0x48 ∧ blk loadB 28 36 = 0 ∧ blk loadB 24 4 < 4
    ∧ loadedAs (loadObject (loadState 0x48) 1 (object0 0x48) 0 loadFw0) = (0, 77) ∧ loadedAs (loadObject (loadState 0x47) 1 (object0 0x47) 0 loadFw0) = (1, 1)
    ∧ answer (go (.pktLoadobj 3 1 loadFw0) (loadState 0x48)) = [(true, 0, 77, 0)] ∧ answer (go (.pktLoadobj 3 1 loadFw0) (loadState 0x47)) = [(true, 0x3F, 0, 1)] := by
  decide +kernel
/-- MAP of 4 GiB at 0 with RD and WR: the table at level 1 is the free one at 0x12000. -/
def mapB : List Byte := body 4 ([0, 0, 0, 0, 0, 0, 0, 0, 0, 0, 0, 0, 0, 0, 0, 0, 0, 0, 0, 0, 1, 0, 0, 0, 6, 3])
theorem witness_map : (let f (o k : Nat) : Nat := blk mapB o k
    f 34 30 = 0 ∧ f 33 1 = 3 ∧ bit (f 32 1) 0 = false ∧ bit (f 32 1) 7 = false ∧ f 24 8 = 2 ^ 32 ∧ f 24 8 % leafSize 3 = 0
    ∧ leafRangeOk (f 16 8) (leafSize 3) (bits (f 32 1) 5 1) = true
    ∧ (mapPage (begun mapB) 0x10000 0 0 3 3 false [0x12000]).isSome = true ∧ (mapPage (begun mapB) 0x10000 0 0 3 3 false []).isNone = true)
    ∧ (let t := go (.pktMap 3 1 [0x12000]) (pktSt mapB); (answer t, t.byte 0x10001, t.byte 0x12000) = ([(true, 0, 0, 0)], 0x20, 0xC7))
    ∧ answer (go (.pktMap 3 1 []) (pktSt mapB)) = [(true, 8, 0, 0)] := by decide +kernel
/-- UNMAP of 256 KiB at 0; COPY of a block at 0x40. -/
def unmapB : List Byte := body 5 [0, 0, 0, 0, 0, 0, 0, 0, 0, 0, 4]
def copyB : List Byte := body 8 [0x40]
theorem witness_unmap_and_copy : Claim.acts (pktSt unmapB) 3 1 5 (blk unmapB 24 40 = 0 ∧ blk unmapB 8 8 % 2 ^ 18 = 0 ∧ blk unmapB 16 8 % 2 ^ 18 = 0
      ∧ blk unmapB 8 8 + blk unmapB 16 8 ≤ 2 ^ 52) (pk unmapB true) (begun unmapB)
    ∧ Claim.acts (pktSt copyB) 3 1 8 (blk copyB 16 48 = 0 ∧ blk copyB 8 8 % 64 = 0) (pk copyB true) (begun copyB)
    ∧ Claim.acts (pktBase { pk copyB true with pushed := 1 } (pktSt copyB)) 3 1 8 (blk copyB 16 48 = 0) { pk copyB true with pushed := 1 }
        (pktBase { pk copyB true with pushed := 1 } (pktSt copyB)) :=
  ⟨packet_acts _ 5 rfl (by decide) rfl (by decide), packet_acts _ 8 rfl (by decide) rfl (by decide), packet_goes_on _ 8 _ rfl rfl rfl rfl⟩
theorem unmap_and_copy : (let t := go (.pktUnmap 3 1) (pktSt unmapB); (answer t, (t.xu 64).tlb) = ([(true, 0, 0, 0)], [])) ∧ (pktSt unmapB).engines = []
    ∧ (let t := go (.pktCopy 3 1 5) { pktSt copyB with mem := { cells := [(0x40, 1), (0x43, 9)] } }
       ((t.eng (.tile 5)).q.map fun c => (c.block.take 4, c.packet)) = [([1, 0, 0, 0], some (3, 1))] ∧ answer t = [(false, 0, 0, 0)]) := by decide +kernel

/-- LAUNCH of two instances of node 0, and of a gang of node 1, of template 2. -/
def launchB (node count : Byte) : List Byte := body 1 [2, 0, node, 0, 0, 0, 0, 0, count]
theorem witness_launch : Claim.acts (pktSt (launchB 0 2)) 3 1 1 (blk (launchB 0 2) 21 43 = 0 ∧ blk (launchB 0 2) 20 1 < 8 ∧ 0 < blk (launchB 0 2) 16 4
      ∧ blk (launchB 0 2) 16 4 ≤ 2 ^ 24) (pk (launchB 0 2) true) (begun (launchB 0 2))
    ∧ Claim.acts (pktSt (launchB 1 1)) 3 1 1 (0 < blk (launchB 1 1) 16 4) (pk (launchB 1 1) true) (begun (launchB 1 1)) :=
  ⟨packet_acts _ 1 rfl (by decide) rfl (by decide), packet_acts _ 1 rfl (by decide) rfl (by decide)⟩
def gang : TRec := { template := 2, node := 1, inst := 0, prio := 0, flags := 4, left := 0, asid := 1, image := 0, of := some (3, 1) }
theorem launches : (let t := go (.pktLaunch 3 1 [(5, 0), (6, 0)]) (pktSt (launchB 0 2))
      ((t.tile 5).queue.map fun r => (r.template, r.node, r.inst, r.asid)) = [(2, 0, 0, 1)] ∧ ((t.tile 6).queue.map fun r => r.inst) = [1])
    ∧ dispatchable (pktSt (launchB 1 1)) 5 gang = true ∧ ((go (.pktLaunch 3 1 [(5, 0)]) (pktSt (launchB 1 1))).tile 5).queue = [gang]
    ∧ (let s := (pktSt (launchB 0 2)).setTile 5 { retired := true }; (go (.pktLaunch 3 1 [(5, 0), (6, 0)]) s).tiles = s.tiles)
    ∧ answer (go (.pktLaunch 3 1 []) (pktSt (launchB 9 1))) = [(true, 0x3F, 0, 5)] := by decide +kernel
/-- BIND of element 1 as a SINK in region 0, slot 0, to base 0x3000. -/
def bindB : List Byte := body 2 ([0, 0, 0, 0, 0, 0, 0, 0] ++ [0, 0x30, 0, 0, 0, 0, 0, 0, 1, 0x30])
def bindState (p : Packet) (x : Elem) : State :=
  { pktBase p (pktSt bindB) with collars := [(0, { regions := [(0, { task := some 1, emask := 2 ^ 256 - 1 })], elems := [(1, x)] })] }
def agElem : Elem := { cur := [(0, 0)], planes := [(0, { loaded := true, op := 0x7E000000 })] }
theorem witness_bind : Claim.acts (bindState (pk bindB false) agElem) 3 1 2 True (pk bindB true) (setPacket (bindState (pk bindB false) agElem) 3 (pk bindB true))
    ∧ Claim.acts (bindState { pk bindB true with sinks := [(0, 1, 0)] } agElem) 3 1 2 True { pk bindB true with sinks := [(0, 1, 0)] }
        (bindState { pk bindB true with sinks := [(0, 1, 0)] } agElem) :=
  ⟨⟨pk bindB false, rfl, rfl, rfl, rfl, .inr ⟨⟨rfl, rfl, fun _ hr => (List.not_mem_nil hr).elim, fun _ _ hr => (List.not_mem_nil hr).elim⟩, ⟨by decide, rfl⟩, trivial, rfl⟩⟩,
    ⟨{ pk bindB true with sinks := [(0, 1, 0)] }, rfl, rfl, rfl, rfl, .inl ⟨rfl, rfl⟩⟩⟩
theorem binds : bindTask (bindState (pk bindB false) agElem) 3 (pk bindB true) = some 1 ∧ ((bindsOf (pk bindB true)).all fun b => bindOk (bindState (pk bindB false) agElem) 0 1 b) = true
    ∧ (let t := go (.pktBind 3 1) (bindState (pk bindB false) agElem)
       (t.collar 0).starts.map (·.elem) = [1] ∧ t.byte (spmBase + 1) = 0x30 ∧ (t.queue 3).packets.map (·.sinks) = [[(0, 1, 0)]])
    ∧ answer (go (.pktBind 3 1) (bindState (pk bindB false) {})) = [(true, 0x26, 0, 0)]
    ∧ answer (go (.pktBind 3 1) { bindState (pk bindB false) agElem with tasks := [] }) = [(true, 8, 0, 0)] := by decide +kernel
theorem bind_sinks : sinkDone (bindState { pk bindB true with sinks := [(0, 1, 0)] } agElem) 0 1 0 = true
    ∧ answer (go (.pktBind 3 1) (bindState { pk bindB true with sinks := [(0, 1, 0)] } agElem)) = [(true, 0, 0, 0)]
    ∧ (let s := bindState { pk bindB true with sinks := [(0, 1, 0)] } { agElem with planes := [(0, { loaded := true, bank := { st := { on := true } } })] }
       sinkDone s 0 1 0 = false ∧ answer (go (.pktBind 3 1) s) = [(false, 0, 0, 0)]) := by decide +kernel

/-! ### The tile's queue, dispatch, pre-emption and retirement (R358-R366, R370, R390-R392) -/

def rec1 : TRec := { template := 2, node := 0, inst := 7, prio := 1, asid := 1, image := 0x8000 }
/-- A tile that runs nothing; a node with two arguments and region 1. -/
def node0 : Node := { entry := 0x3000, narg := 2, bases := [5, 6], strides := [8, 0xFFFFFFFF], window := 1, regions := 2, masks := [(1, (0xF0, 3))] }
def idle (x : Tile) (ts : List (Nat × Task)) : State :=
  { st with tiles := [(0, x)], tasks := ts, asids := [(1, { live := true, templates := [(2, [node0])] })], mod := { nextTask := 9 } }
def running (x : Tile) (k : Task) : State := { st with tiles := [(0, x)], tasks := [(1, k)] }
def preemptible : Task := { task1 with trec := { rec1 with flags := 2 } }
theorem queue_commands : (let t := go (.tqPushTail 0) (idle { queue := [rec1], tqrec := [(0, 0x700000002), (1, 0x100000001)] } [])
      (t.tile 0).queue = [rec1, { rec1 with image := 0 }])
    ∧ ((go (.tqPushHead 0) (idle { queue := [rec1] } [])).tile 0).queue = [{}, rec1]
    ∧ (let x := (go (.tqRemove 0 0) (idle { queue := [rec1] } [])).tile 0; (x.queue, tget 0 x.tqrec 0, tget 0 x.tqrec 1, tget 0 x.tqrec 2) = ([], 0x700000002, 0x100000001, 0x8000))
    ∧ ((go (.tqRemove 0 1) (idle { queue := [rec1] } [])).tile 0).cerr = true
    ∧ ((go (.tqPushTail 0) (idle { queue := List.replicate 32 rec1 } [])).tile 0).cerr = true
    ∧ ((go (.tqPreempt 0) (running tile0 preemptible)).tile 0).preempt = true ∧ ((go (.tqPreempt 0) (running tile0 task1)).tile 0).cerr = true := by
  decide +kernel
theorem queue_aborts : ((go (.tqAbortRunning 0 true) st).tile 0).abort = some (none, true) ∧ ((go (.tqAbortRunning 0 true) (idle {} [])).tile 0).cerr = true
    ∧ ((go (.tqAbortParked 0 0 false) (idle { parked := [{ task := 4, why := .tokens 1 false, place := .buffer }] } [])).tile 0).abort = some (some 0, false)
    ∧ ((go (.tqAbortParked 0 0 false) (idle {} [])).tile 0).cerr = true ∧ ((go (.tqPushTail 0) (idle { preempt := true } [])).tile 0).cerr = true := by
  decide +kernel
theorem witness_dispatch : (let s := idle { queue := [rec1] } []
    chooseNext s 0 = some (.inr 0) ∧ savedTask s rec1 = none ∧ nodeOf s rec1 = some node0 ∧ tsorted (s.collar 0).regions = true
    ∧ chooseNext (idle {} []) 0 = none ∧ (s.tile 0).retired = false
    ∧ (let t := go (.taskDispatch 0) s
       (t.tile 0).task = some 9 ∧ (t.tile 0).queue = [] ∧ (t.tile 0).ctx.pc = 0x3000 ∧ (t.tile 0).ctx.getS 1 = 61 ∧ (t.tile 0).ctx.getS 2 = 2 ^ 64 - 1
       ∧ (t.tile 0).ctx.getS 3 = 0 ∧ (t.tile 0).sys.tinst = 7 ∧ (t.tile 0).sys.tnode = 0x20000
       ∧ ((t.collar 0).region 1).emask = 0xF0 ∧ ((t.collar 0).region 1).task = some 9)) := by decide +kernel
/-- A pre-empted task 4 with its image at 0x8000: version 3, check value 3. -/
def away : Task := { trec := rec1, started := true, savedCtx := some ({ ctx0 with pc := 0x7000 }, {}, {}, {}) }
def resumeSt (poison : List Nat) : State :=
  { idle { queue := [rec1] } [(4, away)] with mem := { cells := [(0x8004, 3), (0x8014, 3)], poison := poison } }
theorem witness_resume : (let s := resumeSt []
    chooseNext s 0 = some (.inr 0) ∧ savedTask s rec1 = some 4 ∧ anyPoison s 0x8000 8192 = false ∧ anyPoison (resumeSt [0x8020]) 0x8000 8192 = true
    ∧ (switchAsk s 0 (dispatchPieces s 0 (.inr 0))).1 = true
    ∧ blk (s.bytes 0x8000 8192) 4 1 = 3 ∧ blk (s.bytes 0x8000 8192) 20 4 = 3 ∧ blk (s.bytes 0x8000 8192) 6 2 = away.winCount) := by decide +kernel
theorem takeBytes_nil : ∀ n a, takeBytes n a [] = List.replicate n 0
  | 0, _ => rfl
  | n + 1, a => by rw [takeBytes, takeBytes_nil n, List.replicate_succ]
theorem takeBytes_tail (m : Nat) : ∀ (n a : Nat) (c : List Host.Cell), okFrom a c → (∀ p ∈ c, p.1 < a + n) →
    takeBytes (n + m) a c = takeBytes n a c ++ List.replicate m 0
  | n, a, [], _, _ => by rw [takeBytes_nil, takeBytes_nil, List.replicate_append_replicate]
  | 0, a, (x, b) :: t, h, hc => by
    have h1 := hc (x, b) (List.mem_cons_self ..)
    have h2 := h.1
    simp only at h1; omega
  | n + 1, a, (x, b) :: t, h, hc => by
    have ht : ∀ p ∈ t, p.1 < a + 1 + n := fun p hp => by have := hc p (List.mem_cons_of_mem _ hp); omega
    have hx : ∀ p ∈ (x, b) :: t, p.1 < a + 1 + n := fun p hp => by have := hc p hp; omega
    rw [show n + 1 + m = n + m + 1 from by omega, takeBytes, takeBytes]
    by_cases e : x = a
    · subst e
      rw [if_pos rfl, if_pos rfl, takeBytes_tail m n (x + 1) t (h.2.2) ht, List.cons_append]
    · have hlt : a + 1 ≤ x := by have := h.1; omega
      rw [if_neg e, if_neg e, takeBytes_tail m n (a + 1) ((x, b) :: t) ⟨hlt, h.2⟩ hx, List.cons_append]
theorem csum_zeros : ∀ (n c : Nat), c < 2 ^ 32 → chkStep 1 c [] (List.replicate (4 * n) 0) = (c, [])
  | 0, _, _ => rfl
  | n + 1, c, h => by
    have ih := csum_zeros n c h
    rw [show 4 * (n + 1) = 4 * n + 1 + 1 + 1 + 1 from by omega]
    simp only [List.replicate_succ]
    unfold chkStep at ih ⊢
    simp only [Nat.reduceEqDiff, ↓reduceIte, List.foldl_cons] at ih ⊢
    have hw : csum32 c [natOfBytes [0#8, 0#8, 0#8, 0#8]] = c := by
      show (c + 0) % 2 ^ 32 + (c + 0) / 2 ^ 32 = c
      omega
    simpa [hw] using ih
theorem witness_resume_check : (let img := (resumeSt []).bytes 0x8000 8192
    (chkStep 1 0 [] (img.take 20 ++ List.replicate 4 0 ++ img.drop 24)).1 = 3) := by
  have hb : (resumeSt []).bytes 0x8000 8192 = takeBytes 24 0x8000 [(0x8004, 3), (0x8014, 3)] ++ List.replicate 8168 0 :=
    takeBytes_tail 8168 24 0x8000 [(0x8004, 3), (0x8014, 3)] ⟨by decide, by decide, by decide, by decide, trivial⟩ (by decide)
  have hl : (takeBytes 24 0x8000 [(0x8004, 3), (0x8014, 3)]).length = 24 := by decide
  show (chkStep 1 0 [] (((resumeSt []).bytes 0x8000 8192).take 20 ++ List.replicate 4 0 ++ ((resumeSt []).bytes 0x8000 8192).drop 24)).1 = 3
  rw [hb, List.take_append_of_le_length (by omega), List.drop_left' hl]
  have hs : ∀ l r : List Byte, (chkStep 1 0 [] (l ++ r)).1 = (chkStep 1 (chkStep 1 0 [] l).1 (chkStep 1 0 [] l).2 r).1 := by
    intro l r
    simp [chkStep, List.foldl_append]
  rw [hs, show chkStep 1 0 [] ((takeBytes 24 0x8000 [(0x8004, 3), (0x8014, 3)]).take 20 ++ List.replicate 4 0) = (3, []) from by decide +kernel]
  rw [show 8168 = 4 * 2042 from rfl, csum_zeros _ _ (by decide)]
/-- A refused image: the task waits to fail, and fails once no token of it is PENDING. -/
theorem resume_poisoned : (let t := go (.taskDispatch 0) (resumeSt [0x8020]); ((t.tile 0).task, (t.tile 0).failing, (t.tile 0).queue) = (none, [(4, 0x1D)], []))
    ∧ (let t := go (.taskRetire 0) (idle { failing := [(4, 0x1D)] } [(4, away)])
       ((t.tile 0).failing, (t.task 4).cause, (t.task 4).retired) = ([], 0x1D, true))
    ∧ (let t := go (.taskRetire 0) (idle { failing := [(4, 0x1D)] } [(4, { away with tokens := [(3, { word := 1 })] })])
       ((t.tile 0).failing, (t.task 4).retired) = ([(4, 0x1D)], false)) := by decide +kernel
def parked0 : Parked := { task := 4, why := .tokens 0x20 false, place := .image }
/-- Parked with its image at 0x8000. -/
def parkedSt (poison : List Nat) : State :=
  { idle { parked := [parked0] } [(4, { away with resident := true })] with mem := { cells := [(0x8004, 3), (0x8014, 3)], poison := poison } }
theorem witness_parked : (let s := parkedSt []
    chooseNext s 0 = some (.inl parked0) ∧ imgAtOf s 0 4 .image = .mem 0x8000 ∧ anyPoison s 0x8000 8192 = false
    ∧ (switchAsk s 0 (dispatchPieces s 0 (.inl parked0))).1 = true ∧ parkImage (parkedSt [0x8020]) (.mem 0x8000) = none
    ∧ (let t := go (.taskDispatch 0) (parkedSt [0x8020]); ((t.tile 0).task, (t.tile 0).failing, (t.tile 0).parked) = (none, [(4, 0x1D)], []))) := by
  decide +kernel
def landSt : State := running { tile0 with landing := true, preempt := true } preemptible
theorem witness_land : (let x := landSt.tile 0
    drained x.ctx = true ∧ x.arr.mmas = [] ∧ x.arr.drains = [] ∧ wdStill x = true ∧ repliesPending landSt 0 1 = false ∧ (landSt.collar 0).loads = []
    ∧ x.shadow.queue = [] ∧ landSt.mem.wf = true ∧ (switchAsk landSt 0 (imagePieces landSt 0 1 [])).1 = true) := by decide +kernel
def retireSt (k : Task) : State := running { tile0 with doneWait := true } k
/-- A logged byte 5 at 0x4000; the same into a poisoned line. -/
def logged : Task := { task1 with log := [(0x4000, some 5 :: List.replicate 63 none)] }
theorem witness_retire : (let s := retireSt logged
    drained (s.tile 0).ctx = true ∧ tasksQuiet s 0 1 = true ∧ tokensPending s 1 = false
    ∧ (logged.log.all fun l => !logLineBad s l) = true ∧ (askBanks s (portTo 0 5) (tileReq 16 0 0) 256 [(0x4000, 64)]).1 = true
    ∧ (logged.log.any (logLineBad { s with mem := { poison := [0x4000] } })) = true
    ∧ (let t := go (.taskRetire 0) s; ((t.tile 0).task, (t.task 1).retired, t.byte 0x4000, (t.task 1).log.length) = (some 1, false, 5, 0)
        ∧ (let t := go (.taskRetire 0) t; ((t.tile 0).task, (t.task 1).retired, t.byte 0x4000) = (none, true, 5)))
    ∧ (let t := go (.taskRetire 0) { s with mem := { poison := [0x4000] } }; ((t.tile 0).task, (t.task 1).cause) = (none, 0x1E))) := by decide +kernel
theorem aborts : (let t := go (.taskRetire 0) (running { tile0 with abort := some (none, false) } task1); ((t.tile 0).task, (t.tile 0).abort, (t.task 1).cause) = (none, none, 0x3C))
    ∧ (let t := go (.taskRetire 0) (running { tile0 with abort := some (none, false), retired := true } task1); (t.task 1).cause = 0x3D)
    ∧ tokensPending (running { tile0 with abort := some (none, false) } { task1 with tokens := [(3, { word := 1 })] }) 1 = true := by decide +kernel

/-! ### The module (R62, R102, R373, R393, R394, R424-R433) -/

def modSt (m : Module) : State := { st with mod := m }
def msg (c : Nat) : Msg := { kind := 3, src := 0, unit := 0, cause := c, bytes := [] }
/-- Plane 0 of slot 2 of element 5 of strip 64 holds recv from the mailbox. -/
def recvElem : Elem := { planes := [(0, { loaded := true, op := 0x8C000000, mode := 0x300 })], cur := [(2, 0)] }
def mailSt (x : Elem) : State :=
  { modSt { outbox := [(64, 5, [7, 0, 0, 1])] } with collars := [(64, { elems := [(5, x)] })] }
theorem mailbox : ((go .mbxPop (modSt { inbox := [msg 1, msg 2], waiting := [msg 3] })).mod.inbox.map (·.cause)) = [2, 3]
    ∧ (go .mbxPop (modSt {})).mod = {} ∧ (go (.mbxSend 64 5) (modSt { mbxout := [(1, 0x0200)] })).mod.outbox = [(64, 5, List.replicate 9 0 ++ [2] ++ List.replicate 54 0)]
    ∧ (go (.mbxSend 64 5) (modSt { outbox := List.replicate 16 (64, 5, []) })).mod.serr = true
    ∧ recvPlane recvElem = some (2, 0) ∧ recvPlane {} = none
    ∧ (let t := go .mailboxDeliver (mailSt recvElem); (t.mod.outbox, (t.elemOf 64 5).inbox.map fun k => (k.val, k.slot)) = ([], [(0x01000007, 2)]))
    ∧ (let t := go .mailboxDeliver (mailSt { recvElem with inbox := [{ vc := 0 }] }); (t.mod.outbox.length, (t.elemOf 64 5).inbox.length) = (1, 1))
    ∧ (go .mailboxDeliver (mailSt {})).mod.serr = true := by decide +kernel
def alarmSt (policy lock : Bool) : State := modSt { policy := policy, lock := lock, keys := [(0, 5)], health := 1 }
theorem alarms : (let m := (go (.securityAlarm 2) (alarmSt true true)).mod; (m.alarm, m.src, m.keys, m.erased, m.inbox.map (·.cause)) = (true, 2, [], true, [0x3E]))
    ∧ (let m := (go (.securityAlarm 2) (alarmSt false true)).mod; (m.keys, m.erased) = ([(0, 5)], false))
    ∧ (let m := (go (.securityAlarm 2) (modSt { alarm := true, src := 7, inbox := List.replicate 64 (msg 1) })).mod; (m.src, m.inbox.length, m.waiting.length) = (7, 64, 1))
    ∧ (go (.secalmPolicyWrite true) (alarmSt false true)).mod.policy = false
    ∧ (let m := (go (.secalmPolicyWrite true) (modSt { alarm := true, keys := [(0, 5)] })).mod; (m.policy, m.lock, m.keys) = (true, true, [])) := by
  decide +kernel
theorem health_and_clock : (go (.healthWrite 0x1040702) (alarmSt false true)).mod.health = 2 ∧ (go (.healthWrite 0x1040702) (alarmSt false true)).mod.rtile = 7
    ∧ (go (.healthWrite 0) (alarmSt false true)).mod.health = 1 ∧ (go (.healthWrite 3) (alarmSt false true)).mod.health = 1
    ∧ (go (.clockThrottling 1900) (modSt {})).mod.mhz = 1900 ∧ (go (.clockThrottling 900) (modSt { mhz := 1000 })).mod.mhz = 1000
    ∧ (go (.pauseFrame 3 true) (modSt { paused := [1] })).mod.paused = [1, 3] ∧ (go (.pauseFrame 1 false) (modSt { paused := [1] })).mod.paused = []
    ∧ (let t := go .powerLoss (alarmSt false true); (t.mod.powered, t.mod.keys, t.tiles.length) = (false, [(0, 5)], 0)) := by decide +kernel

/-- Element 5 of tile 0 holds plane 1 for slot 0, which its region has selected. -/
def errSt : State :=
  { st with collars := [(0, { regions := [(0, { emask := 32, sel := some 0 })], elems := [(5, { planes := [(1, { loaded := true })], cur := [(0, 1)] })] })] }
theorem soft_errors_of_memory : tget 0 (go (.softError (.hbmCorrected 2)) errSt).mem.ceHbm 2 = 1 ∧ place 0x47 = .hbm ∧ place (spmBase + 0x17) = .spm 0 0x17
    ∧ (let t := go (.softError (.hbmHalf 0x47)) errSt; (isPoisoned t 0x40, isPoisoned t 0x5F, isPoisoned t 0x60, tget 0 t.mod.counts 2049) = (true, true, false, 1))
    ∧ tget 0 (go (.softError (.spmCorrected 3)) errSt).mem.ceSpm 3 = 1
    ∧ (let t := go (.softError (.spmWord (spmBase + 0x17))) errSt; (isPoisoned t (spmBase + 0x10), isPoisoned t (spmBase + 0x20), tget 0 t.mod.counts 1) = (true, false, 1)) := by
  decide +kernel
theorem soft_errors_of_elements : errorPlane errSt 0 5 = some (0, 1) ∧ (errSt.elemOf 0 5).fault = none
    ∧ (let s := errSt.setPlane 0 5 1 { errSt.planeOf 0 5 1 with qa := [netTok, netTok], qp := [netPen] }
       (((go (.softError (.queueEntry 0 5 1 0 1)) s).planeOf 0 5 1).qa.map (·.bad), ((go (.softError (.queueEntry 0 5 1 3 0)) s).planeOf 0 5 1).qp.map (·.bad)) = ([false, true], [true]))
    ∧ (let s := errSt.setCollar 0 ((errSt.collar 0).setBox 3 { dbuf := [(1, [netTok])] })
       (tget [] (((go (.softError (.boxEntry 0 3 false 1 0)) s).collar 0).box 3).dbuf 1).map (·.bad) = [true])
    ∧ ((go (.softError (.planeWords 0 5)) errSt).planeOf 0 5 1).bad = true
    ∧ ((go (.softError (.meshToken 0 5)) errSt).elemOf 0 5).fault.map (·.cause) = some 0x2C ∧ (go (.softError (.accWord 0 3 4)) errSt).tiles.map (fun x => x.2.arr.accBad) = [[388]]
    ∧ 64 + 9 ∈ ((go (.softError (.regWord 0 true 9)) errSt).tile 0).regBad ∧ 9 ∈ ((go (.softError (.regWord 0 false 9)) errSt).tile 0).regBad ∧ 2 ∈ ((go (.softError (.weightSlot 0 2)) errSt).arr 0).wbufBad
    ∧ (imageOf loads0 0 0).size = 64
    ∧ ctxParity (poisonAt loads0 (ctxAddr 0 8)) 0 0 = true ∧ ctxParity loads0 0 0 = false := by decide +kernel

def up : Bringup :=
  { cpOk := true, tamper := false, fwOk := true, romOk := true, policy := true, badStacks := 0, badTiles := [3, 70], usedSpares := false
    lanes := List.replicate 6 0xFFFF, ethOk := true, logState := 0 }
def retSt : State := { st with tiles := [(0, { tile0 with queue := [rec1] })] }
theorem retirement : (let t := go (.tileRetirement 0 [4]) retSt
      (t.tile 0).retired = true ∧ (t.tile 0).queue = [] ∧ (t.tile 0).abort = some (none, true) ∧ (t.tile 4).queue = [rec1]
        ∧ (t.mod.rtile, t.mod.health, t.mod.retired) = (1, 1, [0]))
    ∧ (go (.tileRetirement 0 [4]) { retSt with mod := { rtile := 3 } }).mod.health = 2
    ∧ (go (.tileRetirement 0 []) (idle { retired := true } [])).mod.rtile = 0 := by decide +kernel
theorem resets : (let t := go (.coldReset up) { retSt with mod := { keys := [(0, 5)] } }
      (t.mod.keys, t.mod.cpsel, t.mod.policy, t.mod.ready) = ([(0, 5)], false, true, true)
        ∧ (t.mod.rtile, t.mod.health, (t.tile 3).retired, (t.tile 0).task, t.tasks.length) = (1, 1, true, none, 0))
    ∧ (let m := (go (.coldReset { up with fwOk := false, tamper := true }) st).mod; (m.stopped, m.alarm, m.src) = (true, true, 2))
    ∧ (go (.thermalTrip { up with romOk := false }) st).mod.stopped = true
    ∧ (let m := (go (.warmReset up) (modSt { cpsel := true, alarm := true, src := 2, lock := true })).mod; (m.cpsel, m.alarm, m.src, m.policy, m.ready) = (true, true, 2, false, true)) := by
  decide +kernel

theorem register_writes_tile : ((go (.registerWrite 0 0x100 0x51) st).xu 0).asid = 5 ∧ ((go (.registerWrite 0 0x108 0x6FFF) st).xu 0).root = 0x6000
    ∧ ((go (.registerWrite 0 0x118 2) { st with xus := [(0, { wfail := true })] }).xu 0).wfail = false
    ∧ (let a := (go (.registerWrite 0 0x430 0x0485) st).arr 0; (a.winBase, a.winCount) = (5, 4)) ∧ tget (0 : W32) ((go (.registerWrite 0 0x508 9) st).tile 0).sys.th 1 = 9
    ∧ ((go (.registerWrite 0 0x540 9) st).arr 0).hdrop = 9 ∧ ((go (.registerWrite 0 0x700 0x1000000) (idle { cerr := true } [])).tile 0).cerr = false
    ∧ tget (0 : W64) ((go (.registerWrite 0 0x718 9) st).tile 0).tqrec 1 = 9 ∧ ((go (.registerWrite 0 0x850 0x123F) st).tile 0).shadow.stubpc = 0x1223
    ∧ (((go (.registerWrite 0 0x1050 0x10007) st).collar 0).region 1).k = 7 ∧ ((go (.registerWrite 0 0x708 1) st).tile 0).queue = [{}] ∧ ((go (.registerWrite 0 0x708 0x103) st).tile 0).cerr = true
    ∧ ((go (.registerWrite 0 0x708 0x10005) st).tile 0).abort = some (none, true) ∧ ((go (.registerWrite 0 0x708 8) st).tile 0).cerr = true := by decide +kernel
theorem register_writes_elsewhere : ((go (.registerWrite 64 0x180 0x1009) st).collar 64).asid = 9 ∧ tget (0 : W64) (go (.registerWrite 72 0x160 9) st).mod.mbxout 1 = 9
    ∧ (go (.registerWrite 72 0x100 0x1000000) (modSt { serr := true })).mod.serr = false ∧ (go (.registerWrite 72 8 2) st).mod.health = 2 ∧ (go (.registerWrite 72 0x10 4) st).mod.policy = true
    ∧ (go (.registerWrite 72 0x150 1) (modSt { inbox := [msg 1] })).mod.inbox = [] ∧ (go (.registerWrite 72 0x198 0x10540) st).mod.outbox.map (fun o => (o.1, o.2.1)) = [(64, 5)] := by
  decide +kernel
theorem cp_hole : place hbmEnd = .hole ∧ exec (.cpLoadStore (.load hbmEnd 1)) st = .fault (.hole hbmEnd) := ⟨by decide, rfl⟩
theorem cp_accesses : (let t := go (.cpLoadStore (.store 0x4002 2 0x0A0B)) st; (t.byte 0x4002, t.byte 0x4003, t.mem.wf) = (0x0B, 0x0A, true))
    ∧ (go (.cpLoadStore (.load 0x4002 2)) { st with mem := { cells := [(0x4003, 1)] } }).outbox = [.cpData [0, 1]]
    ∧ anyPoison st 0x4002 2 = false ∧ (go (.cpLoadStore (.fence true true)) st).tiles = st.tiles := by decide +kernel

/-! ### Waits, refusals and answers that the statements name -/

/-- An access of another requester waits at the bank of slice offset 0. -/
def busyBank (s : State) : State := s.setBank (0, 0) { pend := [{ port := 3, who := 7, elem := 256, pa := spmBase, n := 64 }] }
theorem witness_bank_wait : (askBanks (busyBank st) meshPort (reqId 18 0) 256 [(spmBase, 8)]).1 = false
    ∧ (askBanks (granted st (0, 0) (reqId 18 0) 256 spmBase 8) meshPort (reqId 18 0) 256 [(spmBase, 8)]).1 = true ∧ place spmBase = .spm 0 0
    ∧ (let t := go (.cpLoadStore (.load spmBase 8)) (busyBank st); (t.inputs, t.outbox) = ([.cpLoadStore (.load spmBase 8)], []))
    ∧ (go (.cpLoadStore (.load spmBase 8)) (granted st (0, 0) (reqId 18 0) 256 spmBase 8)).outbox = [.cpData (List.replicate 8 0)]
    ∧ (go (.cpLoadStore (.load (ctxAddr 0 4) 4)) loads0).outbox = [.cpData [3, 0, 0, 0]] ∧ place (ctxAddr 0 4) = .context 0 4
    ∧ (go (.cpLoadStore (.load spmBase 8)) { granted st (0, 0) (reqId 18 0) 256 spmBase 8 with mem := { poison := [spmBase] } }).outbox.length = 1 := by decide +kernel
theorem witness_hold : ((st.setTile 0 { tile0 with shadow := { queue := [fault0] } }).tile 0).shadow.queue ≠ []
    ∧ ((go (.tileHoldAssert 0) (st.setTile 0 { tile0 with shadow := { queue := [fault0] } })).tile 0).held = true := by decide +kernel
theorem witness_second_rot : (let s := { rotSt 64 with tasks := [(1, { member with rots := [(0, 64, 64)] })] }
    ((go (.rot 1 3 6) s).task 1).rotTwice = true ∧ ((go (.rot 1 3 6) s).task 1).rots.length = 1
    ∧ rotMismatch { s with tasks := [(1, { member with rotTwice := true })] } { members := [1] } = true
    ∧ (rotBanks s { members := [1] }).1 = true ∧ rotMismatch s { members := [1] } = false)
    ∧ ((go (.step) { barSt { members := [1], arrived := [1], phase := 3, step := true } { member with rotTwice := true, arrived := [(0x105, 3)] } with
          xus := [] }).me.shadow.queue.map fun f => f.fr.cause) = [0x0E] := by decide +kernel
/-- The blocks of a rot of memory that is no scratchpad. -/
theorem witness_rot_banks : (let s := { rotSt 64 with xus := [(0, { en := true, asid := 1, tlb := [page0] })] }
    pieces (tilePieces s 0 3 1 0x2000 64 pRD false) = [(0x2000, 64)] ∧ oneBank 0 [(0x2000, 64)] = false
    ∧ ((go (.rot 1 3 6) s).me.shadow.queue.map fun f => f.fr.cause) = [0x0E]) := by decide +kernel
/-- A block of one vector whose mask names lane 1, which is 5; a header byte more, or a header of another length, is bad. -/
def decBlk (b1 plen : Byte) : State :=
  { decSt { on := true, addr := 0x2000, left := 16, rmax := 63 } with
    mem := { cells := [(0x2001, b1), (0x2002, plen), (0x2008, 2), (0x200C, 5)].filter fun c => c.2 != 0 } }
theorem witness_decoder_block : ((go (.decoderFill 0) (decBlk 0 8)).tile 0).dec.block = [BitVec.ofNat 1024 (5 * 2 ^ 32)]
    ∧ (let d := ((go (.decoderFill 0) (decBlk 0 8)).tile 0).dec; (d.addr, d.left) = (0x2010, 0))
    ∧ ((go (.decoderFill 0) (decBlk 1 8)).tile 0).dec.bad = some (0x0C, 0x2000)
    ∧ ((go (.decoderFill 0) (decBlk 0 4)).tile 0).dec.bad = some (0x0C, 0x2000)
    ∧ (go (.dpop 9) (decSt { on := true, bad := some (0x0C, 0x2000) })).me.shadow.queue.map (fun f => (f.fr.cause, f.fr.pos)) = [(0x0C, 0x1000)]
    ∧ (go (.dpop 9) (decSt { on := true, bad := some (0x0C, 0x2000) })).me.dec.bad = none := by decide +kernel
theorem witness_discarded_load : (let s := loadSt.setArr 0 { (loadSt.tile 0).arr with slots := [(1, { ((loadSt.tile 0).arr.slotOf 1) with discard := true })] }
    (tget ({} : WSlot) (s.tile 0).arr.slots 1).discard = true ∧ (tget ({} : WSlot) (s.tile 0).arr.slots 1).st = 1
    ∧ (tget ({} : WSlot) ((go (.weightImageComplete 0 1) s).tile 0).arr.slots 1).st = 0) := by decide +kernel
def okBytes (r : Except (Option (Nat × Nat)) (List Byte) × State) : List Byte :=
  match r.1 with
  | .ok b => b
  | .error _ => []
/-- A block of code 9, which R84 rejects; a token in use. -/
theorem witness_rejected_block : (let t := go (.copy 3 5 0) (cmdSt 9); ((t.eng (.tile 0)).q.map fun c => isEnding (some c.st)) = [true] ∧ (t.token 1 5).st = 1) := by
  decide +kernel
/-- The reload of a resume: the block of WLAST is to be read, then loaded in slot WLAST. -/
theorem witness_reload : (let o : WBlk := { addr := 0x80000 }
    let s := { hdrSt with tiles := [(0, { (hdrSt.tile 0) with wd := { (hdrSt.tile 0).wd with lv := true, reload := some o } })] }
    o.read = false ∧ o.err = none ∧ readBlk (readHeader s 0 0x80000) = some (wmmaHdr, true)
    ∧ (((go (.wblockRead 0) s).tile 0).wd.reload.map fun b => (b.hdr, b.read)) = some (wmmaHdr, true)) := by decide +kernel
theorem witness_reload_payload : (let b : WBlk := { addr := 0x3000, hdr := wmmaHdr, read := true, num := 0 }
    let w : Wd := { wd0 with lv := true, wlast := 3, wnext := 2, reload := some b, nread := 1 }
    readerBlk w = some b ∧ w.reloads b = true ∧ (let t := go (.payloadLoad 0) (wdSt w); ((t.me.arr.slotOf 3).st, t.me.wd.wnext) = (1, 2))) := by decide +kernel
/-- A W.SCALE block whose frame record stands at 0x3020; the same with its first word poisoned. -/
def scaleBlk : WBlk := { addr := 0x3000, hdr := withHchk (encW 8 0 0 64 4 0 0), read := true }
def scaleSt (poison : List Nat) : State :=
  { wdSt { wd0 with ahead := [scaleBlk] } with
    mem := { cells := (tabulate 64 fun i => (0x3020 + i, frame0.getD i 0)).filter fun c => c.2 != 0, poison := poison } }
theorem witness_frame_read : (let s := scaleSt []
    scaleBlk.instr = some (.wScale 4) ∧ readerBlk (s.tile 0).wd = some scaleBlk ∧ okBytes (readerBytes s 0 scaleBlk 0x3020 64) = frame0
    ∧ (((go (.payloadLoad 0) s).tile 0).wd.ahead.map fun b => b.frame == frame0) = [true])
    ∧ (((go (.payloadLoad 0) (scaleSt [0x3020])).tile 0).wd.readFault.map fun f => (f.cause, f.unit, f.addr, f.pos, f.idx))
      = some (0x14, 256, 0x3000, 0, [0x3000, 0]) := by decide +kernel
/-- Triggered streams: the trigger's first 8 bytes, 0x2040, are the base of the first token's line. -/
def trig (op ctl : Nat) : State :=
  { elState 1 { elPlane op 0 0 10 10 [tok2 32 [0x2040, 0]] [] [] with bank := { st := { desc := some (desc0 ctl) } } } [] with
    mem := { cells := [(0x2040, 9), (0x2044, 5)] } }
theorem witness_triggered : (let s := trig 0x7C001B00 9; let c := fctx s (oa 10)
    (desc0 9).trig = true ∧ c.y.bank.st.on = false ∧ outRoom (s.collar 0) 1 = true ∧ agAwaits s 0 1 = false ∧ c.toks.map (·.2.dom) = [0]
    ∧ ({ desc0 9 with base := 0x2040 }).va 0 = 0x2040)
    ∧ (let t := go (.agld (oa 10)) (trig 0x7C001B00 9); made 32 2 t = some [9, 5] ∧ (t.planeOf 0 1 0).qa = [] ∧ (stOf t).t = 1)
    ∧ (let t := go (.agreq (oa 10)) (trig 0x80001B00 9); (t.elemOf 0 1).out.length = 1 ∧ (t.planeOf 0 1 0).qa = []) := by decide +kernel
/-- A memory node that is asked for the line at 0x2040, for element 3 of its tile under VC 4. -/
def nodeSt : State :=
  let s := elState 1 { elPlane 0x7C001B00 0 0 10 10 [{ vc := 2, val := lineOf 32 [0x2040, 0, 64, 0x0A040300, 7] }] [] [] with
    bank := { st := { desc := some (desc0 0x10) } } } []
  { s with mem := { cells := [(0x2040, 9)] }, collars := [(0, { s.collar 0 with boxes := [(8, { routes := [(0, [0x0720])] })] })] }
theorem witness_memory_node : requestOf (lineOf 32 [0x2040, 0, 64, 0x0A040300, 7]) = some [0x2040, 64, 0, 3, 4, 10, 7]
    ∧ meshBox (nodeSt.collar 0) 0 0 4 = some 8 ∧ pathOk (nodeSt.collar 0) 0 0 4 false 64 8 7 = true ∧ taskOf nodeSt 0 1 = some 1 ∧ (desc0 0x10).node = true ∧ regionOf (nodeSt.collar 0) 3 = some 0
    ∧ (let t := go (.agld (oa 10)) nodeSt; (((t.collar 0).box 8).mesh.map fun k => (k.val, k.vc, k.eos, k.fmt)) = [(9, 4, true, some 10)]
        ∧ (t.planeOf 0 1 0).qa = []) := by decide +kernel
/-- A guard of 0 on a drn, a recv and a const: the row, the message or the stream stays as R147 says. -/
def og (op : EOp) : EOp := { op with pg := true, pp := true }
def guarded (s : State) (e : Nat) : State :=
  let x := s.elemOf 0 e
  s.setElem 0 e { x with planes := [(0, { x.plane 0 with qp := [{ vc := 2, val := true }] })] }
theorem witness_guarded_sources : ((go (.drn (og (eop 0 4 6 6 6))) (guarded (drainSt []) 196)).elemOf 0 196).out = []
    ∧ (let t := go (.recv (og (eop 0 4 6 6 6))) (guarded (portSt 0 7 0 0 [] [tok2 32 [7, 9]]) 7); ((t.elemOf 0 7).out, (t.elemOf 0 7).inbox) = ([], []))
    ∧ (let t := go (.const (og o0)) (guarded (source 0x40300) 1); (t.elemOf 0 1).out = [] ∧ (t.planeOf 0 1 0).qp = [] ∧ (stOf t).t = 2) := by decide +kernel
/-- A parity error in an image being loaded, which is told once and waits; an image with no header, which fails. -/
theorem witness_image_errors : ctxParity { loads0 with mem := { loads0.mem with poison := [ctxAddr 0 0] } } 0 0 = true
    ∧ (((go (.configLoad 0) { loads0 with mem := { loads0.mem with poison := [ctxAddr 0 0] } }).collar 0).loads.map fun l => (l.start, l.told)) = [(none, true)]
    ∧ (imageErr { loads0 with mem := {} } 0 0 1 2 0).isSome = true ∧ ctxParity { loads0 with mem := {} } 0 0 = false
    ∧ (let t := go (.configLoad 0) { loads0 with mem := {} }; ((t.collar 0).loads.length, ((t.collar 0).region 0).armed) = (0, [])) := by decide +kernel
/-- A poisoned read, a walk to wait for, a page without RD: what a host read of 2 bytes at 0x2000 meets. -/
def hostBad (k : Nat) : State :=
  let s := hostSt queue0
  if k = 0 then { s with mem := { s.mem with poison := [0x2000] } }
  else { s with xus := [(76, { en := true, tlb := if k = 1 then [] else [{ page0 with perm := 0 }] })] }
theorem witness_host_waits : (go (.hostRdmaRead 4 0x1401 0x2000 2) (hostBad 0)).outbox = [.nak 4 false]
    ∧ (let t := go (.hostRdmaRead 4 0x1401 0x2000 2) (hostBad 1); (t.inputs, t.outbox) = ([.hostRdmaRead 4 0x1401 0x2000 2], []))
    ∧ (go (.hostRdmaWrite 4 0x1401 0x2000 [1, 2]) (hostBad 1)).inputs = [.hostRdmaWrite 4 0x1401 0x2000 [1, 2]]
    ∧ (let t := go (.hostRdmaRead 4 0x1401 0x2000 2) (hostBad 2); (t.outbox, (t.qp 4).err) = ([.nak 4 true], true))
    ∧ (go (.hostRdmaRead 4 0x1402 0x2000 2) (hostSt queue0)).outbox = [.nak 4 true]
    ∧ (go (.hostRdmaRead 4 0x1402 (BitVec.ofNat 64 (regBase + 74 * 0x40000)) 8) (hostSt queue0)).outbox = [.readReply 4 (List.replicate 8 0)]
    ∧ place (regBase + 74 * 0x40000) = .reg 74 0 ∧ doorbellAt (regBase + 75 * 0x40000) = some (0, true) := by decide +kernel
/-- A fetch that meets poison stalls its queue; one that waits stays in progress; a busy slot begins none. -/
theorem witness_packet_fetch_ends : (let t := go (.packetFetch 0) { feSt { q := 3, v := true } queue0 with mem := { poison := [0x2040] } }
      ((t.queue 3).fstall, (t.queue 3).scause, (t.fslot 0).fetching) = (true, 0x14, false))
    ∧ (let t := go (.packetFetch 0) { feSt { q := 3, v := true } queue0 with xus := [(64, { en := true })] }; ((t.queue 3).rdidx, (t.fslot 0).fetching) = (1, true))
    ∧ (let t := go (.packetFetch 0) { feSt { q := 3, v := true } queue0 with xus := [(64, { en := true, tlb := [{ page0 with perm := 0 }] })] }
       ((t.queue 3).fstall, (t.queue 3).scause) = (true, 0x11))
    ∧ ((go (.packetFetch 0) (feSt { q := 3, v := true, busy := true } queue0)).queue 3).rdidx = 1
    ∧ (go (.feslotMap 0 3) (feSt { q := 3, v := true } queue0)).fe.cerr = true := by decide +kernel
/-- Two packets are done: the one that completed first has its record; a full ring keeps it, and a packet without CR
leaves none. -/
theorem witness_first_done : (let x : Queue := { queue0 with packets := [{ doneP with fin := 9 }, { doneP with n := 2, fin := 5 }] }
    (x.firstDone.map (·.n)) = some 2 ∧ x.cqFull = false
    ∧ ((go (.completionRecordWrite 3) (hostSt x)).queue 3).packets.map (·.n) = [1]
    ∧ { x with cqdone := 2 ^ 32 - queue0.cqEntries }.cqFull = true ∧ ((go (.completionRecordWrite 3) (hostSt { x with cqdone := 2 ^ 32 - queue0.cqEntries })).queue 3).packets.length = 2)
    ∧ (let x : Queue := { queue0 with packets := [{ doneP with bytes := 3 :: List.replicate 63 0 }] }
       let t := go (.completionRecordWrite 3) (hostSt x); ((t.queue 3).packets, (t.queue 3).cqidx, t.outbox) = ([], 0, []))
    ∧ (let t := go (.completionWriteFailure 3) (hostSt { queue0 with sent := [doneP], cqidx := 4 }); ((t.queue 3).packets.length, (t.queue 3).cqidx) = (1, 3))
    ∧ ((go (.queueDescWrite 3 0x28 0x30002) (hostSt queue0)).queue 3).hold = 3 := by decide +kernel
def xlatedAt (s : State) : List (Nat × Nat) := pieces (cmdXlate s (.tile 0) { cmd0 1 with st := .waiting, shape := none } 0 128 pRD)
/-- Commands that wait: the shape record still to be read, and a consumed token FAILED. -/
theorem witness_waiting_commands : (let s := { engSt (.tile 0) { cmd0 1 with st := .waiting, shape := none } with
        mem := { cells := (tabulate 128 fun i => (i, shape0.getD i 0)).filter fun c => c.2 != 0 } }
      let t := go (.cmdCopy (.tile 0) 3) s
      xlatedAt s = [(0, 128)] ∧ ((cmdOf t (.tile 0) 3).map fun c => (c.shape == some shape0, c.st == .waiting)) = some (true, true))
    ∧ (let s := (engSt (.tile 0) { cmd0 1 with st := .waiting, tkcs := [6] }).setToken 1 6 { word := 3 }
       isEnding (st? (go (.cmdCopy (.tile 0) 3) s) (.tile 0)) = true) := by decide +kernel
/-- A command that ends while its task's image lies in memory at 0x8000: the image's token word 5 takes the status. -/
theorem witness_saved_token : (let s := { engSt (.tile 0) { cmd0 1 with task := some 4, st := .ending 2 } with tasks := [(4, away)] }
    savedAt s 4 = some (.mem 0x8000) ∧ s.mem.wf = true
    ∧ (let t := go (.engineCmdComplete (.tile 0) 3) s; (t.byte (0x8000 + 832 + 40), (t.token 4 5).word) = (2, 2))) := by decide +kernel
/-- The shadow context fetches by physical address. -/
theorem witness_shadow_fetch : (let s := st.setTile 0 { tile0 with shadow := { queue := [fault0], running := true, ctx := { pc := 0x9000 } } }
    (s.tile 0).shadow.active = true ∧ cachedLine (s.tile 0) physAsid 0x9000 = none
    ∧ ((go (.instructionFetch 0) s).tile 0).icache.map (fun l => (l.va, l.asid == physAsid, l.bytes.length)) = [(0x9000, true, 128)]) := by decide +kernel
/-- A fault of an access, serviced with FACT 0: the operation waits again. A chain's, serviced with FACT 1: it goes on. -/
theorem witness_serviced : (let f : CFault := { fault0 with src := .access 9 }
    let s := { (stOp (.ld .n8 9 0x2000)).setTile 0 { (stOp (.ld .n8 9 0x2000)).tile 0 with shadow := { queue := [f], running := true } } with
      cur := { unit := 0, bpc := 0x1000, ta := 1, shadow := true } }
    (let t := go .hret s; ((t.tile 0).shadow.queue.length, (t.tile 0).ctx.ops.map (·.st)) = (0, [.waiting])))
    ∧ (let s := (wdSt { wd0 with flt := true }).setTile 0 { (wdSt { wd0 with flt := true }).tile 0 with
          shadow := { queue := [{ fault0 with src := .weight }], running := true, fact := 1 } }
       let t := go .hret { s with cur := { s.cur with shadow := true } }
       ((t.tile 0).wd.flt, (t.tile 0).wd.wpc) = (false, 0x3000)) := by decide +kernel
theorem witness_retired_parked : (let s := parkedSt []
    parkImage (parkedSt [0x8020]) (imgAtOf s 0 4 .image) = none
    ∧ ((go (.tileRetirement 0 [5]) (parkedSt [0x8020])).tile 0).failing = [(4, 0x3D)]
    ∧ (let t := go (.tileRetirement 0 [5]) s; ((t.tile 5).queue, (t.tile 0).parked, (t.task 4).resident) = ([rec1], [], false))) := by decide +kernel
/-- Room for one record, and two to place; a consumer whose start queue is full. -/
theorem witness_no_room : (let s := (pktSt (launchB 0 2)).setTile 5 { queue := List.replicate 31 rec1 }
    let t := go (.pktLaunch 3 1 [(5, 0), (5, 0)]) s; ((t.tile 5).queue.length, (t.queue 3).packets.map (·.pushed)) = (31, [0]))
    ∧ (let s := bindState (pk bindB false) { agElem with planes := [(0, { loaded := true, op := 0x7E000000, bank := { st := { on := true, held := some 0 } } })] }
       startFull { s with cur := { s.cur with unit := 0 } } 0 [1] = true ∧ ((go (.pktBind 3 1) s).queue 3).packets.map (·.begun) = [false]) := by decide +kernel
/-- A packet's COPY and LOADOBJ whose bytes are poisoned, and one that waits for a walk. -/
theorem witness_packet_reads : (let s := { pktSt copyB with mem := { poison := [0x40] } }; answer (go (.pktCopy 3 1 5) s) = [(true, 0x14, 0, 0)])
    ∧ (let s := { pktSt loadB with mem := { poison := [0x6000] } }; answer (go (.pktLoadobj 3 1 loadFw0) s) = [(true, 0x3F, 0, 14)])
    ∧ (let s := { pktSt loadB with xus := [(64, { en := true })] }; answer (go (.pktLoadobj 3 1 loadFw0) s) = [(false, 0, 0, 0)]) := by decide +kernel
theorem witness_feslot_register : (let s := feSt { q := 3, v := true } queue0
    let t := go (.registerWrite 64 0x1000 5) s; ((t.fslot 0).v, (t.fslot 0).shown, (t.fslot 0).q) = (false, 5, 3))
    ∧ (let t := go (.registerWrite 64 0x1000 0x10003) (feSt {} queue0); (t.fslot 0).v) = true := by decide +kernel
/-- What the release of a phase's members gives to one that waits (R301, R336). -/
theorem witness_phase_release : (let x : Barrier := { two with phase := 4, doneCov := [(1, [(7, 1)])] }
    let s := barSt x { task1 with arrived := [(0x105, 3)] }
    thas (s.task 1).arrived 0x105 = true ∧ tget 0 (s.task 1).arrived 0x105 < x.phase
    ∧ (let t := go (.bwait 1 5) s; t.cur.iss = .ok ∧ (7, 1) ∈ (t.ag (.task 1)).floor)) := by decide +kernel

/-- Two members on tiles 0 and 4: what each sends stands in the other's receive block, and phase 3's releases follow the scope. -/
theorem witness_rotation_moves : (let x : Barrier := { members := [1, 2], arrived := [1, 2], phase := 3, step := true }
    let m (tile from' into : Nat) : Task := { member with tile := tile, rots := [(from', into, 64)] }
    let s := { barSt x {} with tasks := [(1, m 0 0x2000 0x3000), (2, m 4 0x4000 0x5000)], mem := { cells := [(0x2001, 7), (0x4003, 9)] } }
    rotMismatch s x = false ∧ (rotBanks s x).1 = true ∧ (ringOf s x).length = 2
    ∧ (let t := go (.stepComplete 0x105) s; [t.byte 0x5001, t.byte 0x3003, t.byte 0x3001, t.byte 0x2001, t.byte 0x5003] = [7, 9, 0, 7, 0] ∧ (t.task 1).rots = [])) := by
  decide +kernel
theorem witness_covered_phase : (let x : Barrier := { two with arrived := [1, 2], covs := [{ task := 2, tile := 0, ws := [(9, 1)] }] }
    let t := go (.barrierPhaseComplete 0x105) (barSt x task1)
    (t.bar 0x105).doneCov = [(1, [(9, 1)]), (2, [(9, 1)])]) := by decide +kernel

/-! ### Fault tokens, links, packets and firmware -/

/-- A fault token of element 1 whose box has no word for vc31 goes to its strip's corner; one that stands there enters the graph of element 160, is told
of to the control processor where no graph stands, and a token on a VC without a plane raises 0x20. -/
def faultTok : Tok := { vc := 31, val := 0x30, lcnt := 16, src := 1, at' := 10 }
def cornerSt (es : Tbl Elem) (b : Box) : State :=
  { st with collars := [(64, { elems := es, boxes := [(40, b)], faultIn := [faultTok], regions := [(0, { task := some 1, emask := 2 ^ 256 - 1 })] })] }
theorem witness_fault_tokens : (let s := net { flt := [faultTok] } {}
    let t := go (.tokenHop 0 (.flt 1)) s
    ((t.elemOf 0 1).flt, (t.collar 64).faultIn.length) = ([], 1) ∧ outsFor (((s.collar 0).box 0).words 0 0) 1 31 false = [])
    ∧ (let t := go (.tokenHop 64 .corner) (cornerSt [] {}); ((t.collar 64).corner.length, t.mod.inbox.map (·.cause)) = (0, [0x2D]))
    ∧ (let s := cornerSt [(160, { cur := [(1, 0)] })] {}
       let t := go (.tokenHop 64 .corner) s
       (cornerUp s 64, (t.collar 64).faultIn, (t.collar 64).corner.length, (t.collar 64).fin) = (true, [], 1, 1) ∧ cornerDoor (s.collar 64) = none)
    ∧ (let x := receiver
       let b := { (x.collar 0).box 0 with dbuf := [(3, [{ netTok with vc := 9 }])] }
       let t := go (.tokenHop 0 (.box 0 3)) (x.setCollar 0 ((x.collar 0).setBox 0 b))
       (t.elemOf 0 3).fault.map (fun f => (f.cause, f.detail)) = some (0x20, 0)) := by decide +kernel
/-- The fourth resend in a row retrains; a NAK leaves with eight frames kept; a packet whose port is down is answered with LINK_DOWN. -/
theorem witness_link_failures : (let l := (go (.linkReplay 1 0 7) (torus st { state := 2, laneok := 0x00FF, resends := 3, kept := [(7, [2])] })).link 2
      (l.state, l.resends, l.kept) = (2, 0, [(7, [2])]))
    ∧ ((go (.linkReplay 1 0 7) (torus st { state := 2, laneok := 7, resends := 3, kept := [(7, [2])] })).link 2).state = 0
    ∧ (let t := go (.linkFrameReceive 1 0 []) (torus st { state := 2, kept := (List.range 8).map fun i => (i, []) })
       ((t.link 2).kept.length, t.outbox.length, (t.link 2).nakWait) = (8, 1, true))
    ∧ (let s := { served (1, 0, 0) 3 with links := [(2, { state := 0 }), (3, { state := 2, inq := [headerFlit 1 (1, 0, 0) (2, 0, 0) 1 1 0 0x2000 0, List.replicate 64 5] })] }
       (routePort s (1, 0, 0) = some 2) ∧ ((go (.linkCopyServe 1 1) s).link 3).inq.map (fun m => (blk m 0 1, blk m 24 4)) = [(5, 0x1C)]) := by decide +kernel
/-- Requests on a queue pair that is not connected have no effect; a record is told to the queue pair that writes the consumed count. -/
theorem witness_queue_pairs : qpServed (hostSt queue0) 4 = true ∧ qpServed (hostSt queue0) 5 = false
    ∧ qpServed { hostSt queue0 with mod := { ethUp := false } } 4 = false ∧ (go (.flushRead 5 0) (hostSt queue0)).outbox = []
    ∧ (let t := go (.completionRecordWrite 3) (hostSt { queue0 with packets := [{ doneP with cov := [(9, 1)] }] }); (t.queue 3).told = [(1, [(9, 1)])]) := by decide +kernel
/-- A LOADOBJ behind one that has begun, a LAUNCH behind one whose records wait, and a BIND of a template that is gone. -/
theorem witness_packet_order : (let s := { pktSt loadB with queues := [(3, { queue0 with packets := [{ pk loadB true with no := 1 }, { n := 2, bytes := loadB, begun := true, no := 2 }] })] }
      loadBehind s 1 { n := 2, bytes := loadB, begun := true, no := 2 } = true ∧ (answer (go (.pktLoadobj 3 2 loadFw0) s)).map (·.1) = [false, false])
    ∧ (let s := { pktSt loadB with queues := [(3, { queue0 with packets := [pk (launchB 0 2) true, { n := 2, bytes := launchB 0 1, begun := true }] })] }
       launchBehind s 3 { n := 2, bytes := launchB 0 1, begun := true } = true ∧ (go (.pktLaunch 3 2 [(5, 0)]) s).tiles = s.tiles)
    ∧ (let s := bindState (pk bindB false) agElem
       answer (go (.pktBind 3 1) { s with asids := [(1, { live := true, gone := [0] })] }) = [(true, 0x3F, 0, 5)]) := by decide +kernel
/-- Four uncorrectable errors mark a tile, and a stack's half is poisoned; a thermal trip is taken by a module that has stopped. -/
theorem witness_thresholds : (let s := modSt { counts := [(1, 3)] }
      (go (.softError (.spmWord (spmBase + 0x17))) s).mod.retiring = [0])
    ∧ (go (.softError (.spmWord (spmBase + 0x17))) (modSt { counts := [(1, 2)] })).mod.retiring = []
    ∧ (after st (step { modSt { stopped := true } with inputs := [.thermalTrip up] })).mod.stopped = false := by decide +kernel

/-! ### Steps, round trips and reset -/

theorem reset_inv : Inv State.reset := by
  show State.reset.mem.wf = true
  decide
theorem step_takes_an_event : (after st (step { modSt { inbox := [msg 1] } with agenda := [.ev .mbxPop] })).mod.inbox = [] := by decide +kernel
/-- fmax, as the host places it. -/
def placed : State := st.withFetchWord 32 0x3A271300
theorem witness_element_turn : (let c := placed.collar 0; let e := hostOf 0x1D; let y := (c.elem e).plane 0
    placed.agenda = [.elem 0 e] ∧ ((regionOf c e).bind fun r => (c.region r).sel) = some 0 ∧ (c.elem e).curOf 0 = some 0
    ∧ decodeElem y.op = .ok (.fmax (eop 1 7 0 4 6)) ∧ (placed.tile 0).landing = false ∧ y.bad = false
    ∧ (srcQ y.eop).all (fun q => (y.queue q).isEmpty) = true ∧ decodeTableWord 32 0x3A271300 = some (.fmax (eop 1 7 0 4 6))) := by decide +kernel
/-- At 0x1000 a bundle with le that holds add s3 = s1 + s2 and nop, fetched; the body that it ends begins there. -/
def seqSt : State :=
  let b : List Byte := [0, 0, 0, 0, 0, 0x88, 0x30, 0x10, 4] ++ List.replicate 119 0
  { st.setTile 0 { tile0 with
      ctx := { ctx0 with loops := [{ body := 0x1000, rem := 1, idx := 0, stride := 1 }] }
      icache := [{ asid := 1, va := 0x1000, bytes := b, pa := 0x1000, ver := 1 }] } with
    agenda := [.seq 0], mem := { cells := [(0x1005, 0x88), (0x1006, 0x30), (0x1007, 0x10), (0x1008, 4)] } }
def seqB : Bundle := { ta := 0, tc := 0, pd := 0, le := true, ps := false, a := .add 3 1 2, b := .nopB }
def seqS : State := { seqSt with free := 1, agenda := [], cur := { unit := 0, bpc := 0x1000 } }
def seqW : Nat := 2 ^ 66 + 0x10308800 * 2 ^ 32
def issOf (r : Out) : Option Iss := match r with
  | .next t => some t.cur.iss
  | _ => none
theorem witness_bundle_turn : (let x := seqSt.tile 0
    x.held = false ∧ x.shadow.queue = [] ∧ x.issues = true ∧ x.parkWait = none ∧ x.preempt = false ∧ x.ctx.nextIssue ≤ x.tc
    ∧ Machine.fetched seqS = .got seqW seqW ∧ seqW / 2 ^ 240 % 2 ^ 16 = 0 ∧ decodeBundle seqW = .ok seqB ∧ waitsOver seqS seqB = true
    ∧ readsBad x seqB = false ∧ x.ctx.loops ≠ [] ∧ issOf (exec seqB.a seqS) = some .ok ∧ (backEdge (after seqS (exec seqB.a seqS)) seqB).cur.iss = .ok
    ∧ issOf (exec seqB.b (backEdge (after seqS (exec seqB.a seqS)) seqB)) = some .ok) := by decide +kernel
/-- s1 + s2 = 7 - 5, on its way to s3; the loop is over. -/
theorem step_takes_a_bundle : (let x := (after seqSt (step seqSt)).tile 0
    (x.ctx.pc, x.ctx.loops.length, x.ctx.pend.map fun p => (p.dest, p.val)) = (0x1001, 0, [(Dest.s 3, 2)])) := by decide +kernel
/-- W.NOP with link 4, at the head of the chain. -/
def wdTurnSt : State :=
  { wdSt { wd0 with ahead := [{ addr := 0x3000, hdr := withHchk (encW 0 0 0 0 4 0 0), read := true }] } with agenda := [.wd 0] }
theorem witness_weight_turn : (let x := wdTurnSt.tile 0
    x.wd.on = true ∧ x.held = false ∧ x.shadow.queue = [] ∧ x.landing = false ∧ x.abort = none ∧ x.preempt = false
    ∧ wdHead wdTurnSt 0 = some (.inr (.wNop 4)) ∧ ((after wdTurnSt (step wdTurnSt)).tile 0).wd.wpc = 0x3400) := by decide +kernel
/-- The encodings of the words that chapters 9 to 13 write out. -/
theorem encodes : encodeA (.add 3 1 2) = some 0x10308800 ∧ encodeB (.ldv 4 5 0 0) = some 0x06428000 ∧ encodeElem (.fmax (eop 1 7 0 4 6)) = some 0x3A271300
    ∧ (Instr.add 3 1 2).wf = true ∧ (Instr.ldv 4 5 0 0).wf = true ∧ (Instr.fmax (eop 1 7 0 4 6)).wf = true ∧ seqB.headerOk = true
    ∧ encodeA seqB.a = some 0x10308800 ∧ encodeB seqB.b = some 0 ∧ (encodeW (.wNop 4)).isSome = true ∧ (Instr.wNop 4).wf = true
    ∧ encodeW (.wMma 0 true true 2 0 false 0 0 65536 0xFFFFFFFFFFFFFD00 0 0) = some wmmaHdr := by decide +kernel
theorem witness_image_block : imageDlen 2 0 (kcK 0) = 65536 ∧ imageFieldsOk 2 0 false (kcK 0) 0 = true
    ∧ pairWeight 0 = (2, false, kcK 0) ∧ (Instr.wMma 0 true true 2 0 false 0 0 65536 4 0 0).wf = true := by decide +kernel

end Sys2Proof.Tests
end

/-! ## The machine after reset

The tables of `State.reset` are empty, so every lookup gives the default of its structure; each register page is then read
on those defaults (R7, R65). -/

namespace Sys2Proof.Machine

/-! ### What a lookup gives after reset -/

@[simp] theorem reset_tile (t : Nat) : State.reset.tile t = {} := rfl
@[simp] theorem reset_xu (u : Nat) : State.reset.xu u = {} := rfl
@[simp] theorem reset_collar (u : Nat) : State.reset.collar u = {} := rfl
@[simp] theorem reset_fslot (n : Nat) : State.reset.fslot n = {} := rfl
@[simp] theorem reset_link (k : Nat) : State.reset.link k = {} := rfl
@[simp] theorem reset_queue (q : Nat) : State.reset.queue q = {} := rfl
@[simp] theorem reset_mod : State.reset.mod = {} := rfl
@[simp] theorem reset_fe : State.reset.fe = {} := rfl
@[simp] theorem reset_walkers : State.reset.walkers = [] := rfl
@[simp] theorem reset_windows : State.reset.windows = [] := rfl
@[simp] theorem reset_lcinj (d : Nat) : lcinjOf State.reset d = 0 := rfl
@[simp] theorem reset_mappedSlot (q : Nat) : mappedSlot State.reset q = none := rfl
@[simp] theorem tget_nil {α : Type} (d : α) (k : Nat) : tget d [] k = d := rfl

@[simp] theorem fld_zero (lo : Nat) : fld 0 lo = 0 := Nat.zero_mul _
@[simp] theorem bfld_false (lo : Nat) : bfld false lo = 0 := Nat.zero_mul _

/-- The sum of a list each of whose terms is 0. -/
theorem natSum_map_of_zero {α : Type} (l : List α) {f : α → Nat} (hf : ∀ x, f x = 0) : natSum (l.map f) = 0 := by
  induction l with
  | nil => rfl
  | cons x l ih =>
    rw [natSum, List.map_cons, List.foldl_cons, hf x]
    exact ih

/-- The bit map of those of a list that meet a test, where none does. -/
theorem natSum_filter_of_none {α : Type} (l : List α) {p : α → Bool} (hp : ∀ x, p x = false) (f : α → Nat) :
    natSum ((l.filter p).map f) = 0 := by
  have hnone : l.filter p = [] := List.filter_eq_nil_iff.mpr fun x _ hx => Bool.false_ne_true ((hp x).symm.trans hx)
  rw [hnone]
  rfl

/-! ### The status words of units at their defaults -/

/-- WBSLOT of an array whose weight buffer is empty (R202). -/
theorem wbslot_of_empty {a : Array} (hslots : a.slots = []) (hresident : a.resident = none) (k : Nat) : wbslot a k = 0 := by
  simp only [wbslot, Array.slotOf, hslots, hresident, tget_nil, bfld_false, fld_zero, Nat.add_zero, true_or, if_true]

/-- SPILL0 and SPILL1 of a tile that spills nothing (R362). -/
theorem spillMap_of_nil {x : Tile} (hspill : x.spill = []) (n : Nat) : spillMap x n = 0 := by
  refine natSum_filter_of_none _ (fun j => ?_) _
  rw [hspill, List.contains_nil]

theorem tqstat_reset (t : Nat) : tqstat State.reset t = 0 := by
  have hswitching : switching State.reset t = false := rfl
  simp only [tqstat, reset_tile, List.getElem?_nil, natSum_map_of_zero, implies_true, hswitching, Tile.busy, List.length_nil,
    Nat.zero_mod, Option.isSome_none, Bool.or_self, bfld_false, fld_zero, Nat.add_zero]

theorem crstat_default (r : Nat) : crstat {} r = 0 := by
  simp only [crstat, Collar.region, tget_nil, List.contains_nil, Bool.false_eq_true, if_false, fld_zero, natSum_map_of_zero,
    implies_true, Option.getD_none, Nat.add_zero]
theorem crbnr_default (r : Nat) : crbnr {} r = 0 := by
  simp only [crbnr, Collar.region, tget_nil, List.contains_nil, fld_zero, bfld_false, natSum_map_of_zero, implies_true,
    Nat.add_zero]
@[simp] theorem lnkstat_default : lnkstat {} = 0 := rfl
@[simp] theorem walkFail_default (second : Bool) : walkFail {} second = 0 := rfl

/-! ### The register pages after reset -/

/-- A tile's page holds no value but in the fuse registers ARRMAP and ACCSPARE, which the statement leaves out (R202). -/
theorem tileReg_reset (t off : Nat) (harrmap : off ≠ 0x438) (haccspare : off ≠ 0x440) :
    tileReg State.reset t off = 0 := by
  simp only [tileReg, reset_xu, reset_tile, reset_collar, harrmap, haccspare, wbslot_of_empty, wdstat, wdfrm, wdaddr,
    tqstat_reset, spillMap_of_nil, fltctl, crstat_default, Collar.region, crbnr_default, boolNat, bfld_false, fld_zero,
    tget_nil, List.getD_nil, List.isEmpty_nil, List.length_nil, Bool.not_true, Bool.false_eq_true, bits, List.countP_nil,
    Nat.zero_shiftRight, BitVec.ofNat_eq_ofNat, BitVec.toNat_zero, Nat.zero_mod, Nat.zero_mul, Nat.add_zero, if_false,
    ite_self]

theorem stripReg_reset (u off : Nat) : stripReg State.reset u off = 0 := by
  simp only [stripReg, reset_collar, reset_fslot, reset_fe, fld_zero, bfld_false, List.contains_nil, natSum_filter_of_none,
    implies_true, List.filter_nil, List.length_nil, Nat.add_zero, ite_self]

theorem reg64_reset_tile (page off : Nat) (hpage : page < 64) (harrmap : off ≠ 0x438) (haccspare : off ≠ 0x440) :
    reg64 State.reset page off = 0 := by
  rw [reg64, if_pos hpage]
  exact tileReg_reset page off harrmap haccspare

/-- Pages 64 to 67 are the strips', 68 to 71 the dies' links and walkers (R65). -/
theorem reg64_reset_strip_or_die (page off : Nat) (hlo : 64 ≤ page) (hhi : page < 72) :
    reg64 State.reset page off = 0 := by
  rw [reg64, if_neg (by omega)]
  by_cases hstrip : page < 68
  · rw [if_pos hstrip]
    exact stripReg_reset page off
  · rw [if_neg hstrip, if_pos hhi]
    simp only [reset_lcinj, reset_link, reset_walkers, tget_nil, lnkstat_default, walkFail_default, BitVec.ofNat_eq_ofNat,
      BitVec.toNat_zero, ite_self]

theorem reg64_cp (s : State) (off : Nat) : reg64 s 72 off = cpReg s off := rfl
theorem reg64_eth (s : State) (off : Nat) : reg64 s 73 off = ethReg s off := rfl

/-- IDENT.LEVEL is 3 whatever the fuses name as STEP and MODID, which stand above it (R423). -/
theorem ident_level (s : State) : cpReg s 0 % 2 ^ 8 = 3 := by
  rw [cpReg, if_pos rfl, fld, bfld, fld]
  omega

/-- The mailbox is empty: no message stands in it and all 16 places of OUTFREE are free (R426). -/
theorem mbxstat_reset : cpReg State.reset 0x100 = 16 * 2 ^ 16 := rfl

theorem cpReg_reset (off : Nat) (hident : off ≠ 0) (hmbxstat : off ≠ 0x100) : cpReg State.reset off = 0 := by
  simp only [cpReg, mbxsrc, reset_mod, hident, hmbxstat, fld_zero, bfld_false, tget_nil, BitVec.ofNat_eq_ofNat, BitVec.toNat_zero,
    Nat.add_zero, if_false, ite_self]

/-- Register `o` of queue `q` in the Ethernet engine's page, after reset (R411). -/
theorem ethReg_reset_queue (q o : Nat) (hq : q < 1024) (ho : o < 0x40) :
    ethReg State.reset (0x10000 + 0x40 * q + o) = if o = 0x28 then 1 + 64 * 2 ^ 16 else 0 := by
  have hoff : (0x10000 + 0x40 * q + o) % 0x40 = o := by omega
  rw [ethReg, if_pos (by omega), hoff]
  simp only [reset_queue, reset_mappedSlot]
  split
  case h_8 hthresh _ => rw [if_neg hthresh]
  all_goals rfl

/-- Register `o` of window `w` in the Ethernet engine's page, after reset (R410). -/
theorem ethReg_reset_window (w o : Nat) (hw : w < 1024) (ho : o < 0x20) :
    ethReg State.reset (0x20000 + 0x20 * w + o) = 0 := by
  have hoff : (0x20000 + 0x20 * w + o) % 0x20 = o := by omega
  rw [ethReg, if_neg (by omega), if_pos (by omega), hoff]
  simp only [reset_windows, tget_nil]
  split <;> rfl

/-- Settles O60: page by page, from what each register reads on the defaults of the empty tables. -/
theorem resetState : Obligations.ResetState := by
  unfold Obligations.ResetState
  refine ⟨reset_wf, rfl, fun _ => ⟨rfl, rfl⟩, reg64_reset_tile, reg64_reset_strip_or_die, ?ident, ?mbxstat, ?cp,
    ?thresh, ?queue, ?window⟩
  case ident => rw [reg64_cp, ident_level]
  case mbxstat => rw [reg64_cp, mbxstat_reset]
  case cp =>
    intro off hident hmbxstat
    rw [reg64_cp, cpReg_reset off hident hmbxstat]
  case thresh =>
    intro q hq
    rw [reg64_eth, ethReg_reset_queue q 0x28 hq (by omega), if_pos rfl]
  case queue =>
    intro q o hq ho hthresh
    rw [reg64_eth, ethReg_reset_queue q o hq ho, if_neg hthresh]
  case window =>
    intro w o hw ho
    rw [reg64_eth, ethReg_reset_window w o hw ho]

end Sys2Proof.Machine

/-! ## The array's events

The hold, the preload and the start of a pass, and the acceptance of a row (R29, R31, R188-R192): what each does to its
tile, said once for each of the model's functions. -/

namespace Sys2Proof.Machine

/-! ### A tile's array -/

@[simp] theorem State.tile_setArr (s : State) (t : Nat) (a : Array) : (s.setArr t a).tile t = { s.tile t with arr := a } :=
  State.tile_setTile _ _ _

/-! ### The hold (R31) -/

theorem holdWanted_iff (s : State) (t : Nat) :
    holdWanted s t = true ↔ (s.tile t).shadow.queue ≠ [] ∨ starved s t = true := by
  rw [holdWanted, Bool.or_eq_true, Bool.not_eq_true', List.isEmpty_eq_false_iff]

theorem exec_tileHoldAssert {s : State} {t : Nat} (h : holdWanted s t = true) :
    exec (.tileHoldAssert t) s = .next (s.setTile t { s.tile t with held := true }) := if_pos h
theorem exec_tileHoldRelease {s : State} {t : Nat} (h : holdWanted s t ≠ true) :
    exec (.tileHoldRelease t) s = .next (s.setTile t { s.tile t with held := false }) := if_neg h

/-! ### Preloads and passes (R188, R191) -/

theorem exec_decompressorPreload {s : State} {t : Nat} (hstill : (s.tile t).still = false) :
    exec (.decompressorPreload t) s = .next (preloadDo true s t) := if_neg (ne_true_of_eq_false hstill)
theorem exec_passStart {s : State} {t : Nat} (hstill : (s.tile t).still = false) :
    exec (.passStart t) s = .next (passStartDo s t) := if_neg (ne_true_of_eq_false hstill)

/-- A pass whose check holds begins to enter the preload registers, from its slot and under its pair code. -/
theorem preloadDo_of_passCheck {s : State} {t pass c : Nat} {m : Mma} (counts : Bool)
    (hnext : nextPreload (s.tile t).arr = some (m, pass, c)) (hc : c ≤ (s.tile t).arr.clk)
    (hcheck : passCheck s t m pass = none) (hgood : (s.tile t).arr.wbufBad = []) :
    ∃ a p, preloadDo counts s t = s.setArr t a ∧ a.preload = some p ∧ p.slot = (m.slot + pass) % 4
      ∧ p.toks = ((s.tile t).arr.slotOf ((m.slot + pass) % 4)).toks ∧ p.pair = m.pair ∧ a.acc = (s.tile t).arr.acc := by
  unfold preloadDo
  simp only [hnext, hcheck, hgood, Nat.not_lt.mpr hc, List.contains_nil, if_false, Bool.false_eq_true]
  exact ⟨_, _, rfl, rfl, rfl, rfl, rfl, rfl⟩

/-- A pass whose preload is ready starts, once the rows of the pass before it have had their cycles. -/
theorem passStartDo_of_ready {s : State} {t ready : Nat} {m : Mma} {rest : List Mma} {p : ATile}
    (hunfed : (s.tile t).arr.unfed = m :: rest) (hpre : m.pre = some ready) (hstarted : m.started = false)
    (hfailed : m.failed = false) (hready : ready ≤ (s.tile t).arr.clk)
    (hbefore : 0 < m.pass → m.startT + m.m ≤ (s.tile t).arr.clk) (hp : (s.tile t).arr.preload = some p) :
    ∃ a, passStartDo s t = s.setArr t a ∧ a.resident = some p ∧ a.preload = none ∧ a.acc = (s.tile t).arr.acc := by
  have hwait : (m.started || m.failed || decide ((s.tile t).arr.clk < ready)
      || (decide (m.pass > 0) && decide ((s.tile t).arr.clk < m.startT + m.m))) = false := by
    simp only [hstarted, hfailed, Nat.not_lt.mpr hready, decide_false, Bool.or_self, Bool.false_or, Bool.and_eq_false_imp,
      decide_eq_true_eq, decide_eq_false_iff_not, Nat.not_lt]
    exact hbefore
  unfold passStartDo State.arr
  simp only [hunfed, hpre, hwait, hp, Bool.false_eq_true, if_false]
  exact ⟨_, rfl, rfl, rfl, rfl⟩

/-! ### Rows (R189) -/

theorem feedPlanes_length {s : State} {t : Nat} {ctx : Option (Nat × Nat)} {fs : List (Elem × Plane)}
    (h : feedPlanes s t ctx = some fs) : fs.length = 8 := by
  cases ctx with
  | none => exact absurd h (by simp [feedPlanes])
  | some c =>
    simp only [feedPlanes] at h
    split at h
    case isTrue hlen => rwa [← Option.some.inj h]
    case isFalse => cases h

/-- Where the tokens of a row stand at the eight FEEDs, no FEED's token differs in SEQ from its scale token. -/
theorem seqs_agree_of_rowTokens {s : State} {t : Nat} {m : Mma} {l : List (Tok × Option Tok)} {g slot : Nat}
    (harr : m.arr = some (g, slot)) (hl : rowTokens s t m = some l) :
    ∃ fs, feedPlanes s t m.arr = some fs
      ∧ ∀ f ∈ fs, ((feedOffers s m slot f.1 f.2).map seqDiffers).getD false = false := by
  unfold rowTokens at hl
  cases hfs : feedPlanes s t m.arr with
  | none => rw [hfs, harr] at hl; cases hl
  | some fs =>
    rw [harr] at hfs
    simp only [harr, hfs] at hl
    refine ⟨fs, rfl, fun f hf => ?_⟩
    split at hl
    case isFalse => cases hl
    case isTrue hall =>
      rw [← feedPlanes_length hfs] at hall
      have hsome := List.filterMap_length_eq_length.mp hall f hf
      cases ho : feedOffers s m slot f.1 f.2 with
      | none => rfl
      | some p =>
        rw [ho] at hsome
        simpa [Option.isSome_filter] using hsome

/-- No FEED raises SCALE_SEQ where the tokens of the row stand at all eight. -/
theorem scaleFaults_of_rowTokens {s : State} {t : Nat} {m : Mma} {l : List (Tok × Option Tok)} {g slot : Nat}
    (hnext : rowNext (s.tile t).arr = some m) (harr : m.arr = some (g, slot)) (hl : rowTokens s t m = some l) :
    scaleFaults s t = s := by
  obtain ⟨fs, hfs, hagree⟩ := seqs_agree_of_rowTokens harr hl
  unfold scaleFaults State.arr
  simp only [hnext, hfs]
  simp only [harr]
  refine List.foldlRecOn (motive := (· = s)) _ _ rfl fun r hr j _ => ?_
  rw [hr]
  cases hj : fs[j]? with
  | none => rfl
  | some f => exact if_neg (by rw [hagree f (List.mem_of_getElem? hj)]; exact Bool.false_ne_true)

/-- A FEED consumes its part of a row in its collar; nothing else of the machine changes. -/
theorem feedTake_spec (s : State) (t slot j : Nat) (scale : Bool) :
    ∃ cs, feedTake s t slot j scale = { s with collars := cs } := by
  unfold feedTake
  simp only
  split
  · exact ⟨s.collars, rfl⟩
  · exact ⟨_, rfl⟩

theorem foldl_feedTake_spec (t slot : Nat) (scale : Bool) : ∀ (l : List Nat) (s : State),
    ∃ cs, l.foldl (fun s j => feedTake s t slot j scale) s = { s with collars := cs }
  | [], s => ⟨s.collars, rfl⟩
  | j :: l, s => by
    obtain ⟨cs, hcs⟩ := feedTake_spec s t slot j scale
    obtain ⟨ds, hds⟩ := foldl_feedTake_spec t slot scale l { s with collars := cs }
    exact ⟨ds, by rw [List.foldl_cons, hcs, hds]⟩

/-- An accepted row's sums join those on their way, none of them landed; no accumulator word has changed. -/
theorem acceptRow_spec (s : State) (t : Nat) (m : Mma) (l : List (Tok × Option Tok)) (slot : Nat) (p : ATile) :
    ∃ c, ((acceptRow s t m l slot p).tile t).arr.contribs = (s.tile t).arr.contribs ++ [c]
      ∧ c.mma = m.id ∧ c.pass = m.pass
      ∧ c.row = (if m.ds then m.row0 + m.pass * m.m + m.rows else m.row0 + m.rows)
      ∧ c.sums = rowSums p (rowNum (l.map (·.1))) ((l.map fun q => match q.2 with
          | some b => rowScales m.pair m.rows b
          | none => []).flatten)
      ∧ c.base = (s.tile t).arr.clk ∧ c.left = List.range 128 ∧ c.add = (!m.ds && (decide (m.pass > 0) || m.acc))
      ∧ ((acceptRow s t m l slot p).tile t).arr.acc = (s.tile t).arr.acc
      ∧ ((acceptRow s t m l slot p).tile t).ctx = (s.tile t).ctx
      ∧ ∀ a, (acceptRow s t m l slot p).byte a = s.byte a := by
  obtain ⟨cs, hcs⟩ := foldl_feedTake_spec t slot
    (decide (m.pair ≥ 9) && (decide (m.rows + 1 ≥ m.m) || (m.rows + 1) % scaleRows m.pair == 0)) (List.range 8) s
  unfold acceptRow
  simp only [hcs, State.tile_setTile, State.tile_setArr]
  exact ⟨_, rfl, rfl, rfl, rfl, rfl, rfl, rfl, rfl, rfl, rfl, fun _ => rfl⟩

theorem exec_aRowAccept {s : State} {t : Nat} {m : Mma} {l : List (Tok × Option Tok)} {g slot : Nat} {p : ATile}
    (hstill : (s.tile t).still = false) (hdue : rowDue (s.tile t) = some m) (hl : rowTokens s t m = some l)
    (harr : m.arr = some (g, slot)) (hp : (s.tile t).arr.resident = some p) :
    exec (.aRowAccept t) s = .next (acceptRow s t m l slot p) := by
  have hnext : rowNext (s.tile t).arr = some m := (Option.filter_eq_some_iff.mp hdue).1
  change execARowAccept t s = _
  unfold execARowAccept
  simp only [scaleFaults_of_rowTokens hnext harr hl, hstill, hdue, hl, harr, hp, Bool.false_eq_true, if_false]

/-- Settles O24, event by event, from what the meaning of each leaves in its tile. -/
theorem arrayEventsAdvance : Obligations.ArrayEventsAdvance := by
  unfold Obligations.ArrayEventsAdvance
  intro s t
  refine ⟨fun hhold => ?assert, fun hhold => ?release, ?preload, ?start, ?row⟩
  case assert =>
    exact ⟨_, exec_tileHoldAssert ((holdWanted_iff s t).mpr hhold), State.tile_setTile _ _ _,
      fun w hw => State.tile_setTile_ne _ _ _ _ hw⟩
  case release =>
    exact ⟨_, exec_tileHoldRelease (hhold ∘ (holdWanted_iff s t).mp), State.tile_setTile _ _ _,
      fun w hw => State.tile_setTile_ne _ _ _ _ hw⟩
  case preload =>
    intro m pass c hstill hnext hc hcheck hgood
    obtain ⟨a, p, ha, hpre, hslot, htoks, hpair, hacc⟩ := preloadDo_of_passCheck true hnext hc hcheck hgood
    refine ⟨_, p, exec_decompressorPreload hstill, ?_⟩
    rw [ha, State.tile_setArr]
    exact ⟨hpre, hslot, htoks, hpair, hacc, rfl, fun _ => rfl⟩
  case start =>
    intro m rest ready p hstill hunfed hpre hstarted hfailed hready hbefore hp
    obtain ⟨a, ha, hres, hnone, hacc⟩ := passStartDo_of_ready hunfed hpre hstarted hfailed hready hbefore hp
    refine ⟨_, exec_passStart hstill, ?_⟩
    rw [ha, State.tile_setArr]
    exact ⟨hres, hnone, hacc, rfl, fun _ => rfl⟩
  case row =>
    intro m l g slot p hstill hdue hl harr hp
    obtain ⟨c, hc⟩ := acceptRow_spec s t m l slot p
    exact ⟨_, c, exec_aRowAccept hstill hdue hl harr hp, hc⟩

end Sys2Proof.Machine

/-! ## A table of earlier values that lists a word twice

`Claim.ldaccReturnsWords` speaks of every state, those among them whose tables do not list rising keys. The table of the
values an early ldacc may still return (R195) is looked up at the first entry of a word; an ldacc that returns the word's
own value takes that entry out, and a second entry of the same word then shows. -/

namespace Sys2Proof.Machine

/-- An ldacc of words 0 to 31 of row 0 waits on tile 0. Word 0 is listed twice in the table of earlier values: first
with none, then with 7, which an mma of tag 1 replaced. -/
def ldaccOfWordListedTwice : State :=
  State.reset.setTile 0 { ({} : Tile) with
    ctx := { ops := [{ id := 9, tag := 0, ord := 0, bno := 0, pc := 0, kind := .ldacc 0 0 0 0, at' := 0 }] }
    arr := { old := [(0, []), (0, [(1, 7)])] } }

/-- The ldacc has taken the first entry out, and 7 is there to be read. -/
theorem old_after_ldaccOfWordListedTwice {r : State} (hr : exec (.loadDataReturn 0 9) ldaccOfWordListedTwice = .next r) :
    tget [] (r.tile 0).arr.old 0 = [(1, 7)] := by
  have hrun : (match exec (.loadDataReturn 0 9) ldaccOfWordListedTwice with
    | .next r => tget [] (r.tile 0).arr.old 0
    | _ => []) = [(1, 7)] := by decide +kernel
  rwa [hr] at hrun

/-- Refutes O21, by its clause on ldacc: in `ldaccOfWordListedTwice` word 0 has no earlier value before the ldacc and has
one after it, while the clause leaves it an end of the list it had. The state meets every hypothesis of the clause, but
its table's keys do not rise strictly, which the clause does not ask. -/
theorem not_accumulatorWritesLand : ¬ Obligations.AccumulatorWritesLand := by
  unfold Obligations.AccumulatorWritesLand
  rintro ⟨-, hldacc, -⟩
  obtain ⟨r, hr, -, -, -, -, -, -, hwords⟩ := hldacc ldaccOfWordListedTwice 0 9 0 0 0 0 _ rfl rfl rfl rfl (by decide)
    (Nat.le_refl 0) (fun p _ _ _ _ _ _ => Nat.zero_le p.ord) (by decide) rfl
  obtain ⟨i, hold, -⟩ := hwords 0 (by decide)
  have hbefore : tget [] (ldaccOfWordListedTwice.tile 0).arr.old 0 = [] := rfl
  have hafter : [(1, 7)] = (tget [] (ldaccOfWordListedTwice.tile 0).arr.old 0).drop i :=
    (old_after_ldaccOfWordListedTwice hr).symm.trans hold
  rw [hbefore, List.drop_nil] at hafter
  cases hafter

end Sys2Proof.Machine
